-- ==== Sys2Proof/Word.lean ====
section
/-! DEFINITION. The words of the OD1280: bytes, slot words, registers, lines, and their plainest arithmetic.
Multi-byte values lie in memory in little-endian order (spec 00 R4). -/

namespace Sys2Proof

abbrev Byte := BitVec 8
/-- A slot word or a bank-unit instruction (15 R309, 21 R440). -/
abbrev Word := BitVec 32
/-- A general register, a pointer, a system register (06 R138). -/
abbrev DWord := BitVec 64
/-- A vector register or one line of the vector file (06 R138, R139). -/
abbrev Line := BitVec 2048
/-- A lane predicate, one bit per byte lane (06 R138). -/
abbrev QReg := BitVec 256

/-- Bit `i` of a number. -/
def bit (x i : Nat) : Nat := x / 2 ^ i % 2

/-- Bits `[hi:lo]` of a number, both ends included (00 R4). -/
def bits (x hi lo : Nat) : Nat := x / 2 ^ lo % 2 ^ (hi + 1 - lo)

/-- The two's-complement reading of the low `w` bits of `x`. -/
def signed (w x : Nat) : Int :=
  if x % 2 ^ w < 2 ^ (w - 1) then (x % 2 ^ w : Nat) else ((x % 2 ^ w : Nat) : Int) - (2 ^ w : Nat)

/-- An integer as a `w`-bit pattern. -/
def unsigned (w : Nat) (x : Int) : Nat := (x % ((2 ^ w : Nat) : Int)).toNat

/-- The little-endian bytes of a number, `n` of them. -/
def toBytes : Nat → Nat → List Byte
  | 0, _ => []
  | n + 1, x => BitVec.ofNat 8 x :: toBytes n (x / 256)

/-- The number that little-endian bytes hold. -/
def ofBytes : List Byte → Nat
  | [] => 0
  | b :: bs => b.toNat + 256 * ofBytes bs

/-- `⌊log2 n⌋`, 0 for 0. -/
abbrev log2 (n : Nat) : Nat := Nat.log2 n

/-- `⌈a ÷ b⌉`. -/
def ceilDiv (a b : Nat) : Nat := (a + b - 1) / b

/-- Element `i` of a list, or the default `d` past its end. -/
abbrev nth {α : Type} (l : List α) (i : Nat) (d : α) : α := l.getD i d

end Sys2Proof
end

