-- ==== Sys2Proof/Syntax.lean ====
section
/-! DEFINITION. The instruction set: one constructor per row of spec/opcode_table.json.
A row with an encoding carries its fields at the widths and under the letters of the table (pn, pk: the
predicate of an S format, 15 R311); a routine microword carries the fields of 19 R405; an operation or event
of the module, which has no encoding, carries no field: what it names (a core, a context, a link, a port, a
message) stands in the state's event argument (Machine/State.lean, EventArg). -/

namespace Sys2Proof

inductive Instr where
  -- routine microwords (19 R405)
  | clr (rb : BitVec 6) (nr : BitVec 7)
  | feed (off : BitVec 24)
  | mac (nvm1 : BitVec 9) (rs rb : BitVec 6)
  | scale (off : BitVec 24)
  | out (rb : BitVec 6) (nr : BitVec 7)
  | waith
  | fliph
  | microLoop (cntm1 : BitVec 8) (backm1 : BitVec 6)
  | microEnd
  -- S slots (15 R311 to R317): pn and pk are the predicate
  | nop
  | add (pn : BitVec 1) (pk : BitVec 3) (d a b : BitVec 6)
  | sub (pn : BitVec 1) (pk : BitVec 3) (d a b : BitVec 6)
  | and (pn : BitVec 1) (pk : BitVec 3) (d a b : BitVec 6)
  | or (pn : BitVec 1) (pk : BitVec 3) (d a b : BitVec 6)
  | xor (pn : BitVec 1) (pk : BitVec 3) (d a b : BitVec 6)
  | andn (pn : BitVec 1) (pk : BitVec 3) (d a b : BitVec 6)
  | sel (pn : BitVec 1) (pk : BitVec 3) (d a b : BitVec 6) (f : BitVec 3)
  | shl (pn : BitVec 1) (pk : BitVec 3) (d a b : BitVec 6)
  | shr (pn : BitVec 1) (pk : BitVec 3) (d a b : BitVec 6)
  | sar (pn : BitVec 1) (pk : BitVec 3) (d a b : BitVec 6)
  | rotl (pn : BitVec 1) (pk : BitVec 3) (d a b : BitVec 6)
  | min (pn : BitVec 1) (pk : BitVec 3) (d a b : BitVec 6)
  | max (pn : BitVec 1) (pk : BitVec 3) (d a b : BitVec 6)
  | minu (pn : BitVec 1) (pk : BitVec 3) (d a b : BitVec 6)
  | maxu (pn : BitVec 1) (pk : BitVec 3) (d a b : BitVec 6)
  | mul (pn : BitVec 1) (pk : BitVec 3) (d a b : BitVec 6)
  | mulh (pn : BitVec 1) (pk : BitVec 3) (d a b : BitVec 6)
  | mulhu (pn : BitVec 1) (pk : BitVec 3) (d a b : BitVec 6)
  | div (pn : BitVec 1) (pk : BitVec 3) (d a b : BitVec 6)
  | divu (pn : BitVec 1) (pk : BitVec 3) (d a b : BitVec 6)
  | rem (pn : BitVec 1) (pk : BitVec 3) (d a b : BitVec 6)
  | remu (pn : BitVec 1) (pk : BitVec 3) (d a b : BitVec 6)
  | clz (pn : BitVec 1) (pk : BitVec 3) (d a : BitVec 6)
  | ctz (pn : BitVec 1) (pk : BitVec 3) (d a : BitVec 6)
  | popc (pn : BitVec 1) (pk : BitVec 3) (d a : BitVec 6)
  | brev (pn : BitVec 1) (pk : BitVec 3) (d a : BitVec 6)
  | bswap (pn : BitVec 1) (pk : BitVec 3) (d a : BitVec 6)
  | extf (pn : BitVec 1) (pk : BitVec 3) (d a b : BitVec 6)
  | insf (pn : BitVec 1) (pk : BitVec 3) (d a b : BitVec 6)
  | addi (pn : BitVec 1) (pk : BitVec 3) (d a : BitVec 6) (i : BitVec 9)
  | andi (pn : BitVec 1) (pk : BitVec 3) (d a : BitVec 6) (i : BitVec 9)
  | ori (pn : BitVec 1) (pk : BitVec 3) (d a : BitVec 6) (i : BitVec 9)
  | xori (pn : BitVec 1) (pk : BitVec 3) (d a : BitVec 6) (i : BitVec 9)
  | shli (pn : BitVec 1) (pk : BitVec 3) (d a : BitVec 6) (i : BitVec 9)
  | shri (pn : BitVec 1) (pk : BitVec 3) (d a : BitVec 6) (i : BitVec 9)
  | sari (pn : BitVec 1) (pk : BitVec 3) (d a : BitVec 6) (i : BitVec 9)
  | li (pn : BitVec 1) (pk : BitVec 3) (d : BitVec 6) (i : BitVec 15)
  | lih (pn : BitVec 1) (pk : BitVec 3) (d : BitVec 6) (i : BitVec 15)
  | cmp (pn : BitVec 1) (pk d c : BitVec 3) (a b : BitVec 6)
  | cmpi (pn : BitVec 1) (pk d c : BitVec 3) (a : BitVec 6) (i : BitVec 9)
  | kop (pn : BitVec 1) (pk d a b f : BitVec 3)
  | faddF32 (pn : BitVec 1) (pk : BitVec 3) (d a b : BitVec 6) (f : BitVec 3)
  | fsubF32 (pn : BitVec 1) (pk : BitVec 3) (d a b : BitVec 6) (f : BitVec 3)
  | fmulF32 (pn : BitVec 1) (pk : BitVec 3) (d a b : BitVec 6) (f : BitVec 3)
  | ffmaF32 (pn : BitVec 1) (pk : BitVec 3) (d a b : BitVec 6) (f : BitVec 3)
  | fminF32 (pn : BitVec 1) (pk : BitVec 3) (d a b : BitVec 6)
  | fmaxF32 (pn : BitVec 1) (pk : BitVec 3) (d a b : BitVec 6)
  | fcmpF32 (pn : BitVec 1) (pk d c : BitVec 3) (a b : BitVec 6)
  | fcvt (pn : BitVec 1) (pk : BitVec 3) (d a : BitVec 6) (x y f : BitVec 3)
  | faddF64 (pn : BitVec 1) (pk : BitVec 3) (d a b : BitVec 6) (f : BitVec 3)
  | fsubF64 (pn : BitVec 1) (pk : BitVec 3) (d a b : BitVec 6) (f : BitVec 3)
  | fmulF64 (pn : BitVec 1) (pk : BitVec 3) (d a b : BitVec 6) (f : BitVec 3)
  | ffmaF64 (pn : BitVec 1) (pk : BitVec 3) (d a b : BitVec 6) (f : BitVec 3)
  | fminF64 (pn : BitVec 1) (pk : BitVec 3) (d a b : BitVec 6)
  | fmaxF64 (pn : BitVec 1) (pk : BitVec 3) (d a b : BitVec 6)
  | fcmpF64 (pn : BitVec 1) (pk d c : BitVec 3) (a b : BitVec 6)
  | b (pn : BitVec 1) (pk : BitVec 3) (i : BitVec 21)
  | call (pn : BitVec 1) (pk : BitVec 3) (i : BitVec 21)
  | callr (pn : BitVec 1) (pk : BitVec 3) (d a : BitVec 6)
  | jr (pn : BitVec 1) (pk : BitVec 3) (a : BitVec 6)
  | loop (pn : BitVec 1) (pk : BitVec 3) (l a : BitVec 6)
  | loopi (pn : BitVec 1) (pk : BitVec 3) (l : BitVec 6) (i : BitVec 15)
  | brk (pn : BitVec 1) (pk : BitVec 3)
  | trap (pn : BitVec 1) (pk : BitVec 3)
  | yield (pn : BitVec 1) (pk : BitVec 3)
  | exit (pn : BitVec 1) (pk : BitVec 3)
  | spawn (pn : BitVec 1) (pk : BitVec 3) (d a b : BitVec 6)
  | mode (f : BitVec 1)
  | cnew (pn : BitVec 1) (pk : BitVec 3) (d : BitVec 6)
  | cjoin (pn : BitVec 1) (pk : BitVec 3) (a : BitVec 6)
  | cleave (pn : BitVec 1) (pk : BitVec 3)
  | cbar (pn : BitVec 1) (pk : BitVec 3)
  | mfs (pn : BitVec 1) (pk : BitVec 3) (d : BitVec 6) (i : BitVec 9)
  | mts (pn : BitVec 1) (pk : BitVec 3) (m : BitVec 1) (a : BitVec 6) (i : BitVec 9)
  | mput (pn : BitVec 1) (pk : BitVec 3) (a : BitVec 6) (i : BitVec 9)
  | mget (pn : BitVec 1) (pk : BitVec 3) (d : BitVec 6) (i : BitVec 9)
  | ext (x : BitVec 25)
  | eret (pn : BitVec 1) (pk : BitVec 3)
  | tlbi (pn : BitVec 1) (pk : BitVec 3) (a : BitVec 6)
  | halt (pn : BitVec 1) (pk : BitVec 3)
  | idle (pn : BitVec 1) (pk : BitVec 3)
  | csave (pn : BitVec 1) (pk : BitVec 3) (a : BitVec 6)
  | cload (pn : BitVec 1) (pk : BitVec 3) (a : BitVec 6)
  -- V slots (15 R318 to R320)
  | vadd (q : BitVec 3) (e : BitVec 2) (d a b : BitVec 6)
  | vsub (q : BitVec 3) (e : BitVec 2) (d a b : BitVec 6)
  | vadds (q : BitVec 3) (e : BitVec 2) (d a b : BitVec 6) (u : BitVec 1)
  | vsubs (q : BitVec 3) (e : BitVec 2) (d a b : BitVec 6) (u : BitVec 1)
  | vmul (q : BitVec 3) (e : BitVec 2) (d a b : BitVec 6)
  | vmulh (q : BitVec 3) (e : BitVec 2) (d a b : BitVec 6) (u : BitVec 1)
  | vdot4 (q : BitVec 3) (d a b : BitVec 6) (u : BitVec 1)
  | vmin (q : BitVec 3) (e : BitVec 2) (d a b : BitVec 6) (u : BitVec 1)
  | vmax (q : BitVec 3) (e : BitVec 2) (d a b : BitVec 6) (u : BitVec 1)
  | vabs (q : BitVec 3) (e : BitVec 2) (d a : BitVec 6)
  | vneg (q : BitVec 3) (e : BitVec 2) (d a : BitVec 6)
  | vpopc (q : BitVec 3) (e : BitVec 2) (d a : BitVec 6)
  | vclz (q : BitVec 3) (e : BitVec 2) (d a : BitVec 6)
  | vand (q : BitVec 3) (d a b : BitVec 6)
  | vor (q : BitVec 3) (d a b : BitVec 6)
  | vxor (q : BitVec 3) (d a b : BitVec 6)
  | vandn (q : BitVec 3) (d a b : BitVec 6)
  | vshl (q : BitVec 3) (e : BitVec 2) (d a b : BitVec 6)
  | vshr (q : BitVec 3) (e : BitVec 2) (d a b : BitVec 6)
  | vsar (q : BitVec 3) (e : BitVec 2) (d a b : BitVec 6)
  | vshli (q : BitVec 3) (e : BitVec 2) (d a : BitVec 6) (i : BitVec 8)
  | vshri (q : BitVec 3) (e : BitVec 2) (d a : BitVec 6) (i : BitVec 8)
  | vcmp (q : BitVec 3) (e : BitVec 2) (c d : BitVec 3) (a b : BitVec 6)
  | vsel (q : BitVec 3) (d a b : BitVec 6)
  | qop (d a b : BitVec 3) (f : BitVec 2)
  | qfromg (d : BitVec 3) (a : BitVec 6)
  | vfadd (q : BitVec 3) (e : BitVec 2) (d a b : BitVec 6) (f : BitVec 2)
  | vfsub (q : BitVec 3) (e : BitVec 2) (d a b : BitVec 6) (f : BitVec 2)
  | vfmul (q : BitVec 3) (e : BitVec 2) (d a b : BitVec 6) (f : BitVec 2)
  | vfma (q : BitVec 3) (e : BitVec 2) (d a b : BitVec 6) (f : BitVec 2)
  | vfnma (q : BitVec 3) (e : BitVec 2) (d a b : BitVec 6) (f : BitVec 2)
  | vfmin (q : BitVec 3) (e : BitVec 2) (d a b : BitVec 6)
  | vfmax (q : BitVec 3) (e : BitVec 2) (d a b : BitVec 6)
  | vfcmp (q : BitVec 3) (e : BitVec 2) (c d : BitVec 3) (a b : BitVec 6)
  | vcvt1 (q : BitVec 3) (r : BitVec 2) (d a : BitVec 6) (x y : BitVec 4)
  | vcvt2 (q : BitVec 3) (r : BitVec 1) (d a : BitVec 6) (x y : BitVec 4)
  | vcvtef1 (q : BitVec 3) (r : BitVec 2) (d a : BitVec 6) (x y : BitVec 4)
  | vcvtef2 (q : BitVec 3) (r : BitVec 1) (d a : BitVec 6) (x y : BitVec 4)
  | vsum (q : BitVec 3) (e : BitVec 2) (d a : BitVec 6) (f : BitVec 2)
  | vrmax (q : BitVec 3) (e : BitVec 2) (d a : BitVec 6) (f : BitVec 2)
  | vrmin (q : BitVec 3) (e : BitVec 2) (d a : BitVec 6) (f : BitVec 2)
  | vscan (q : BitVec 3) (e : BitVec 2) (d a : BitVec 6) (f : BitVec 2)
  | vperm (q : BitVec 3) (e : BitVec 2) (d a b : BitVec 6)
  | vshuf (q : BitVec 3) (e : BitVec 2) (d a : BitVec 6) (i : BitVec 8)
  | vslide (q : BitVec 3) (e : BitVec 2) (d a : BitVec 6) (i : BitVec 8)
  | vbcast (q : BitVec 3) (e : BitVec 2) (d a : BitVec 6)
  | vextr (q : BitVec 3) (e : BitVec 2) (d a : BitVec 6) (i : BitVec 8)
  | vmovi (q : BitVec 3) (e : BitVec 2) (d : BitVec 6) (i : BitVec 8)
  | vmov (q : BitVec 3) (d a : BitVec 6)
  | vtget (q : BitVec 3) (d t : BitVec 6) (l : BitVec 4)
  | vtset (q : BitVec 3) (t a : BitVec 6) (l : BitVec 4)
  | vrdacc (q : BitVec 3) (d a : BitVec 6)
  -- the X slot (15 R321, R322)
  | tq (q : BitVec 3) (d a t : BitVec 6) (e : BitVec 2) (w : BitVec 1)
  | tqp (q : BitVec 3) (d a t : BitVec 6)
  | tqi (q : BitVec 3) (d a t : BitVec 6) (e : BitVec 2)
  | tload (a t : BitVec 6)
  | tinfo (d t : BitVec 6)
  | rcp (q : BitVec 3) (d a : BitVec 6) (e : BitVec 2)
  | rsq (q : BitVec 3) (d a : BitVec 6) (e : BitVec 2)
  | exp2 (q : BitVec 3) (d a : BitVec 6) (e : BitVec 2)
  | log2 (q : BitVec 3) (d a : BitVec 6) (e : BitVec 2)
  | sinpi (q : BitVec 3) (d a : BitVec 6) (e : BitVec 2)
  | cospi (q : BitVec 3) (d a : BitVec 6) (e : BitVec 2)
  | vrand (q : BitVec 3) (d : BitVec 6) (e : BitVec 2)
  -- the M slot (15 R323, R324)
  | mcall (s : BitVec 2) (r : BitVec 12) (f : BitVec 4) (b : BitVec 1)
  | msync (s : BitVec 2)
  | mreload (s : BitVec 2)
  | mflip (s : BitVec 2) (l : BitVec 3) (m : BitVec 4)
  | mswitch (s : BitVec 2) (l : BitVec 3) (m : BitVec 4) (d : BitVec 1)
  | mload (s : BitVec 2)
  | mlock (d : BitVec 1)
  | bfly (d a : BitVec 5) (r : BitVec 3) (s : BitVec 2) (p : BitVec 1)
  | tperm (d a : BitVec 5) (p : BitVec 1)
  -- C slots (15 R325 to R327)
  | ldb (c : BitVec 4) (d b : BitVec 6) (i : BitVec 9)
  | ldbn (c : BitVec 4) (d b : BitVec 6) (i : BitVec 9)
  | ldh (c : BitVec 4) (d b : BitVec 6) (i : BitVec 9)
  | ldhn (c : BitVec 4) (d b : BitVec 6) (i : BitVec 9)
  | ldw (c : BitVec 4) (d b : BitVec 6) (i : BitVec 9)
  | ldwn (c : BitVec 4) (d b : BitVec 6) (i : BitVec 9)
  | ldd (c : BitVec 4) (d b : BitVec 6) (i : BitVec 9)
  | stb (c : BitVec 4) (d b : BitVec 6) (i : BitVec 9)
  | sth (c : BitVec 4) (d b : BitVec 6) (i : BitVec 9)
  | stw (c : BitVec 4) (d b : BitVec 6) (i : BitVec 9)
  | std (c : BitVec 4) (d b : BitVec 6) (i : BitVec 9)
  | vld (c : BitVec 4) (d b i : BitVec 6)
  | vst (c : BitVec 4) (d b i : BitVec 6)
  | vldq (c : BitVec 4) (q : BitVec 3) (d b i : BitVec 6)
  | vstq (c : BitVec 4) (q : BitVec 3) (d b i : BitVec 6)
  | tld (c : BitVec 4) (t b i : BitVec 6)
  | tst (c : BitVec 4) (t b i : BitVec 6)
  | vgatherW (c : BitVec 4) (q : BitVec 3) (d a b : BitVec 6)
  | vgatherD (c : BitVec 4) (q : BitVec 3) (d a b : BitVec 6)
  | vscatterW (c : BitVec 4) (q : BitVec 3) (d a b : BitVec 6)
  | vscatterD (c : BitVec 4) (q : BitVec 3) (d a b : BitVec 6)
  | aadd (c : BitVec 4) (p : BitVec 2) (d b s : BitVec 6) (z : BitVec 1)
  | amin (c : BitVec 4) (p : BitVec 2) (d b s : BitVec 6) (z : BitVec 1)
  | amax (c : BitVec 4) (p : BitVec 2) (d b s : BitVec 6) (z : BitVec 1)
  | axchg (c : BitVec 4) (p : BitVec 2) (d b s : BitVec 6) (z : BitVec 1)
  | acas (c : BitVec 4) (p : BitVec 2) (d b s : BitVec 6) (z : BitVec 1)
  | afadd (c : BitVec 4) (p : BitVec 2) (d b s : BitVec 6) (z : BitVec 1)
  | afaddh (c : BitVec 4) (p : BitVec 2) (d b s : BitVec 6) (z : BitVec 1)
  | fence (m : BitVec 16) (p : BitVec 2)
  | waitw (c : BitVec 4) (k : BitVec 3) (v b : BitVec 6)
  | copy (c : BitVec 4) (p : BitVec 2) (a b h : BitVec 4)
  | copyt (c : BitVec 4) (p : BitVec 2) (a b g h : BitVec 4)
  | copyx (c : BitVec 4) (p : BitVec 2) (m : BitVec 1) (a b g h : BitVec 4)
  | copyg (c : BitVec 4) (p : BitVec 2) (a b g h : BitVec 4)
  | copysa (c : BitVec 4) (p : BitVec 2) (m : BitVec 1) (a b g h : BitVec 4)
  | copyw (m : BitVec 1) (a : BitVec 4)
  | barinit (c : BitVec 4) (d b : BitVec 6) (i : BitVec 9)
  | barexp (c : BitVec 4) (d b : BitVec 6) (i : BitVec 9)
  | bararv (c : BitVec 4) (b : BitVec 6) (i : BitVec 9)
  | barwait (c : BitVec 4) (d b : BitVec 6) (i : BitVec 9)
  | send (c l q : BitVec 4) (v g : BitVec 6)
  | recv (c l q : BitVec 4) (v : BitVec 6)
  | fbind (f : BitVec 3) (t : BitVec 4) (a b g : BitVec 6)
  | fwr (f : BitVec 3) (t : BitVec 4) (a : BitVec 6)
  | frd (f : BitVec 3) (t : BitVec 4) (a : BitVec 6)
  -- bank-unit instructions (21 R440, R441)
  | bnop
  | bld (z : BitVec 2) (d a : BitVec 4) (i : BitVec 1) (m : BitVec 10)
  | bst (z : BitVec 2) (a b : BitVec 4) (i : BitVec 1) (m : BitVec 10)
  | bpop (z : BitVec 2) (d : BitVec 4) (t : BitVec 1)
  | bpush (a : BitVec 4) (p : BitVec 3)
  | badd (z : BitVec 2) (d a b : BitVec 4) (t : BitVec 1)
  | bmul (z : BitVec 2) (d a b : BitVec 4) (t : BitVec 1)
  | bfma (z : BitVec 2) (d a b : BitVec 4) (t : BitVec 1)
  | bcmp (z d : BitVec 2) (a b : BitVec 4) (c : BitVec 3)
  | bsel (z : BitVec 2) (d a b : BitVec 4)
  | bacc (z : BitVec 2) (d a : BitVec 4) (t : BitVec 1)
  | bskip
  | bloop (a : BitVec 4) (m : BitVec 10)
  | bend
  -- the module: power, time, links, host ports, commands, scheduler, engines (events and operations)
  | powerOn
  | resetInput
  | thermalTrip
  | powerFault
  | powerLossErase
  | watchdogExpiry
  | thermalController
  | cycControlWrite
  | timeExchange
  | linkRetrain
  | linkDown
  | flitReceive
  | retry
  | retryRepeat
  | idleFlit
  | queueMessage
  | creditGrant
  | creditReturn
  | memoryRequest
  | memoryReply
  | hostmemReply
  | burgeeRead
  | burgeeWrite
  | crbaseWrite
  | crsizeWrite
  | registerWrite
  | launch
  | sessionCreate
  | sessionDestroy
  | map
  | unmap
  | handleRegister
  | handleRelease
  | checkpoint
  | restore
  | queryIdentity
  | querySequence
  | queryFaultLog
  | queryHeatMap
  | queryAttestation
  | mgmtReset
  | mgmtFirmwareUpdate
  | mgmtCoreMapChange
  | mgmtPowerCap
  | mgmtTimeRoot
  | autoCheckpoint
  | foldComplete
  | completionPost
  | launchEntry
  | launchComplete
  | sessionKill
  | heatDecay
  | pageExchange
  | exchangeSwap
  | accessPerform
  | tableRefresh
  | dispatch
  | loadComplete
  | preemption
  | quantumExpiry
  | priorityAgeing
  | park
  | parkWake
  | parkPoll
  | saveComplete
  | repushEntry
  | contextSwitch
  | resultLanding
  | trapEntry
  | strandDone
  | modeComplete
  | idleEnd
  | tlbiComplete
  | heatTokenCycle
  | routineStart
  | mreloadExecute
  | reloadDone
  | mflipExecute
  | macroModeChange
  | mloadExecute
  | tloadStart
  | tloadComplete
  | bufferEntry
  | copyStart
  | beatIssue
  | beatComplete
  | transferComplete
  | copyFaultTimeout
  | bindingResolve
  | rowOperationStart
  | rowBoundary
  | guaranteedSlot
  | waveStart
  | waitwPoll
  | mloadComplete
  | csaveComplete
  | cloadComplete
  deriving DecidableEq, Repr

end Sys2Proof
end

