-- ==== Sys2Proof/WellFormed.lean ====
section
/-! DEFINITION. Which instructions are well formed: the field values that chapter 15 does not mark Reserved
or out of range (15 R309, R315 to R327), the numbers and targets that are listed (06 R153, 15 R317, 21 R439),
and the limits of the microwords and the bank-unit words (19 R405, R406, 21 R441, R442). -/

namespace Sys2Proof

/-- The numbers MFS may name (06 R153, 21 R439). -/
def sysReadable (n : BitVec 9) : Bool :=
  n.toNat ∈ [0x000, 0x001, 0x002, 0x003, 0x004, 0x008, 0x009, 0x00A, 0x00B, 0x00C, 0x010, 0x011, 0x012,
    0x013, 0x018, 0x019, 0x01A, 0x01B, 0x01C, 0x100, 0x101, 0x102, 0x103, 0x108]

/-- The numbers MTS may name: the listed ones that are not RO (06 R153, 21 R439). -/
def sysWritable (n : BitVec 9) : Bool :=
  n.toNat ∈ [0x000, 0x002, 0x004, 0x010, 0x011, 0x012, 0x013, 0x018, 0x019, 0x108]

/-- The targets of MPUT and MGET (15 R317). -/
def moveTarget (n : BitVec 9) : Bool :=
  n.toNat < 8 || (0x010 ≤ n.toNat && n.toNat < 0x020) || 0x100 ≤ n.toNat

/-- Bytes of an element of width code `e` (15 R318). -/
def elemBytes (e : BitVec 2) : Nat := 2 ^ e.toNat

/-- A listed format pair of FCVT: distinct types, not both integers (15 R316). -/
def fcvtPair (x y : BitVec 3) : Bool :=
  x.toNat ≤ 5 && y.toNat ≤ 5 && x != y && (x.toNat ≤ 1 || y.toNat ≤ 1)

/-- Whether every field of the instruction holds a value the spec admits. -/
def Instr.wf : Instr → Bool
  -- S class
  | .kop _ _ _ _ kb f => f.toNat < 6 || kb == 0
  | .faddF32 _ _ _ _ _ f | .fsubF32 _ _ _ _ _ f | .fmulF32 _ _ _ _ _ f | .ffmaF32 _ _ _ _ _ f
  | .faddF64 _ _ _ _ _ f | .fsubF64 _ _ _ _ _ f | .fmulF64 _ _ _ _ _ f | .ffmaF64 _ _ _ _ _ f =>
    f.toNat ≤ 5
  | .fcmpF32 _ _ _ c _ _ | .fcmpF64 _ _ _ c _ _ => c.toNat ≤ 5
  | .fcvt _ _ _ _ x y f => fcvtPair x y && f.toNat ≤ 5
  | .mfs _ _ _ i => sysReadable i
  | .mts _ _ m _ i => sysWritable i && (m == 0 || i == 0x012 || i == 0x013)
  | .mput _ _ _ i => moveTarget i
  | .mget _ _ _ i => moveTarget i
  -- V class
  | .vfcmp _ _ c _ _ _ => c.toNat ≤ 5
  | .vsum _ _ _ _ f | .vscan _ _ _ _ f => f == 0 || f == 2
  | .vrmax _ _ _ _ f | .vrmin _ _ _ _ f => f.toNat ≤ 2
  | .vcvtef1 _ _ d _ _ _ | .vcvtef2 _ _ d _ _ _ => d != 63
  | .vextr _ e _ _ i => i.toNat < 256 / elemBytes e
  | .vtget _ _ t _ => t.toNat ≤ 19
  | .vtset _ t _ _ => t.toNat ≤ 19
  -- X class
  | .tq _ _ _ _ e _ => e.toNat ≤ 2
  | .tqp _ d a _ => d.toNat ≤ 62 && a.toNat ≤ 62
  | .tqi _ _ _ _ e | .rcp _ _ _ e | .rsq _ _ _ e | .exp2 _ _ _ e | .log2 _ _ _ e
  | .sinpi _ _ _ e | .cospi _ _ _ e => e == 1 || e == 2
  | .vrand _ _ e => e.toNat ≤ 2
  -- M class
  | .bfly _ _ r s _ => 1 ≤ r.toNat && r.toNat ≤ 5 && !(s == 1 && (r == 2 || r == 4))
  -- C class
  | .tld _ t _ _ | .tst _ t _ _ => t.toNat ≤ 19
  | .aadd _ p _ _ _ _ | .amin _ p _ _ _ _ | .amax _ p _ _ _ _ | .axchg _ p _ _ _ _ | .acas _ p _ _ _ _
  | .afadd _ p _ _ _ _ | .afaddh _ p _ _ _ _ => p.toNat ≤ 2
  | .fence _ p => p.toNat ≤ 2
  | .copy _ p _ _ _ | .copyt _ p _ _ _ _ | .copyx _ p _ _ _ _ _ | .copyg _ p _ _ _ _
  | .copysa _ p _ _ _ _ _ => p.toNat ≤ 2
  -- bank-unit class
  | .bld _ d a i _ => d.toNat < 8 && a.toNat < 8 && !(i == 1 && d == a)
  | .bst _ a _ _ _ => a.toNat < 8
  | .bacc _ d _ _ => 8 ≤ d.toNat
  | .bloop a m => a.toNat < 8 && m.toNat ≤ 255
  -- microwords
  | .clr _ nr | .out _ nr => 1 ≤ nr.toNat && nr.toNat ≤ 64
  | .feed off | .scale off => off.toNat % 64 == 0
  | _ => true

end Sys2Proof
end

