-- ==== Sys2Proof/Decode.lean ====
section
/-! DEFINITION. Decoding and encoding of the 32-bit words of the five slot classes (15 R309 to R327), of the
bank-unit words (21 R440, R441) and of the 64-bit routine microwords (19 R405). -/

namespace Sys2Proof

/-- Why a word is no instruction of its class (15 R309). -/
inductive DecodeError where
  /-- An op that its class does not assign. -/
  | unassigned
  /-- A Reserved field, or a bit the row fixes, holds another value. -/
  | reservedBits
  /-- A field holds a value marked Reserved or out of range. -/
  | outOfRange
  deriving DecidableEq, Repr

/-- Field `[lo + n - 1 : lo]` of a word. -/
def fld {m : Nat} (lo n : Nat) (w : BitVec m) : BitVec n := w.extractLsb' lo n

/-- The instruction, where the word's bits under `mask` are `val`. -/
def fixedBits (w : Word) (mask val : Word) (i : Instr) : Except DecodeError Instr :=
  if w &&& mask = val then .ok i else .error .reservedBits

/-- The instruction, where its field values are admitted. -/
def admitted (r : Except DecodeError Instr) : Except DecodeError Instr :=
  match r with
  | .ok i => if i.wf then .ok i else .error .outOfRange
  | .error e => .error e

/-- The raw reading of a S-class word: its op, then its fields where the fixed bits are as the table has them. -/
def rawS (w : Word) : Except DecodeError Instr :=
  match (w.extractLsb' 25 7).toNat with
  | 0x00 => fixedBits w 0x1FFFFFF 0x0000000 (.nop)
  | 0x01 => fixedBits w 0x0000007 0x0000000 (.add (fld 24 1 w) (fld 21 3 w) (fld 15 6 w) (fld 9 6 w) (fld 3 6 w))
  | 0x02 => fixedBits w 0x0000007 0x0000000 (.sub (fld 24 1 w) (fld 21 3 w) (fld 15 6 w) (fld 9 6 w) (fld 3 6 w))
  | 0x03 => fixedBits w 0x0000007 0x0000000 (.and (fld 24 1 w) (fld 21 3 w) (fld 15 6 w) (fld 9 6 w) (fld 3 6 w))
  | 0x04 => fixedBits w 0x0000007 0x0000000 (.or (fld 24 1 w) (fld 21 3 w) (fld 15 6 w) (fld 9 6 w) (fld 3 6 w))
  | 0x05 => fixedBits w 0x0000007 0x0000000 (.xor (fld 24 1 w) (fld 21 3 w) (fld 15 6 w) (fld 9 6 w) (fld 3 6 w))
  | 0x06 => fixedBits w 0x0000007 0x0000000 (.andn (fld 24 1 w) (fld 21 3 w) (fld 15 6 w) (fld 9 6 w) (fld 3 6 w))
  | 0x07 => fixedBits w 0x0000000 0x0000000 (.sel (fld 24 1 w) (fld 21 3 w) (fld 15 6 w) (fld 9 6 w) (fld 3 6 w) (fld 0 3 w))
  | 0x08 => fixedBits w 0x0000007 0x0000000 (.shl (fld 24 1 w) (fld 21 3 w) (fld 15 6 w) (fld 9 6 w) (fld 3 6 w))
  | 0x09 => fixedBits w 0x0000007 0x0000000 (.shr (fld 24 1 w) (fld 21 3 w) (fld 15 6 w) (fld 9 6 w) (fld 3 6 w))
  | 0x0A => fixedBits w 0x0000007 0x0000000 (.sar (fld 24 1 w) (fld 21 3 w) (fld 15 6 w) (fld 9 6 w) (fld 3 6 w))
  | 0x0B => fixedBits w 0x0000007 0x0000000 (.rotl (fld 24 1 w) (fld 21 3 w) (fld 15 6 w) (fld 9 6 w) (fld 3 6 w))
  | 0x0C => fixedBits w 0x0000007 0x0000000 (.min (fld 24 1 w) (fld 21 3 w) (fld 15 6 w) (fld 9 6 w) (fld 3 6 w))
  | 0x0D => fixedBits w 0x0000007 0x0000000 (.max (fld 24 1 w) (fld 21 3 w) (fld 15 6 w) (fld 9 6 w) (fld 3 6 w))
  | 0x0E => fixedBits w 0x0000007 0x0000000 (.minu (fld 24 1 w) (fld 21 3 w) (fld 15 6 w) (fld 9 6 w) (fld 3 6 w))
  | 0x0F => fixedBits w 0x0000007 0x0000000 (.maxu (fld 24 1 w) (fld 21 3 w) (fld 15 6 w) (fld 9 6 w) (fld 3 6 w))
  | 0x10 => fixedBits w 0x0000007 0x0000000 (.mul (fld 24 1 w) (fld 21 3 w) (fld 15 6 w) (fld 9 6 w) (fld 3 6 w))
  | 0x11 => fixedBits w 0x0000007 0x0000000 (.mulh (fld 24 1 w) (fld 21 3 w) (fld 15 6 w) (fld 9 6 w) (fld 3 6 w))
  | 0x12 => fixedBits w 0x0000007 0x0000000 (.mulhu (fld 24 1 w) (fld 21 3 w) (fld 15 6 w) (fld 9 6 w) (fld 3 6 w))
  | 0x13 => fixedBits w 0x0000007 0x0000000 (.div (fld 24 1 w) (fld 21 3 w) (fld 15 6 w) (fld 9 6 w) (fld 3 6 w))
  | 0x14 => fixedBits w 0x0000007 0x0000000 (.divu (fld 24 1 w) (fld 21 3 w) (fld 15 6 w) (fld 9 6 w) (fld 3 6 w))
  | 0x15 => fixedBits w 0x0000007 0x0000000 (.rem (fld 24 1 w) (fld 21 3 w) (fld 15 6 w) (fld 9 6 w) (fld 3 6 w))
  | 0x16 => fixedBits w 0x0000007 0x0000000 (.remu (fld 24 1 w) (fld 21 3 w) (fld 15 6 w) (fld 9 6 w) (fld 3 6 w))
  | 0x18 => fixedBits w 0x00001FF 0x0000000 (.clz (fld 24 1 w) (fld 21 3 w) (fld 15 6 w) (fld 9 6 w))
  | 0x19 => fixedBits w 0x00001FF 0x0000000 (.ctz (fld 24 1 w) (fld 21 3 w) (fld 15 6 w) (fld 9 6 w))
  | 0x1A => fixedBits w 0x00001FF 0x0000000 (.popc (fld 24 1 w) (fld 21 3 w) (fld 15 6 w) (fld 9 6 w))
  | 0x1B => fixedBits w 0x00001FF 0x0000000 (.brev (fld 24 1 w) (fld 21 3 w) (fld 15 6 w) (fld 9 6 w))
  | 0x1C => fixedBits w 0x00001FF 0x0000000 (.bswap (fld 24 1 w) (fld 21 3 w) (fld 15 6 w) (fld 9 6 w))
  | 0x1D => fixedBits w 0x0000007 0x0000000 (.extf (fld 24 1 w) (fld 21 3 w) (fld 15 6 w) (fld 9 6 w) (fld 3 6 w))
  | 0x1E => fixedBits w 0x0000007 0x0000000 (.insf (fld 24 1 w) (fld 21 3 w) (fld 15 6 w) (fld 9 6 w) (fld 3 6 w))
  | 0x20 => fixedBits w 0x0000000 0x0000000 (.addi (fld 24 1 w) (fld 21 3 w) (fld 15 6 w) (fld 9 6 w) (fld 0 9 w))
  | 0x21 => fixedBits w 0x0000000 0x0000000 (.andi (fld 24 1 w) (fld 21 3 w) (fld 15 6 w) (fld 9 6 w) (fld 0 9 w))
  | 0x22 => fixedBits w 0x0000000 0x0000000 (.ori (fld 24 1 w) (fld 21 3 w) (fld 15 6 w) (fld 9 6 w) (fld 0 9 w))
  | 0x23 => fixedBits w 0x0000000 0x0000000 (.xori (fld 24 1 w) (fld 21 3 w) (fld 15 6 w) (fld 9 6 w) (fld 0 9 w))
  | 0x24 => fixedBits w 0x0000000 0x0000000 (.shli (fld 24 1 w) (fld 21 3 w) (fld 15 6 w) (fld 9 6 w) (fld 0 9 w))
  | 0x25 => fixedBits w 0x0000000 0x0000000 (.shri (fld 24 1 w) (fld 21 3 w) (fld 15 6 w) (fld 9 6 w) (fld 0 9 w))
  | 0x26 => fixedBits w 0x0000000 0x0000000 (.sari (fld 24 1 w) (fld 21 3 w) (fld 15 6 w) (fld 9 6 w) (fld 0 9 w))
  | 0x28 => fixedBits w 0x0000000 0x0000000 (.li (fld 24 1 w) (fld 21 3 w) (fld 15 6 w) (fld 0 15 w))
  | 0x29 => fixedBits w 0x0000000 0x0000000 (.lih (fld 24 1 w) (fld 21 3 w) (fld 15 6 w) (fld 0 15 w))
  | 0x2A => fixedBits w 0x0000007 0x0000000 (.cmp (fld 24 1 w) (fld 21 3 w) (fld 18 3 w) (fld 15 3 w) (fld 9 6 w) (fld 3 6 w))
  | 0x2B => fixedBits w 0x0000000 0x0000000 (.cmpi (fld 24 1 w) (fld 21 3 w) (fld 18 3 w) (fld 15 3 w) (fld 9 6 w) (fld 0 9 w))
  | 0x2C => fixedBits w 0x01C71C0 0x0000000 (.kop (fld 24 1 w) (fld 21 3 w) (fld 15 3 w) (fld 9 3 w) (fld 3 3 w) (fld 0 3 w))
  | 0x30 => fixedBits w 0x0000000 0x0000000 (.faddF32 (fld 24 1 w) (fld 21 3 w) (fld 15 6 w) (fld 9 6 w) (fld 3 6 w) (fld 0 3 w))
  | 0x31 => fixedBits w 0x0000000 0x0000000 (.fsubF32 (fld 24 1 w) (fld 21 3 w) (fld 15 6 w) (fld 9 6 w) (fld 3 6 w) (fld 0 3 w))
  | 0x32 => fixedBits w 0x0000000 0x0000000 (.fmulF32 (fld 24 1 w) (fld 21 3 w) (fld 15 6 w) (fld 9 6 w) (fld 3 6 w) (fld 0 3 w))
  | 0x33 => fixedBits w 0x0000000 0x0000000 (.ffmaF32 (fld 24 1 w) (fld 21 3 w) (fld 15 6 w) (fld 9 6 w) (fld 3 6 w) (fld 0 3 w))
  | 0x34 => fixedBits w 0x0000007 0x0000000 (.fminF32 (fld 24 1 w) (fld 21 3 w) (fld 15 6 w) (fld 9 6 w) (fld 3 6 w))
  | 0x35 => fixedBits w 0x0000007 0x0000000 (.fmaxF32 (fld 24 1 w) (fld 21 3 w) (fld 15 6 w) (fld 9 6 w) (fld 3 6 w))
  | 0x36 => fixedBits w 0x0000007 0x0000000 (.fcmpF32 (fld 24 1 w) (fld 21 3 w) (fld 18 3 w) (fld 15 3 w) (fld 9 6 w) (fld 3 6 w))
  | 0x37 => fixedBits w 0x0000000 0x0000000 (.fcvt (fld 24 1 w) (fld 21 3 w) (fld 15 6 w) (fld 9 6 w) (fld 6 3 w) (fld 3 3 w) (fld 0 3 w))
  | 0x38 => fixedBits w 0x0000000 0x0000000 (.faddF64 (fld 24 1 w) (fld 21 3 w) (fld 15 6 w) (fld 9 6 w) (fld 3 6 w) (fld 0 3 w))
  | 0x39 => fixedBits w 0x0000000 0x0000000 (.fsubF64 (fld 24 1 w) (fld 21 3 w) (fld 15 6 w) (fld 9 6 w) (fld 3 6 w) (fld 0 3 w))
  | 0x3A => fixedBits w 0x0000000 0x0000000 (.fmulF64 (fld 24 1 w) (fld 21 3 w) (fld 15 6 w) (fld 9 6 w) (fld 3 6 w) (fld 0 3 w))
  | 0x3B => fixedBits w 0x0000000 0x0000000 (.ffmaF64 (fld 24 1 w) (fld 21 3 w) (fld 15 6 w) (fld 9 6 w) (fld 3 6 w) (fld 0 3 w))
  | 0x3C => fixedBits w 0x0000007 0x0000000 (.fminF64 (fld 24 1 w) (fld 21 3 w) (fld 15 6 w) (fld 9 6 w) (fld 3 6 w))
  | 0x3D => fixedBits w 0x0000007 0x0000000 (.fmaxF64 (fld 24 1 w) (fld 21 3 w) (fld 15 6 w) (fld 9 6 w) (fld 3 6 w))
  | 0x3E => fixedBits w 0x0000007 0x0000000 (.fcmpF64 (fld 24 1 w) (fld 21 3 w) (fld 18 3 w) (fld 15 3 w) (fld 9 6 w) (fld 3 6 w))
  | 0x40 => fixedBits w 0x0000000 0x0000000 (.b (fld 24 1 w) (fld 21 3 w) (fld 0 21 w))
  | 0x41 => fixedBits w 0x0000000 0x0000000 (.call (fld 24 1 w) (fld 21 3 w) (fld 0 21 w))
  | 0x42 => fixedBits w 0x00001FF 0x0000000 (.callr (fld 24 1 w) (fld 21 3 w) (fld 15 6 w) (fld 9 6 w))
  | 0x43 => fixedBits w 0x01F81FF 0x0000000 (.jr (fld 24 1 w) (fld 21 3 w) (fld 9 6 w))
  | 0x44 => fixedBits w 0x00001FF 0x0000000 (.loop (fld 24 1 w) (fld 21 3 w) (fld 15 6 w) (fld 9 6 w))
  | 0x45 => fixedBits w 0x0000000 0x0000000 (.loopi (fld 24 1 w) (fld 21 3 w) (fld 15 6 w) (fld 0 15 w))
  | 0x48 => fixedBits w 0x01FFFFF 0x0000000 (.brk (fld 24 1 w) (fld 21 3 w))
  | 0x49 => fixedBits w 0x01FFFFF 0x0000000 (.trap (fld 24 1 w) (fld 21 3 w))
  | 0x4A => fixedBits w 0x01FFFFF 0x0000000 (.yield (fld 24 1 w) (fld 21 3 w))
  | 0x4B => fixedBits w 0x01FFFFF 0x0000000 (.exit (fld 24 1 w) (fld 21 3 w))
  | 0x4C => fixedBits w 0x0000007 0x0000000 (.spawn (fld 24 1 w) (fld 21 3 w) (fld 15 6 w) (fld 9 6 w) (fld 3 6 w))
  | 0x4D => fixedBits w 0x1FFFFFE 0x0000000 (.mode (fld 0 1 w))
  | 0x50 => fixedBits w 0x0007FFF 0x0000000 (.cnew (fld 24 1 w) (fld 21 3 w) (fld 15 6 w))
  | 0x51 => fixedBits w 0x01F81FF 0x0000000 (.cjoin (fld 24 1 w) (fld 21 3 w) (fld 9 6 w))
  | 0x52 => fixedBits w 0x01FFFFF 0x0000000 (.cleave (fld 24 1 w) (fld 21 3 w))
  | 0x53 => fixedBits w 0x01FFFFF 0x0000000 (.cbar (fld 24 1 w) (fld 21 3 w))
  | 0x58 => fixedBits w 0x0007E00 0x0000000 (.mfs (fld 24 1 w) (fld 21 3 w) (fld 15 6 w) (fld 0 9 w))
  | 0x59 => fixedBits w 0x01F0000 0x0000000 (.mts (fld 24 1 w) (fld 21 3 w) (fld 15 1 w) (fld 9 6 w) (fld 0 9 w))
  | 0x5A => fixedBits w 0x01F8000 0x0000000 (.mput (fld 24 1 w) (fld 21 3 w) (fld 9 6 w) (fld 0 9 w))
  | 0x5B => fixedBits w 0x0007E00 0x0000000 (.mget (fld 24 1 w) (fld 21 3 w) (fld 15 6 w) (fld 0 9 w))
  | 0x60 => fixedBits w 0x0000000 0x0000000 (.ext (fld 0 25 w))
  | 0x70 => fixedBits w 0x01FFFFF 0x0000000 (.eret (fld 24 1 w) (fld 21 3 w))
  | 0x71 => fixedBits w 0x01F81FF 0x0000000 (.tlbi (fld 24 1 w) (fld 21 3 w) (fld 9 6 w))
  | 0x72 => fixedBits w 0x01FFFFF 0x0000000 (.halt (fld 24 1 w) (fld 21 3 w))
  | 0x73 => fixedBits w 0x01FFFFF 0x0000000 (.idle (fld 24 1 w) (fld 21 3 w))
  | 0x74 => fixedBits w 0x01F81FF 0x0000000 (.csave (fld 24 1 w) (fld 21 3 w) (fld 9 6 w))
  | 0x75 => fixedBits w 0x01F81FF 0x0000000 (.cload (fld 24 1 w) (fld 21 3 w) (fld 9 6 w))
  | _ => .error .unassigned

/-- The raw reading of a V-class word: its op, then its fields where the fixed bits are as the table has them. -/
def rawV (w : Word) : Except DecodeError Instr :=
  match (w.extractLsb' 25 7).toNat with
  | 0x01 => fixedBits w 0x0000003 0x0000000 (.vadd (fld 22 3 w) (fld 20 2 w) (fld 14 6 w) (fld 8 6 w) (fld 2 6 w))
  | 0x02 => fixedBits w 0x0000003 0x0000000 (.vsub (fld 22 3 w) (fld 20 2 w) (fld 14 6 w) (fld 8 6 w) (fld 2 6 w))
  | 0x03 => fixedBits w 0x0000002 0x0000000 (.vadds (fld 22 3 w) (fld 20 2 w) (fld 14 6 w) (fld 8 6 w) (fld 2 6 w) (fld 0 1 w))
  | 0x04 => fixedBits w 0x0000002 0x0000000 (.vsubs (fld 22 3 w) (fld 20 2 w) (fld 14 6 w) (fld 8 6 w) (fld 2 6 w) (fld 0 1 w))
  | 0x05 => fixedBits w 0x0000003 0x0000000 (.vmul (fld 22 3 w) (fld 20 2 w) (fld 14 6 w) (fld 8 6 w) (fld 2 6 w))
  | 0x06 => fixedBits w 0x0000002 0x0000000 (.vmulh (fld 22 3 w) (fld 20 2 w) (fld 14 6 w) (fld 8 6 w) (fld 2 6 w) (fld 0 1 w))
  | 0x07 => fixedBits w 0x0300002 0x0200000 (.vdot4 (fld 22 3 w) (fld 14 6 w) (fld 8 6 w) (fld 2 6 w) (fld 0 1 w))
  | 0x08 => fixedBits w 0x0000002 0x0000000 (.vmin (fld 22 3 w) (fld 20 2 w) (fld 14 6 w) (fld 8 6 w) (fld 2 6 w) (fld 0 1 w))
  | 0x09 => fixedBits w 0x0000002 0x0000000 (.vmax (fld 22 3 w) (fld 20 2 w) (fld 14 6 w) (fld 8 6 w) (fld 2 6 w) (fld 0 1 w))
  | 0x0A => fixedBits w 0x00000FF 0x0000000 (.vabs (fld 22 3 w) (fld 20 2 w) (fld 14 6 w) (fld 8 6 w))
  | 0x0B => fixedBits w 0x00000FF 0x0000000 (.vneg (fld 22 3 w) (fld 20 2 w) (fld 14 6 w) (fld 8 6 w))
  | 0x0C => fixedBits w 0x00000FF 0x0000000 (.vpopc (fld 22 3 w) (fld 20 2 w) (fld 14 6 w) (fld 8 6 w))
  | 0x0D => fixedBits w 0x00000FF 0x0000000 (.vclz (fld 22 3 w) (fld 20 2 w) (fld 14 6 w) (fld 8 6 w))
  | 0x10 => fixedBits w 0x0300003 0x0000000 (.vand (fld 22 3 w) (fld 14 6 w) (fld 8 6 w) (fld 2 6 w))
  | 0x11 => fixedBits w 0x0300003 0x0000000 (.vor (fld 22 3 w) (fld 14 6 w) (fld 8 6 w) (fld 2 6 w))
  | 0x12 => fixedBits w 0x0300003 0x0000000 (.vxor (fld 22 3 w) (fld 14 6 w) (fld 8 6 w) (fld 2 6 w))
  | 0x13 => fixedBits w 0x0300003 0x0000000 (.vandn (fld 22 3 w) (fld 14 6 w) (fld 8 6 w) (fld 2 6 w))
  | 0x14 => fixedBits w 0x0000003 0x0000000 (.vshl (fld 22 3 w) (fld 20 2 w) (fld 14 6 w) (fld 8 6 w) (fld 2 6 w))
  | 0x15 => fixedBits w 0x0000003 0x0000000 (.vshr (fld 22 3 w) (fld 20 2 w) (fld 14 6 w) (fld 8 6 w) (fld 2 6 w))
  | 0x16 => fixedBits w 0x0000003 0x0000000 (.vsar (fld 22 3 w) (fld 20 2 w) (fld 14 6 w) (fld 8 6 w) (fld 2 6 w))
  | 0x18 => fixedBits w 0x0000000 0x0000000 (.vshli (fld 22 3 w) (fld 20 2 w) (fld 14 6 w) (fld 8 6 w) (fld 0 8 w))
  | 0x19 => fixedBits w 0x0000000 0x0000000 (.vshri (fld 22 3 w) (fld 20 2 w) (fld 14 6 w) (fld 8 6 w) (fld 0 8 w))
  | 0x20 => fixedBits w 0x0000003 0x0000000 (.vcmp (fld 22 3 w) (fld 20 2 w) (fld 17 3 w) (fld 14 3 w) (fld 8 6 w) (fld 2 6 w))
  | 0x21 => fixedBits w 0x0300003 0x0000000 (.vsel (fld 22 3 w) (fld 14 6 w) (fld 8 6 w) (fld 2 6 w))
  | 0x22 => fixedBits w 0x1FE38E0 0x0000000 (.qop (fld 14 3 w) (fld 8 3 w) (fld 2 3 w) (fld 0 2 w))
  | 0x23 => fixedBits w 0x1FE00FF 0x0000000 (.qfromg (fld 14 3 w) (fld 8 6 w))
  | 0x28 => fixedBits w 0x0000000 0x0000000 (.vfadd (fld 22 3 w) (fld 20 2 w) (fld 14 6 w) (fld 8 6 w) (fld 2 6 w) (fld 0 2 w))
  | 0x29 => fixedBits w 0x0000000 0x0000000 (.vfsub (fld 22 3 w) (fld 20 2 w) (fld 14 6 w) (fld 8 6 w) (fld 2 6 w) (fld 0 2 w))
  | 0x2A => fixedBits w 0x0000000 0x0000000 (.vfmul (fld 22 3 w) (fld 20 2 w) (fld 14 6 w) (fld 8 6 w) (fld 2 6 w) (fld 0 2 w))
  | 0x2B => fixedBits w 0x0000000 0x0000000 (.vfma (fld 22 3 w) (fld 20 2 w) (fld 14 6 w) (fld 8 6 w) (fld 2 6 w) (fld 0 2 w))
  | 0x2C => fixedBits w 0x0000000 0x0000000 (.vfnma (fld 22 3 w) (fld 20 2 w) (fld 14 6 w) (fld 8 6 w) (fld 2 6 w) (fld 0 2 w))
  | 0x2D => fixedBits w 0x0000003 0x0000000 (.vfmin (fld 22 3 w) (fld 20 2 w) (fld 14 6 w) (fld 8 6 w) (fld 2 6 w))
  | 0x2E => fixedBits w 0x0000003 0x0000000 (.vfmax (fld 22 3 w) (fld 20 2 w) (fld 14 6 w) (fld 8 6 w) (fld 2 6 w))
  | 0x2F => fixedBits w 0x0000003 0x0000000 (.vfcmp (fld 22 3 w) (fld 20 2 w) (fld 17 3 w) (fld 14 3 w) (fld 8 6 w) (fld 2 6 w))
  | 0x30 => fixedBits w 0x0000000 0x0000000 (.vcvt1 (fld 22 3 w) (fld 20 2 w) (fld 14 6 w) (fld 8 6 w) (fld 4 4 w) (fld 0 4 w))
  | 0x31 => fixedBits w 0x0200000 0x0000000 (.vcvt2 (fld 22 3 w) (fld 20 1 w) (fld 14 6 w) (fld 8 6 w) (fld 4 4 w) (fld 0 4 w))
  | 0x32 => fixedBits w 0x0000000 0x0000000 (.vcvtef1 (fld 22 3 w) (fld 20 2 w) (fld 14 6 w) (fld 8 6 w) (fld 4 4 w) (fld 0 4 w))
  | 0x33 => fixedBits w 0x0200000 0x0000000 (.vcvtef2 (fld 22 3 w) (fld 20 1 w) (fld 14 6 w) (fld 8 6 w) (fld 4 4 w) (fld 0 4 w))
  | 0x38 => fixedBits w 0x00000FC 0x0000000 (.vsum (fld 22 3 w) (fld 20 2 w) (fld 14 6 w) (fld 8 6 w) (fld 0 2 w))
  | 0x39 => fixedBits w 0x00000FC 0x0000000 (.vrmax (fld 22 3 w) (fld 20 2 w) (fld 14 6 w) (fld 8 6 w) (fld 0 2 w))
  | 0x3A => fixedBits w 0x00000FC 0x0000000 (.vrmin (fld 22 3 w) (fld 20 2 w) (fld 14 6 w) (fld 8 6 w) (fld 0 2 w))
  | 0x3B => fixedBits w 0x00000FC 0x0000000 (.vscan (fld 22 3 w) (fld 20 2 w) (fld 14 6 w) (fld 8 6 w) (fld 0 2 w))
  | 0x40 => fixedBits w 0x0000003 0x0000000 (.vperm (fld 22 3 w) (fld 20 2 w) (fld 14 6 w) (fld 8 6 w) (fld 2 6 w))
  | 0x41 => fixedBits w 0x0000000 0x0000000 (.vshuf (fld 22 3 w) (fld 20 2 w) (fld 14 6 w) (fld 8 6 w) (fld 0 8 w))
  | 0x42 => fixedBits w 0x0000000 0x0000000 (.vslide (fld 22 3 w) (fld 20 2 w) (fld 14 6 w) (fld 8 6 w) (fld 0 8 w))
  | 0x48 => fixedBits w 0x00000FF 0x0000000 (.vbcast (fld 22 3 w) (fld 20 2 w) (fld 14 6 w) (fld 8 6 w))
  | 0x49 => fixedBits w 0x0000000 0x0000000 (.vextr (fld 22 3 w) (fld 20 2 w) (fld 14 6 w) (fld 8 6 w) (fld 0 8 w))
  | 0x4A => fixedBits w 0x0003F00 0x0000000 (.vmovi (fld 22 3 w) (fld 20 2 w) (fld 14 6 w) (fld 0 8 w))
  | 0x4B => fixedBits w 0x03000FF 0x0000000 (.vmov (fld 22 3 w) (fld 14 6 w) (fld 8 6 w))
  | 0x50 => fixedBits w 0x03000C3 0x0000000 (.vtget (fld 22 3 w) (fld 14 6 w) (fld 8 6 w) (fld 2 4 w))
  | 0x51 => fixedBits w 0x03000C3 0x0000000 (.vtset (fld 22 3 w) (fld 14 6 w) (fld 8 6 w) (fld 2 4 w))
  | 0x52 => fixedBits w 0x03000FF 0x0000000 (.vrdacc (fld 22 3 w) (fld 14 6 w) (fld 8 6 w))
  | _ => .error .unassigned

/-- The raw reading of a X-class word: its op, then its fields where the fixed bits are as the table has them. -/
def rawX (w : Word) : Except DecodeError Instr :=
  match (w.extractLsb' 25 7).toNat with
  | 0x01 => fixedBits w 0x0000001 0x0000000 (.tq (fld 22 3 w) (fld 16 6 w) (fld 10 6 w) (fld 4 6 w) (fld 2 2 w) (fld 1 1 w))
  | 0x02 => fixedBits w 0x000000F 0x0000000 (.tqp (fld 22 3 w) (fld 16 6 w) (fld 10 6 w) (fld 4 6 w))
  | 0x03 => fixedBits w 0x0000003 0x0000000 (.tqi (fld 22 3 w) (fld 16 6 w) (fld 10 6 w) (fld 4 6 w) (fld 2 2 w))
  | 0x04 => fixedBits w 0x1FF000F 0x0000000 (.tload (fld 10 6 w) (fld 4 6 w))
  | 0x05 => fixedBits w 0x1C0FC0F 0x0000000 (.tinfo (fld 16 6 w) (fld 4 6 w))
  | 0x08 => fixedBits w 0x00003F3 0x0000000 (.rcp (fld 22 3 w) (fld 16 6 w) (fld 10 6 w) (fld 2 2 w))
  | 0x09 => fixedBits w 0x00003F3 0x0000000 (.rsq (fld 22 3 w) (fld 16 6 w) (fld 10 6 w) (fld 2 2 w))
  | 0x0A => fixedBits w 0x00003F3 0x0000000 (.exp2 (fld 22 3 w) (fld 16 6 w) (fld 10 6 w) (fld 2 2 w))
  | 0x0B => fixedBits w 0x00003F3 0x0000000 (.log2 (fld 22 3 w) (fld 16 6 w) (fld 10 6 w) (fld 2 2 w))
  | 0x0C => fixedBits w 0x00003F3 0x0000000 (.sinpi (fld 22 3 w) (fld 16 6 w) (fld 10 6 w) (fld 2 2 w))
  | 0x0D => fixedBits w 0x00003F3 0x0000000 (.cospi (fld 22 3 w) (fld 16 6 w) (fld 10 6 w) (fld 2 2 w))
  | 0x0E => fixedBits w 0x000FFF3 0x0000000 (.vrand (fld 22 3 w) (fld 16 6 w) (fld 2 2 w))
  | _ => .error .unassigned

/-- The raw reading of a M-class word: its op, then its fields where the fixed bits are as the table has them. -/
def rawM (w : Word) : Except DecodeError Instr :=
  match (w.extractLsb' 25 7).toNat with
  | 0x01 => fixedBits w 0x000003F 0x0000000 (.mcall (fld 23 2 w) (fld 11 12 w) (fld 7 4 w) (fld 6 1 w))
  | 0x02 => fixedBits w 0x07FFFFF 0x0000000 (.msync (fld 23 2 w))
  | 0x03 => fixedBits w 0x07FFFFF 0x0000000 (.mreload (fld 23 2 w))
  | 0x04 => fixedBits w 0x000FFFF 0x0000000 (.mflip (fld 23 2 w) (fld 20 3 w) (fld 16 4 w))
  | 0x05 => fixedBits w 0x0007FFF 0x0000000 (.mswitch (fld 23 2 w) (fld 20 3 w) (fld 16 4 w) (fld 15 1 w))
  | 0x06 => fixedBits w 0x07FFFFF 0x0000000 (.mload (fld 23 2 w))
  | 0x07 => fixedBits w 0x1FF7FFF 0x0000000 (.mlock (fld 15 1 w))
  | 0x08 => fixedBits w 0x180007F 0x0000000 (.bfly (fld 18 5 w) (fld 13 5 w) (fld 10 3 w) (fld 8 2 w) (fld 7 1 w))
  | 0x09 => fixedBits w 0x1801F7F 0x0000000 (.tperm (fld 18 5 w) (fld 13 5 w) (fld 7 1 w))
  | _ => .error .unassigned

/-- The raw reading of a C-class word: its op, then its fields where the fixed bits are as the table has them. -/
def rawC (w : Word) : Except DecodeError Instr :=
  match (w.extractLsb' 25 7).toNat with
  | 0x01 => fixedBits w 0x0000000 0x0000000 (.ldb (fld 21 4 w) (fld 15 6 w) (fld 9 6 w) (fld 0 9 w))
  | 0x02 => fixedBits w 0x0000000 0x0000000 (.ldbn (fld 21 4 w) (fld 15 6 w) (fld 9 6 w) (fld 0 9 w))
  | 0x03 => fixedBits w 0x0000000 0x0000000 (.ldh (fld 21 4 w) (fld 15 6 w) (fld 9 6 w) (fld 0 9 w))
  | 0x04 => fixedBits w 0x0000000 0x0000000 (.ldhn (fld 21 4 w) (fld 15 6 w) (fld 9 6 w) (fld 0 9 w))
  | 0x05 => fixedBits w 0x0000000 0x0000000 (.ldw (fld 21 4 w) (fld 15 6 w) (fld 9 6 w) (fld 0 9 w))
  | 0x06 => fixedBits w 0x0000000 0x0000000 (.ldwn (fld 21 4 w) (fld 15 6 w) (fld 9 6 w) (fld 0 9 w))
  | 0x07 => fixedBits w 0x0000000 0x0000000 (.ldd (fld 21 4 w) (fld 15 6 w) (fld 9 6 w) (fld 0 9 w))
  | 0x08 => fixedBits w 0x0000000 0x0000000 (.stb (fld 21 4 w) (fld 15 6 w) (fld 9 6 w) (fld 0 9 w))
  | 0x09 => fixedBits w 0x0000000 0x0000000 (.sth (fld 21 4 w) (fld 15 6 w) (fld 9 6 w) (fld 0 9 w))
  | 0x0A => fixedBits w 0x0000000 0x0000000 (.stw (fld 21 4 w) (fld 15 6 w) (fld 9 6 w) (fld 0 9 w))
  | 0x0B => fixedBits w 0x0000000 0x0000000 (.std (fld 21 4 w) (fld 15 6 w) (fld 9 6 w) (fld 0 9 w))
  | 0x10 => fixedBits w 0x01C0000 0x0000000 (.vld (fld 21 4 w) (fld 12 6 w) (fld 6 6 w) (fld 0 6 w))
  | 0x11 => fixedBits w 0x01C0000 0x0000000 (.vst (fld 21 4 w) (fld 12 6 w) (fld 6 6 w) (fld 0 6 w))
  | 0x12 => fixedBits w 0x0000000 0x0000000 (.vldq (fld 21 4 w) (fld 18 3 w) (fld 12 6 w) (fld 6 6 w) (fld 0 6 w))
  | 0x13 => fixedBits w 0x0000000 0x0000000 (.vstq (fld 21 4 w) (fld 18 3 w) (fld 12 6 w) (fld 6 6 w) (fld 0 6 w))
  | 0x14 => fixedBits w 0x01C0000 0x0000000 (.tld (fld 21 4 w) (fld 12 6 w) (fld 6 6 w) (fld 0 6 w))
  | 0x15 => fixedBits w 0x01C0000 0x0000000 (.tst (fld 21 4 w) (fld 12 6 w) (fld 6 6 w) (fld 0 6 w))
  | 0x18 => fixedBits w 0x0000000 0x0000000 (.vgatherW (fld 21 4 w) (fld 18 3 w) (fld 12 6 w) (fld 6 6 w) (fld 0 6 w))
  | 0x19 => fixedBits w 0x0000000 0x0000000 (.vgatherD (fld 21 4 w) (fld 18 3 w) (fld 12 6 w) (fld 6 6 w) (fld 0 6 w))
  | 0x1A => fixedBits w 0x0000000 0x0000000 (.vscatterW (fld 21 4 w) (fld 18 3 w) (fld 12 6 w) (fld 6 6 w) (fld 0 6 w))
  | 0x1B => fixedBits w 0x0000000 0x0000000 (.vscatterD (fld 21 4 w) (fld 18 3 w) (fld 12 6 w) (fld 6 6 w) (fld 0 6 w))
  | 0x20 => fixedBits w 0x0000000 0x0000000 (.aadd (fld 21 4 w) (fld 19 2 w) (fld 13 6 w) (fld 7 6 w) (fld 1 6 w) (fld 0 1 w))
  | 0x21 => fixedBits w 0x0000000 0x0000000 (.amin (fld 21 4 w) (fld 19 2 w) (fld 13 6 w) (fld 7 6 w) (fld 1 6 w) (fld 0 1 w))
  | 0x22 => fixedBits w 0x0000000 0x0000000 (.amax (fld 21 4 w) (fld 19 2 w) (fld 13 6 w) (fld 7 6 w) (fld 1 6 w) (fld 0 1 w))
  | 0x23 => fixedBits w 0x0000000 0x0000000 (.axchg (fld 21 4 w) (fld 19 2 w) (fld 13 6 w) (fld 7 6 w) (fld 1 6 w) (fld 0 1 w))
  | 0x24 => fixedBits w 0x0000000 0x0000000 (.acas (fld 21 4 w) (fld 19 2 w) (fld 13 6 w) (fld 7 6 w) (fld 1 6 w) (fld 0 1 w))
  | 0x25 => fixedBits w 0x0000000 0x0000000 (.afadd (fld 21 4 w) (fld 19 2 w) (fld 13 6 w) (fld 7 6 w) (fld 1 6 w) (fld 0 1 w))
  | 0x26 => fixedBits w 0x0000000 0x0000000 (.afaddh (fld 21 4 w) (fld 19 2 w) (fld 13 6 w) (fld 7 6 w) (fld 1 6 w) (fld 0 1 w))
  | 0x28 => fixedBits w 0x000007F 0x0000000 (.fence (fld 9 16 w) (fld 7 2 w))
  | 0x29 => fixedBits w 0x000003F 0x0000000 (.waitw (fld 21 4 w) (fld 18 3 w) (fld 12 6 w) (fld 6 6 w))
  | 0x30 => fixedBits w 0x00700F0 0x0000000 (.copy (fld 21 4 w) (fld 19 2 w) (fld 12 4 w) (fld 8 4 w) (fld 0 4 w))
  | 0x31 => fixedBits w 0x0070000 0x0000000 (.copyt (fld 21 4 w) (fld 19 2 w) (fld 12 4 w) (fld 8 4 w) (fld 4 4 w) (fld 0 4 w))
  | 0x32 => fixedBits w 0x0060000 0x0000000 (.copyx (fld 21 4 w) (fld 19 2 w) (fld 16 1 w) (fld 12 4 w) (fld 8 4 w) (fld 4 4 w) (fld 0 4 w))
  | 0x33 => fixedBits w 0x0070000 0x0000000 (.copyg (fld 21 4 w) (fld 19 2 w) (fld 12 4 w) (fld 8 4 w) (fld 4 4 w) (fld 0 4 w))
  | 0x34 => fixedBits w 0x0060000 0x0000000 (.copysa (fld 21 4 w) (fld 19 2 w) (fld 16 1 w) (fld 12 4 w) (fld 8 4 w) (fld 4 4 w) (fld 0 4 w))
  | 0x35 => fixedBits w 0x1FE0FFF 0x0000000 (.copyw (fld 16 1 w) (fld 12 4 w))
  | 0x38 => fixedBits w 0x0000000 0x0000000 (.barinit (fld 21 4 w) (fld 15 6 w) (fld 9 6 w) (fld 0 9 w))
  | 0x39 => fixedBits w 0x0000000 0x0000000 (.barexp (fld 21 4 w) (fld 15 6 w) (fld 9 6 w) (fld 0 9 w))
  | 0x3A => fixedBits w 0x01F8000 0x0000000 (.bararv (fld 21 4 w) (fld 9 6 w) (fld 0 9 w))
  | 0x3B => fixedBits w 0x0000000 0x0000000 (.barwait (fld 21 4 w) (fld 15 6 w) (fld 9 6 w) (fld 0 9 w))
  | 0x40 => fixedBits w 0x0000001 0x0000000 (.send (fld 21 4 w) (fld 17 4 w) (fld 13 4 w) (fld 7 6 w) (fld 1 6 w))
  | 0x41 => fixedBits w 0x000007F 0x0000000 (.recv (fld 21 4 w) (fld 17 4 w) (fld 13 4 w) (fld 7 6 w))
  | 0x48 => fixedBits w 0x0000000 0x0000000 (.fbind (fld 22 3 w) (fld 18 4 w) (fld 12 6 w) (fld 6 6 w) (fld 0 6 w))
  | 0x49 => fixedBits w 0x0000FFF 0x0000000 (.fwr (fld 22 3 w) (fld 18 4 w) (fld 12 6 w))
  | 0x4A => fixedBits w 0x0000FFF 0x0000000 (.frd (fld 22 3 w) (fld 18 4 w) (fld 12 6 w))
  | _ => .error .unassigned

/-- The raw reading of a bank-unit word (21 R440, R441). -/
def rawB (w : Word) : Except DecodeError Instr :=
  match (w.extractLsb' 27 5).toNat with
  | 0x00 => fixedBits w 0x7FFFFFF 0x0000000 (.bnop)
  | 0x01 => fixedBits w 0x001F800 0x0000000 (.bld (fld 25 2 w) (fld 21 4 w) (fld 17 4 w) (fld 10 1 w) (fld 0 10 w))
  | 0x02 => fixedBits w 0x1E01800 0x0000000 (.bst (fld 25 2 w) (fld 17 4 w) (fld 13 4 w) (fld 10 1 w) (fld 0 10 w))
  | 0x03 => fixedBits w 0x01FFBFF 0x0000000 (.bpop (fld 25 2 w) (fld 21 4 w) (fld 10 1 w))
  | 0x04 => fixedBits w 0x7E1FFF8 0x0000000 (.bpush (fld 17 4 w) (fld 0 3 w))
  | 0x05 => fixedBits w 0x0001BFF 0x0000000 (.badd (fld 25 2 w) (fld 21 4 w) (fld 17 4 w) (fld 13 4 w) (fld 10 1 w))
  | 0x06 => fixedBits w 0x0001BFF 0x0000000 (.bmul (fld 25 2 w) (fld 21 4 w) (fld 17 4 w) (fld 13 4 w) (fld 10 1 w))
  | 0x07 => fixedBits w 0x0001BFF 0x0000000 (.bfma (fld 25 2 w) (fld 21 4 w) (fld 17 4 w) (fld 13 4 w) (fld 10 1 w))
  | 0x08 => fixedBits w 0x18003FF 0x0000000 (.bcmp (fld 25 2 w) (fld 21 2 w) (fld 17 4 w) (fld 13 4 w) (fld 10 3 w))
  | 0x09 => fixedBits w 0x0001FFF 0x0000000 (.bsel (fld 25 2 w) (fld 21 4 w) (fld 17 4 w) (fld 13 4 w))
  | 0x0A => fixedBits w 0x001FBFF 0x0000000 (.bacc (fld 25 2 w) (fld 21 4 w) (fld 17 4 w) (fld 10 1 w))
  | 0x0B => fixedBits w 0x7FFFFFF 0x0000000 (.bskip)
  | 0x0C => fixedBits w 0x7E1FC00 0x0000000 (.bloop (fld 17 4 w) (fld 0 10 w))
  | 0x0D => fixedBits w 0x7FFFFFF 0x0000000 (.bend)
  | _ => .error .unassigned

/-- The slot classes of a bundle (15 R309) and the class of the bank units' words. -/
inductive SlotClass where
  | s | v | x | m | c | bank
  deriving DecidableEq, Repr

/-- Decoding a word in a class. -/
def decode (k : SlotClass) (w : Word) : Except DecodeError Instr :=
  admitted (match k with
    | .s => rawS w | .v => rawV w | .x => rawX w | .m => rawM w | .c => rawC w | .bank => rawB w)

/-- The class of slot `k` of a bundle: S0 S1 V0 V1 X M C0 C1 (06 R135). -/
def slotClass : Nat → SlotClass
  | 0 | 1 => .s
  | 2 | 3 => .v
  | 4 => .x
  | 5 => .m
  | _ => .c

/-- The word of slot `k`: bytes `4k` to `4k + 3` of the bundle (15 R309). -/
def slotWord (bundle : BitVec 256) (k : Nat) : Word := fld (32 * k) 32 bundle

/-- The word of all zeros is the NOP of every class (15 R309); elsewhere the class's map decides. -/
def decodeSlot (k : Nat) (w : Word) : Except DecodeError Instr :=
  if w = 0 then .ok .nop else decode (slotClass k) w

/-- The raw reading of a routine microword (19 R405): its code in bits [63:60], Reserved bits zero. -/
def rawMicro (w : DWord) : Except DecodeError Instr :=
  let zero (m : Nat) (i : Instr) : Except DecodeError Instr :=
    if w &&& BitVec.ofNat 64 m = 0 then .ok i else .error .reservedBits
  match (fld 60 4 w).toNat with
  | 0x1 => zero 0x0FFF_FFFF_FFFF_E000 (.clr (fld 0 6 w) (fld 6 7 w))
  | 0x2 => zero 0x0F00_0000_FFFF_FFFF (.feed (fld 32 24 w))
  | 0x3 => zero 0x0FFF_FFFF_F000_1FC0 (.mac (fld 19 9 w) (fld 13 6 w) (fld 0 6 w))
  | 0x4 => zero 0x0F00_0000_FFFF_FFFF (.scale (fld 32 24 w))
  | 0x5 => zero 0x0FFF_FFFF_FFFF_E000 (.out (fld 0 6 w) (fld 6 7 w))
  | 0x6 => zero 0x0FFF_FFFF_FFFF_FFFF .waith
  | 0x7 => zero 0x0FFF_FFFF_FFFF_FFFF .fliph
  | 0x8 => zero 0x0FFF_FFFF_FFFF_C000 (.microLoop (fld 0 8 w) (fld 8 6 w))
  | 0x9 => zero 0x0FFF_FFFF_FFFF_FFFF .microEnd
  | _ => .error .unassigned

/-- Decoding a routine microword. -/
def decodeMicro (w : DWord) : Except DecodeError Instr := admitted (rawMicro w)

/-- The word of an instruction that has one of 32 bits, from the same tables. -/
def encodeWord : Instr → Option Word
  | .nop => some (0#32 : Word)
  | .add pn pk d a b => some (1#7 ++ pn ++ pk ++ d ++ a ++ b ++ 0#3 : Word)
  | .sub pn pk d a b => some (2#7 ++ pn ++ pk ++ d ++ a ++ b ++ 0#3 : Word)
  | .and pn pk d a b => some (3#7 ++ pn ++ pk ++ d ++ a ++ b ++ 0#3 : Word)
  | .or pn pk d a b => some (4#7 ++ pn ++ pk ++ d ++ a ++ b ++ 0#3 : Word)
  | .xor pn pk d a b => some (5#7 ++ pn ++ pk ++ d ++ a ++ b ++ 0#3 : Word)
  | .andn pn pk d a b => some (6#7 ++ pn ++ pk ++ d ++ a ++ b ++ 0#3 : Word)
  | .sel pn pk d a b f => some (7#7 ++ pn ++ pk ++ d ++ a ++ b ++ f : Word)
  | .shl pn pk d a b => some (8#7 ++ pn ++ pk ++ d ++ a ++ b ++ 0#3 : Word)
  | .shr pn pk d a b => some (9#7 ++ pn ++ pk ++ d ++ a ++ b ++ 0#3 : Word)
  | .sar pn pk d a b => some (10#7 ++ pn ++ pk ++ d ++ a ++ b ++ 0#3 : Word)
  | .rotl pn pk d a b => some (11#7 ++ pn ++ pk ++ d ++ a ++ b ++ 0#3 : Word)
  | .min pn pk d a b => some (12#7 ++ pn ++ pk ++ d ++ a ++ b ++ 0#3 : Word)
  | .max pn pk d a b => some (13#7 ++ pn ++ pk ++ d ++ a ++ b ++ 0#3 : Word)
  | .minu pn pk d a b => some (14#7 ++ pn ++ pk ++ d ++ a ++ b ++ 0#3 : Word)
  | .maxu pn pk d a b => some (15#7 ++ pn ++ pk ++ d ++ a ++ b ++ 0#3 : Word)
  | .mul pn pk d a b => some (16#7 ++ pn ++ pk ++ d ++ a ++ b ++ 0#3 : Word)
  | .mulh pn pk d a b => some (17#7 ++ pn ++ pk ++ d ++ a ++ b ++ 0#3 : Word)
  | .mulhu pn pk d a b => some (18#7 ++ pn ++ pk ++ d ++ a ++ b ++ 0#3 : Word)
  | .div pn pk d a b => some (19#7 ++ pn ++ pk ++ d ++ a ++ b ++ 0#3 : Word)
  | .divu pn pk d a b => some (20#7 ++ pn ++ pk ++ d ++ a ++ b ++ 0#3 : Word)
  | .rem pn pk d a b => some (21#7 ++ pn ++ pk ++ d ++ a ++ b ++ 0#3 : Word)
  | .remu pn pk d a b => some (22#7 ++ pn ++ pk ++ d ++ a ++ b ++ 0#3 : Word)
  | .clz pn pk d a => some (24#7 ++ pn ++ pk ++ d ++ a ++ 0#9 : Word)
  | .ctz pn pk d a => some (25#7 ++ pn ++ pk ++ d ++ a ++ 0#9 : Word)
  | .popc pn pk d a => some (26#7 ++ pn ++ pk ++ d ++ a ++ 0#9 : Word)
  | .brev pn pk d a => some (27#7 ++ pn ++ pk ++ d ++ a ++ 0#9 : Word)
  | .bswap pn pk d a => some (28#7 ++ pn ++ pk ++ d ++ a ++ 0#9 : Word)
  | .extf pn pk d a b => some (29#7 ++ pn ++ pk ++ d ++ a ++ b ++ 0#3 : Word)
  | .insf pn pk d a b => some (30#7 ++ pn ++ pk ++ d ++ a ++ b ++ 0#3 : Word)
  | .addi pn pk d a i => some (32#7 ++ pn ++ pk ++ d ++ a ++ i : Word)
  | .andi pn pk d a i => some (33#7 ++ pn ++ pk ++ d ++ a ++ i : Word)
  | .ori pn pk d a i => some (34#7 ++ pn ++ pk ++ d ++ a ++ i : Word)
  | .xori pn pk d a i => some (35#7 ++ pn ++ pk ++ d ++ a ++ i : Word)
  | .shli pn pk d a i => some (36#7 ++ pn ++ pk ++ d ++ a ++ i : Word)
  | .shri pn pk d a i => some (37#7 ++ pn ++ pk ++ d ++ a ++ i : Word)
  | .sari pn pk d a i => some (38#7 ++ pn ++ pk ++ d ++ a ++ i : Word)
  | .li pn pk d i => some (40#7 ++ pn ++ pk ++ d ++ i : Word)
  | .lih pn pk d i => some (41#7 ++ pn ++ pk ++ d ++ i : Word)
  | .cmp pn pk d c a b => some (42#7 ++ pn ++ pk ++ d ++ c ++ a ++ b ++ 0#3 : Word)
  | .cmpi pn pk d c a i => some (43#7 ++ pn ++ pk ++ d ++ c ++ a ++ i : Word)
  | .kop pn pk d a b f => some (44#7 ++ pn ++ pk ++ 0#3 ++ d ++ 0#3 ++ a ++ 0#3 ++ b ++ f : Word)
  | .faddF32 pn pk d a b f => some (48#7 ++ pn ++ pk ++ d ++ a ++ b ++ f : Word)
  | .fsubF32 pn pk d a b f => some (49#7 ++ pn ++ pk ++ d ++ a ++ b ++ f : Word)
  | .fmulF32 pn pk d a b f => some (50#7 ++ pn ++ pk ++ d ++ a ++ b ++ f : Word)
  | .ffmaF32 pn pk d a b f => some (51#7 ++ pn ++ pk ++ d ++ a ++ b ++ f : Word)
  | .fminF32 pn pk d a b => some (52#7 ++ pn ++ pk ++ d ++ a ++ b ++ 0#3 : Word)
  | .fmaxF32 pn pk d a b => some (53#7 ++ pn ++ pk ++ d ++ a ++ b ++ 0#3 : Word)
  | .fcmpF32 pn pk d c a b => some (54#7 ++ pn ++ pk ++ d ++ c ++ a ++ b ++ 0#3 : Word)
  | .fcvt pn pk d a x y f => some (55#7 ++ pn ++ pk ++ d ++ a ++ x ++ y ++ f : Word)
  | .faddF64 pn pk d a b f => some (56#7 ++ pn ++ pk ++ d ++ a ++ b ++ f : Word)
  | .fsubF64 pn pk d a b f => some (57#7 ++ pn ++ pk ++ d ++ a ++ b ++ f : Word)
  | .fmulF64 pn pk d a b f => some (58#7 ++ pn ++ pk ++ d ++ a ++ b ++ f : Word)
  | .ffmaF64 pn pk d a b f => some (59#7 ++ pn ++ pk ++ d ++ a ++ b ++ f : Word)
  | .fminF64 pn pk d a b => some (60#7 ++ pn ++ pk ++ d ++ a ++ b ++ 0#3 : Word)
  | .fmaxF64 pn pk d a b => some (61#7 ++ pn ++ pk ++ d ++ a ++ b ++ 0#3 : Word)
  | .fcmpF64 pn pk d c a b => some (62#7 ++ pn ++ pk ++ d ++ c ++ a ++ b ++ 0#3 : Word)
  | .b pn pk i => some (64#7 ++ pn ++ pk ++ i : Word)
  | .call pn pk i => some (65#7 ++ pn ++ pk ++ i : Word)
  | .callr pn pk d a => some (66#7 ++ pn ++ pk ++ d ++ a ++ 0#9 : Word)
  | .jr pn pk a => some (67#7 ++ pn ++ pk ++ 0#6 ++ a ++ 0#9 : Word)
  | .loop pn pk l a => some (68#7 ++ pn ++ pk ++ l ++ a ++ 0#9 : Word)
  | .loopi pn pk l i => some (69#7 ++ pn ++ pk ++ l ++ i : Word)
  | .brk pn pk => some (72#7 ++ pn ++ pk ++ 0#21 : Word)
  | .trap pn pk => some (73#7 ++ pn ++ pk ++ 0#21 : Word)
  | .yield pn pk => some (74#7 ++ pn ++ pk ++ 0#21 : Word)
  | .exit pn pk => some (75#7 ++ pn ++ pk ++ 0#21 : Word)
  | .spawn pn pk d a b => some (76#7 ++ pn ++ pk ++ d ++ a ++ b ++ 0#3 : Word)
  | .mode f => some (1291845632#31 ++ f : Word)
  | .cnew pn pk d => some (80#7 ++ pn ++ pk ++ d ++ 0#15 : Word)
  | .cjoin pn pk a => some (81#7 ++ pn ++ pk ++ 0#6 ++ a ++ 0#9 : Word)
  | .cleave pn pk => some (82#7 ++ pn ++ pk ++ 0#21 : Word)
  | .cbar pn pk => some (83#7 ++ pn ++ pk ++ 0#21 : Word)
  | .mfs pn pk d i => some (88#7 ++ pn ++ pk ++ d ++ 0#6 ++ i : Word)
  | .mts pn pk m a i => some (89#7 ++ pn ++ pk ++ 0#5 ++ m ++ a ++ i : Word)
  | .mput pn pk a i => some (90#7 ++ pn ++ pk ++ 0#6 ++ a ++ i : Word)
  | .mget pn pk d i => some (91#7 ++ pn ++ pk ++ d ++ 0#6 ++ i : Word)
  | .ext x => some (96#7 ++ x : Word)
  | .eret pn pk => some (112#7 ++ pn ++ pk ++ 0#21 : Word)
  | .tlbi pn pk a => some (113#7 ++ pn ++ pk ++ 0#6 ++ a ++ 0#9 : Word)
  | .halt pn pk => some (114#7 ++ pn ++ pk ++ 0#21 : Word)
  | .idle pn pk => some (115#7 ++ pn ++ pk ++ 0#21 : Word)
  | .csave pn pk a => some (116#7 ++ pn ++ pk ++ 0#6 ++ a ++ 0#9 : Word)
  | .cload pn pk a => some (117#7 ++ pn ++ pk ++ 0#6 ++ a ++ 0#9 : Word)
  | .vadd q e d a b => some (1#7 ++ q ++ e ++ d ++ a ++ b ++ 0#2 : Word)
  | .vsub q e d a b => some (2#7 ++ q ++ e ++ d ++ a ++ b ++ 0#2 : Word)
  | .vadds q e d a b u => some (3#7 ++ q ++ e ++ d ++ a ++ b ++ 0#1 ++ u : Word)
  | .vsubs q e d a b u => some (4#7 ++ q ++ e ++ d ++ a ++ b ++ 0#1 ++ u : Word)
  | .vmul q e d a b => some (5#7 ++ q ++ e ++ d ++ a ++ b ++ 0#2 : Word)
  | .vmulh q e d a b u => some (6#7 ++ q ++ e ++ d ++ a ++ b ++ 0#1 ++ u : Word)
  | .vdot4 q d a b u => some (7#7 ++ q ++ 2#2 ++ d ++ a ++ b ++ 0#1 ++ u : Word)
  | .vmin q e d a b u => some (8#7 ++ q ++ e ++ d ++ a ++ b ++ 0#1 ++ u : Word)
  | .vmax q e d a b u => some (9#7 ++ q ++ e ++ d ++ a ++ b ++ 0#1 ++ u : Word)
  | .vabs q e d a => some (10#7 ++ q ++ e ++ d ++ a ++ 0#8 : Word)
  | .vneg q e d a => some (11#7 ++ q ++ e ++ d ++ a ++ 0#8 : Word)
  | .vpopc q e d a => some (12#7 ++ q ++ e ++ d ++ a ++ 0#8 : Word)
  | .vclz q e d a => some (13#7 ++ q ++ e ++ d ++ a ++ 0#8 : Word)
  | .vand q d a b => some (16#7 ++ q ++ 0#2 ++ d ++ a ++ b ++ 0#2 : Word)
  | .vor q d a b => some (17#7 ++ q ++ 0#2 ++ d ++ a ++ b ++ 0#2 : Word)
  | .vxor q d a b => some (18#7 ++ q ++ 0#2 ++ d ++ a ++ b ++ 0#2 : Word)
  | .vandn q d a b => some (19#7 ++ q ++ 0#2 ++ d ++ a ++ b ++ 0#2 : Word)
  | .vshl q e d a b => some (20#7 ++ q ++ e ++ d ++ a ++ b ++ 0#2 : Word)
  | .vshr q e d a b => some (21#7 ++ q ++ e ++ d ++ a ++ b ++ 0#2 : Word)
  | .vsar q e d a b => some (22#7 ++ q ++ e ++ d ++ a ++ b ++ 0#2 : Word)
  | .vshli q e d a i => some (24#7 ++ q ++ e ++ d ++ a ++ i : Word)
  | .vshri q e d a i => some (25#7 ++ q ++ e ++ d ++ a ++ i : Word)
  | .vcmp q e c d a b => some (32#7 ++ q ++ e ++ c ++ d ++ a ++ b ++ 0#2 : Word)
  | .vsel q d a b => some (33#7 ++ q ++ 0#2 ++ d ++ a ++ b ++ 0#2 : Word)
  | .qop d a b f => some (8704#15 ++ d ++ 0#3 ++ a ++ 0#3 ++ b ++ f : Word)
  | .qfromg d a => some (8960#15 ++ d ++ a ++ 0#8 : Word)
  | .vfadd q e d a b f => some (40#7 ++ q ++ e ++ d ++ a ++ b ++ f : Word)
  | .vfsub q e d a b f => some (41#7 ++ q ++ e ++ d ++ a ++ b ++ f : Word)
  | .vfmul q e d a b f => some (42#7 ++ q ++ e ++ d ++ a ++ b ++ f : Word)
  | .vfma q e d a b f => some (43#7 ++ q ++ e ++ d ++ a ++ b ++ f : Word)
  | .vfnma q e d a b f => some (44#7 ++ q ++ e ++ d ++ a ++ b ++ f : Word)
  | .vfmin q e d a b => some (45#7 ++ q ++ e ++ d ++ a ++ b ++ 0#2 : Word)
  | .vfmax q e d a b => some (46#7 ++ q ++ e ++ d ++ a ++ b ++ 0#2 : Word)
  | .vfcmp q e c d a b => some (47#7 ++ q ++ e ++ c ++ d ++ a ++ b ++ 0#2 : Word)
  | .vcvt1 q r d a x y => some (48#7 ++ q ++ r ++ d ++ a ++ x ++ y : Word)
  | .vcvt2 q r d a x y => some (49#7 ++ q ++ 0#1 ++ r ++ d ++ a ++ x ++ y : Word)
  | .vcvtef1 q r d a x y => some (50#7 ++ q ++ r ++ d ++ a ++ x ++ y : Word)
  | .vcvtef2 q r d a x y => some (51#7 ++ q ++ 0#1 ++ r ++ d ++ a ++ x ++ y : Word)
  | .vsum q e d a f => some (56#7 ++ q ++ e ++ d ++ a ++ 0#6 ++ f : Word)
  | .vrmax q e d a f => some (57#7 ++ q ++ e ++ d ++ a ++ 0#6 ++ f : Word)
  | .vrmin q e d a f => some (58#7 ++ q ++ e ++ d ++ a ++ 0#6 ++ f : Word)
  | .vscan q e d a f => some (59#7 ++ q ++ e ++ d ++ a ++ 0#6 ++ f : Word)
  | .vperm q e d a b => some (64#7 ++ q ++ e ++ d ++ a ++ b ++ 0#2 : Word)
  | .vshuf q e d a i => some (65#7 ++ q ++ e ++ d ++ a ++ i : Word)
  | .vslide q e d a i => some (66#7 ++ q ++ e ++ d ++ a ++ i : Word)
  | .vbcast q e d a => some (72#7 ++ q ++ e ++ d ++ a ++ 0#8 : Word)
  | .vextr q e d a i => some (73#7 ++ q ++ e ++ d ++ a ++ i : Word)
  | .vmovi q e d i => some (74#7 ++ q ++ e ++ d ++ 0#6 ++ i : Word)
  | .vmov q d a => some (75#7 ++ q ++ 0#2 ++ d ++ a ++ 0#8 : Word)
  | .vtget q d t l => some (80#7 ++ q ++ 0#2 ++ d ++ t ++ 0#2 ++ l ++ 0#2 : Word)
  | .vtset q t a l => some (81#7 ++ q ++ 0#2 ++ t ++ a ++ 0#2 ++ l ++ 0#2 : Word)
  | .vrdacc q d a => some (82#7 ++ q ++ 0#2 ++ d ++ a ++ 0#8 : Word)
  | .tq q d a t e w => some (1#7 ++ q ++ d ++ a ++ t ++ e ++ w ++ 0#1 : Word)
  | .tqp q d a t => some (2#7 ++ q ++ d ++ a ++ t ++ 0#4 : Word)
  | .tqi q d a t e => some (3#7 ++ q ++ d ++ a ++ t ++ e ++ 0#2 : Word)
  | .tload a t => some (2048#16 ++ a ++ t ++ 0#4 : Word)
  | .tinfo d t => some (40#10 ++ d ++ 0#6 ++ t ++ 0#4 : Word)
  | .rcp q d a e => some (8#7 ++ q ++ d ++ a ++ 0#6 ++ e ++ 0#2 : Word)
  | .rsq q d a e => some (9#7 ++ q ++ d ++ a ++ 0#6 ++ e ++ 0#2 : Word)
  | .exp2 q d a e => some (10#7 ++ q ++ d ++ a ++ 0#6 ++ e ++ 0#2 : Word)
  | .log2 q d a e => some (11#7 ++ q ++ d ++ a ++ 0#6 ++ e ++ 0#2 : Word)
  | .sinpi q d a e => some (12#7 ++ q ++ d ++ a ++ 0#6 ++ e ++ 0#2 : Word)
  | .cospi q d a e => some (13#7 ++ q ++ d ++ a ++ 0#6 ++ e ++ 0#2 : Word)
  | .vrand q d e => some (14#7 ++ q ++ d ++ 0#12 ++ e ++ 0#2 : Word)
  | .mcall s r f b => some (1#7 ++ s ++ r ++ f ++ b ++ 0#6 : Word)
  | .msync s => some (2#7 ++ s ++ 0#23 : Word)
  | .mreload s => some (3#7 ++ s ++ 0#23 : Word)
  | .mflip s l m => some (4#7 ++ s ++ l ++ m ++ 0#16 : Word)
  | .mswitch s l m d => some (5#7 ++ s ++ l ++ m ++ d ++ 0#15 : Word)
  | .mload s => some (6#7 ++ s ++ 0#23 : Word)
  | .mlock d => some (3584#16 ++ d ++ 0#15 : Word)
  | .bfly d a r s p => some (32#9 ++ d ++ a ++ r ++ s ++ p ++ 0#7 : Word)
  | .tperm d a p => some (36#9 ++ d ++ a ++ 0#5 ++ p ++ 0#7 : Word)
  | .ldb c d b i => some (1#7 ++ c ++ d ++ b ++ i : Word)
  | .ldbn c d b i => some (2#7 ++ c ++ d ++ b ++ i : Word)
  | .ldh c d b i => some (3#7 ++ c ++ d ++ b ++ i : Word)
  | .ldhn c d b i => some (4#7 ++ c ++ d ++ b ++ i : Word)
  | .ldw c d b i => some (5#7 ++ c ++ d ++ b ++ i : Word)
  | .ldwn c d b i => some (6#7 ++ c ++ d ++ b ++ i : Word)
  | .ldd c d b i => some (7#7 ++ c ++ d ++ b ++ i : Word)
  | .stb c d b i => some (8#7 ++ c ++ d ++ b ++ i : Word)
  | .sth c d b i => some (9#7 ++ c ++ d ++ b ++ i : Word)
  | .stw c d b i => some (10#7 ++ c ++ d ++ b ++ i : Word)
  | .std c d b i => some (11#7 ++ c ++ d ++ b ++ i : Word)
  | .vld c d b i => some (16#7 ++ c ++ 0#3 ++ d ++ b ++ i : Word)
  | .vst c d b i => some (17#7 ++ c ++ 0#3 ++ d ++ b ++ i : Word)
  | .vldq c q d b i => some (18#7 ++ c ++ q ++ d ++ b ++ i : Word)
  | .vstq c q d b i => some (19#7 ++ c ++ q ++ d ++ b ++ i : Word)
  | .tld c t b i => some (20#7 ++ c ++ 0#3 ++ t ++ b ++ i : Word)
  | .tst c t b i => some (21#7 ++ c ++ 0#3 ++ t ++ b ++ i : Word)
  | .vgatherW c q d a b => some (24#7 ++ c ++ q ++ d ++ a ++ b : Word)
  | .vgatherD c q d a b => some (25#7 ++ c ++ q ++ d ++ a ++ b : Word)
  | .vscatterW c q d a b => some (26#7 ++ c ++ q ++ d ++ a ++ b : Word)
  | .vscatterD c q d a b => some (27#7 ++ c ++ q ++ d ++ a ++ b : Word)
  | .aadd c p d b s z => some (32#7 ++ c ++ p ++ d ++ b ++ s ++ z : Word)
  | .amin c p d b s z => some (33#7 ++ c ++ p ++ d ++ b ++ s ++ z : Word)
  | .amax c p d b s z => some (34#7 ++ c ++ p ++ d ++ b ++ s ++ z : Word)
  | .axchg c p d b s z => some (35#7 ++ c ++ p ++ d ++ b ++ s ++ z : Word)
  | .acas c p d b s z => some (36#7 ++ c ++ p ++ d ++ b ++ s ++ z : Word)
  | .afadd c p d b s z => some (37#7 ++ c ++ p ++ d ++ b ++ s ++ z : Word)
  | .afaddh c p d b s z => some (38#7 ++ c ++ p ++ d ++ b ++ s ++ z : Word)
  | .fence m p => some (40#7 ++ m ++ p ++ 0#7 : Word)
  | .waitw c k v b => some (41#7 ++ c ++ k ++ v ++ b ++ 0#6 : Word)
  | .copy c p a b h => some (48#7 ++ c ++ p ++ 0#3 ++ a ++ b ++ 0#4 ++ h : Word)
  | .copyt c p a b g h => some (49#7 ++ c ++ p ++ 0#3 ++ a ++ b ++ g ++ h : Word)
  | .copyx c p m a b g h => some (50#7 ++ c ++ p ++ 0#2 ++ m ++ a ++ b ++ g ++ h : Word)
  | .copyg c p a b g h => some (51#7 ++ c ++ p ++ 0#3 ++ a ++ b ++ g ++ h : Word)
  | .copysa c p m a b g h => some (52#7 ++ c ++ p ++ 0#2 ++ m ++ a ++ b ++ g ++ h : Word)
  | .copyw m a => some (13568#15 ++ m ++ a ++ 0#12 : Word)
  | .barinit c d b i => some (56#7 ++ c ++ d ++ b ++ i : Word)
  | .barexp c d b i => some (57#7 ++ c ++ d ++ b ++ i : Word)
  | .bararv c b i => some (58#7 ++ c ++ 0#6 ++ b ++ i : Word)
  | .barwait c d b i => some (59#7 ++ c ++ d ++ b ++ i : Word)
  | .send c l q v g => some (64#7 ++ c ++ l ++ q ++ v ++ g ++ 0#1 : Word)
  | .recv c l q v => some (65#7 ++ c ++ l ++ q ++ v ++ 0#7 : Word)
  | .fbind f t a b g => some (72#7 ++ f ++ t ++ a ++ b ++ g : Word)
  | .fwr f t a => some (73#7 ++ f ++ t ++ a ++ 0#12 : Word)
  | .frd f t a => some (74#7 ++ f ++ t ++ a ++ 0#12 : Word)
  | .bnop => some (0#32 : Word)
  | .bld z d a i m => some (1#5 ++ z ++ d ++ a ++ 0#6 ++ i ++ m : Word)
  | .bst z a b i m => some (2#5 ++ z ++ 0#4 ++ a ++ b ++ 0#2 ++ i ++ m : Word)
  | .bpop z d t => some (3#5 ++ z ++ d ++ 0#10 ++ t ++ 0#10 : Word)
  | .bpush a p => some (256#11 ++ a ++ 0#14 ++ p : Word)
  | .badd z d a b t => some (5#5 ++ z ++ d ++ a ++ b ++ 0#2 ++ t ++ 0#10 : Word)
  | .bmul z d a b t => some (6#5 ++ z ++ d ++ a ++ b ++ 0#2 ++ t ++ 0#10 : Word)
  | .bfma z d a b t => some (7#5 ++ z ++ d ++ a ++ b ++ 0#2 ++ t ++ 0#10 : Word)
  | .bcmp z d a b c => some (8#5 ++ z ++ 0#2 ++ d ++ a ++ b ++ c ++ 0#10 : Word)
  | .bsel z d a b => some (9#5 ++ z ++ d ++ a ++ b ++ 0#13 : Word)
  | .bacc z d a t => some (10#5 ++ z ++ d ++ a ++ 0#6 ++ t ++ 0#10 : Word)
  | .bskip => some (1476395008#32 : Word)
  | .bloop a m => some (768#11 ++ a ++ 0#7 ++ m : Word)
  | .bend => some (1744830464#32 : Word)
  | _ => none

/-- The microword of an instruction of a routine. -/
def encodeMicro : Instr → Option DWord
  | .clr rb nr => some (1#4 ++ 0#47 ++ nr ++ rb : DWord)
  | .feed off => some (2#4 ++ 0#4 ++ off ++ 0#32 : DWord)
  | .mac nvm1 rs rb => some (3#4 ++ 0#32 ++ nvm1 ++ rs ++ 0#7 ++ rb : DWord)
  | .scale off => some (4#4 ++ 0#4 ++ off ++ 0#32 : DWord)
  | .out rb nr => some (5#4 ++ 0#47 ++ nr ++ rb : DWord)
  | .waith => some (6#4 ++ 0#60 : DWord)
  | .fliph => some (7#4 ++ 0#60 : DWord)
  | .microLoop cntm1 backm1 => some (8#4 ++ 0#46 ++ backm1 ++ cntm1 : DWord)
  | .microEnd => some (9#4 ++ 0#60 : DWord)
  | _ => none

/-- The class whose words an encoded instruction stands in. -/
def Instr.slotKind : Instr → Option SlotClass
  | .nop .. | .add .. | .sub .. | .and .. | .or .. | .xor .. | .andn .. | .sel .. | .shl .. | .shr ..
  | .sar .. | .rotl .. | .min .. | .max .. | .minu .. | .maxu .. | .mul .. | .mulh .. | .mulhu .. | .div ..
  | .divu .. | .rem .. | .remu .. | .clz .. | .ctz .. | .popc .. | .brev .. | .bswap .. | .extf .. | .insf ..
  | .addi .. | .andi .. | .ori .. | .xori .. | .shli .. | .shri .. | .sari .. | .li .. | .lih .. | .cmp ..
  | .cmpi .. | .kop .. | .faddF32 .. | .fsubF32 .. | .fmulF32 .. | .ffmaF32 .. | .fminF32 .. | .fmaxF32 ..
  | .fcmpF32 .. | .fcvt .. | .faddF64 .. | .fsubF64 .. | .fmulF64 .. | .ffmaF64 .. | .fminF64 .. | .fmaxF64 ..
  | .fcmpF64 .. | .b .. | .call .. | .callr .. | .jr .. | .loop .. | .loopi .. | .brk .. | .trap ..
  | .yield .. | .exit .. | .spawn .. | .mode .. | .cnew .. | .cjoin .. | .cleave .. | .cbar .. | .mfs ..
  | .mts .. | .mput .. | .mget .. | .ext .. | .eret .. | .tlbi .. | .halt .. | .idle .. | .csave ..
  | .cload .. => some .s
  | .vadd .. | .vsub .. | .vadds .. | .vsubs .. | .vmul .. | .vmulh .. | .vdot4 .. | .vmin .. | .vmax ..
  | .vabs .. | .vneg .. | .vpopc .. | .vclz .. | .vand .. | .vor .. | .vxor .. | .vandn .. | .vshl ..
  | .vshr .. | .vsar .. | .vshli .. | .vshri .. | .vcmp .. | .vsel .. | .qop .. | .qfromg .. | .vfadd ..
  | .vfsub .. | .vfmul .. | .vfma .. | .vfnma .. | .vfmin .. | .vfmax .. | .vfcmp .. | .vcvt1 .. | .vcvt2 ..
  | .vcvtef1 .. | .vcvtef2 .. | .vsum .. | .vrmax .. | .vrmin .. | .vscan .. | .vperm .. | .vshuf ..
  | .vslide .. | .vbcast .. | .vextr .. | .vmovi .. | .vmov .. | .vtget .. | .vtset .. | .vrdacc .. => some .v
  | .tq .. | .tqp .. | .tqi .. | .tload .. | .tinfo .. | .rcp .. | .rsq .. | .exp2 .. | .log2 .. | .sinpi ..
  | .cospi .. | .vrand .. => some .x
  | .mcall .. | .msync .. | .mreload .. | .mflip .. | .mswitch .. | .mload .. | .mlock .. | .bfly ..
  | .tperm .. => some .m
  | .ldb .. | .ldbn .. | .ldh .. | .ldhn .. | .ldw .. | .ldwn .. | .ldd .. | .stb .. | .sth .. | .stw ..
  | .std .. | .vld .. | .vst .. | .vldq .. | .vstq .. | .tld .. | .tst .. | .vgatherW .. | .vgatherD ..
  | .vscatterW .. | .vscatterD .. | .aadd .. | .amin .. | .amax .. | .axchg .. | .acas .. | .afadd ..
  | .afaddh .. | .fence .. | .waitw .. | .copy .. | .copyt .. | .copyx .. | .copyg .. | .copysa .. | .copyw ..
  | .barinit .. | .barexp .. | .bararv .. | .barwait .. | .send .. | .recv .. | .fbind .. | .fwr .. | .frd .. => some .c
  | .bnop .. | .bld .. | .bst .. | .bpop .. | .bpush .. | .badd .. | .bmul .. | .bfma .. | .bcmp .. | .bsel ..
  | .bacc .. | .bskip .. | .bloop .. | .bend .. => some .bank
  | _ => none

/-- The instruction of the first class, in the order S, V, X, M, C, bank unit, that gives a word a meaning:
a word carries no class tag (15 R309), so a word of several classes is read in the first. -/
def decodeAny (w : Word) : Option (SlotClass × Instr) :=
  [SlotClass.s, .v, .x, .m, .c, .bank].findSome? fun k =>
    match decode k w with
    | .ok i => some (k, i)
    | .error _ => none

/-- The table's numbering of a word's bits is the word's own: bit 0 the least significant (15 R309). A row of
32 bits is a slot or bank-unit word; 64 bits are a routine microword. -/
def decodeTableWord (nbits w : Nat) : Option Instr :=
  if nbits = 64 then
    match decodeMicro (BitVec.ofNat 64 w) with
    | .ok i => some i
    | .error _ => none
  else (decodeAny (BitVec.ofNat 32 w)).map (·.2)

end Sys2Proof
end

