-- ==== Sys2Proof/Config.lean ====
section
/-! DEFINITION. What the module fixes, and the free values: values the spec leaves open, as opaque constants
without a body, so that no proof can see them. -/

namespace Sys2Proof.Config

/-- A value the spec leaves open, one for each number of the state's counter `drawn` (DESIGN CHOICE, log entry 3). -/
opaque freeWord : Nat → BitVec 64

/-- A choice that the spec leaves open (05 R120, R129, 13 R277; DESIGN CHOICE, log entry 10): of what (0 a crew of CNEW, 1 a
save area, 2 a binding slot, 3 a crew of a launch), and of the two numbers that name the occasion. -/
opaque freeChoice : Nat → Nat → Nat → Nat
/-- The random EPOCH of a new journal epoch (02 R50; DESIGN CHOICE, log entry 3). -/
opaque freeEpoch : Nat → BitVec 64

/-- Whether an image or a record carries two good signatures under the vendor keys, whose digests the fuses hold, and,
for an image, matches its digest (03 R66, R68; DESIGN CHOICE, log entry 4). -/
opaque imageVerifies : List Byte → Bool

/-- The class and version of an image's header; the spec names the fields and gives no byte layout
(03 R66; DESIGN CHOICE, log entry 4). -/
opaque imageClass : List Byte → Nat
opaque imageVersion : List Byte → BitVec 32

/-- The parts of a configuration record: the enabled columns, the remap values by rank × 8 + layer, and the damage list,
part by part as numbers: which kind, column, stack or package, layer or pseudo-channel, array or bank; and the bytes
that Ensign writes for the parts of a record of its own, with its signatures (03 R68; DESIGN CHOICE, log entry 4). -/
opaque recordColumns : List Byte → List Nat
opaque recordRemap : List Byte → List Nat
opaque recordDamage : List Byte → List (Nat × Nat × Nat × Nat)
opaque writeRecord : List Nat → List Nat → List (Nat × Nat × Nat × Nat) → List Byte

/-- The start-up pattern of the identity's SRAM array, the mask ROM, and the fuzzy extractor (03 R69, R70; DESIGN CHOICE,
log entry 4). -/
opaque sramPattern : List Byte
opaque maskRom : List Byte
opaque fuzzyExtract : List Byte → List Byte → List Byte

/-- The RSA key that a DRBG seed gives under FIPS 186-5: modulus and exponent, big-endian; the root of the SLH-DSA key of
three seeds; and the two signatures of a message under a key's seed, byte by byte (03 R69, R70; DESIGN CHOICE, log
entry 4). -/
opaque rsaModulus : List Byte → BitVec 3072
opaque rsaExponent : List Byte → BitVec 32
opaque slhRoot : List Byte → BitVec 192
opaque rsaSign : List Byte → List Byte → Nat → Byte
opaque slhSign : List Byte → List Byte → Nat → Byte

/-- The bank of its package that holds a capacity-tier address (03 R72, R75): the JEDEC standard fixes it, and the spec gives
no bits (DESIGN CHOICE, log entry 65). -/
opaque capBank : Nat → Nat

/-- Physical columns, layers, arrays (01 R2, R9). -/
def maxCores : Nat := 128
def channels : Nat := 768
def stackCount : Nat := 12
def layers : Nat := 8

/-- Spans of address (04 R86, R91, R94). -/
def sliceBytes : Nat := 0x100_0000
def hbmBytes : Nat := 0x90_0000_0000
def capBytes : Nat := 0x560_0000_0000
def tableArea : Nat := 0x8F_8000_0000
def pageBytes : Nat := 0x1_0000
def bigPageBytes : Nat := 0x2000_0000

/-- Intervals in main-clock cycles. -/
def quantum : Nat := 2_200_000      -- 05 R122
def parkAfter : Nat := 17_600       -- 05 R123
def ageEvery : Nat := 275_000       -- 05 R117
def faultTimeout : Nat := 11_000_000 -- 12 R268
def idleCycles : Nat := 1_100       -- 21 R436
def bucketMax : Nat := 65_536       -- 09 R232
/-- 24 h (03 R72) at the 1.1 GHz of 00 R2. -/
def dayCycles : Nat := 95_040_000_000_000

end Sys2Proof.Config
end

