-- ==== Sys2Proof/Machine/State.lean ====
section
/-! DEFINITION. The state of the OD1280, as plain data, and the machine right after reset.
Every register and unit the spec names has its field; INVENTORY.md lists each with its rule. -/

namespace Sys2Proof.Machine

/-! ## Contexts -/

/-- Where a register result lands (06 R138): a g, k, q, m, FMT, lc or system register, 8 bytes of a SHP register
(number × 16 + which, 16 R358), or line `n` of the context's window of the vector file (06 R139). -/
inductive Dest where
  | g (n : Nat) | k (n : Nat) | q (n : Nat) | line (n : Nat) | m (n : Nat) | fmt (n : Nat) | lc (n : Nat)
  | shp (n : Nat) | sys (n : Nat)
  deriving DecidableEq, Repr

/-- When a pending result lands (06 R142): at an issue cycle of the context, at a cycle, or once the
access with that number has performed (then `after` cycles or issue cycles later). -/
inductive Due where
  | issue (n : Nat) | cycle (n : Nat) | access (id : Nat)
  deriving DecidableEq, Repr

/-- A register result not yet landed (06 R142, R143). `mask` has a bit for each byte the result writes;
`byLane` says that a q mask chose them. `flags` are the FPFLAGS bits it sets at landing (06 R155);
`bump` marks the BLOCK increment of m7, which adds at landing (10 R247). `wall` is the cycle in which the operation is
physically complete, and `order` its place in the order of issue, issue cycle × 8 + slot. -/
structure Pend where
  dest : Dest
  data : Line := 0
  mask : QReg := 0
  byLane : Bool := false
  due : Due := .cycle 0
  flags : BitVec 5 := 0
  bump : Bool := false
  /-- The line is written through the tile port, which counts no write port (06 R141). -/
  tile : Bool := false
  /-- Which 256-byte line of an access's data the result is (20 R416). -/
  part : Nat := 0
  /-- A table query gives it (11 R255). -/
  table : Bool := false
  wall : Nat := 0
  order : Nat := 0
  deriving DecidableEq, Repr

/-- An active level of the loop buffer (06 R147): its depth, which names its counter, and the addresses of the body's
first and of its end bundle. -/
structure LoopLevel where
  depth : Nat
  start : DWord
  last : DWord
  deriving DecidableEq, Repr

/-- Where the bytes of an access lie: at home on the device (an address of `State.mem`), in host memory behind a
port (1 or 2), or in the HBM4 of the device at the far end of a peer link (04 R94). -/
inductive Home where
  | here (addr : Nat)
  | host (port : Nat) (addr : Nat)
  | peer (link : Nat) (addr : Nat)
  deriving DecidableEq, Repr

/-- The windows of a location (08 R192): slice space, space 0x0 through a tier-0 leaf, the bank-linear window, space 0x0
through another leaf, host physical space. -/
inductive Window where
  | slice | global | bankLinear | tiers | host
  deriving DecidableEq, Repr

/-- One piece of an access: `len` bytes at a home, from byte `off` of the data, reached through pointer `va` in a window.
`mig`: its leaf has MIG set, so that the piece waits for its new home (04 R107). -/
structure Piece where
  home : Home
  off : Nat
  len : Nat
  va : DWord := 0
  win : Window := .global
  mig : Bool := false
  deriving DecidableEq, Repr

/-- The requests of a read that reaches host or peer memory: whether they were sent, and their TAGs, none for a
piece at home (01 R20, 02 R60). -/
structure Src where
  asked : Bool := false
  tags : List (Option Nat) := []
  deriving DecidableEq, Repr

/-- What a feed register holds (13 R279). `seq` numbers the binding, so that a released one is not taken for it.
`pending`: FBIND has issued and the binding has not resolved (20 R430). -/
structure Feed where
  state : BitVec 2 := 0
  wave : Bool := false
  tag : BitVec 4 := 0
  stack : BitVec 4 := 0
  pch : BitVec 6 := 0
  slot : BitVec 2 := 0
  faddr : DWord := 0
  pending : Bool := false
  image : DWord := 0
  arg : DWord := 0
  target : DWord := 0
  /-- The accesses that the FBIND's release waits for, counted by their numbers (08 R205). -/
  relBefore : Nat := 0
  src : Src := {}
  /-- The header of the routine image, once it has been read (13 R275). -/
  hdr : Option Nat := none
  /-- Wave binding: the list of operands that FWR has written (13 R274), each with the release that it awaits. -/
  list : List (DWord × Nat) := []
  deriving DecidableEq, Repr

/-- The registers of a context (06 R138, R139): the window's lines 0 to 63 are v0 to v63 and lines
`64 + 16 n` to `79 + 16 n` are t*n*. -/
structure Regs where
  g : Vector DWord 64 := .replicate 64 0
  k : BitVec 8 := 1
  q : Vector QReg 8 := .replicate 8 0
  line : Vector Line 384 := .replicate 384 0
  acc : Vector Line 64 := .replicate 64 0
  m : Vector DWord 8 := .replicate 8 0
  fmt : Vector DWord 16 := .replicate 16 0
  lc : Vector Word 4 := .replicate 4 0
  shp : Vector (BitVec 1024) 16 := .replicate 16 0
  feed : Vector Feed 8 := .replicate 8 {}
  deriving DecidableEq, Repr

/-- The stored system registers (06 R153 to R156). SESS, STRAND, CORE, NCORES and CYC are read from the strand,
the core and the device. STATUS holds FIXED, HND, PFIXED, DWC, SAT; SYS is the session's. -/
structure Sys where
  status : DWord := 0
  cause : DWord := 0
  epc : DWord := 0
  eva : DWord := 0
  tvec : DWord := 0
  fpflags : DWord := 0
  fpctl : DWord := 0
  rseed0 : DWord := 0
  rseed1 : DWord := 0
  wmk0 : DWord := 0xFFFF_FFFF
  wmk1 : DWord := 0xFFFF_FFFF
  tidn0 : DWord := 0
  tidn1 : DWord := 0
  fmtix : DWord := 0
  deriving DecidableEq, Repr

/-- The states of a context (05 R119). -/
inductive CtxState where
  | free | loading | issuable | blocked | frozen | draining
  deriving DecidableEq, Repr

/-- What an issued bundle's context waits for before the next may issue (06 R142): MODE's drain, EXIT, the landing
before a trap entry, CSAVE, CLOAD with the image that it has read, HALT, IDLE, TLBI, and the landing after ERET. -/
inductive Wait where
  | none
  | mode (fixed : Bool)
  | exit
  | trap (cause eva : DWord)
  | csave (a pc : DWord)
  | cload (image : List Byte)
  | halt
  | idle (since : Nat)
  | tlbi (a : DWord)
  | land
  deriving DecidableEq, Repr

/-- The system registers, and the crew with its open episode, before the slots of a bundle: no slot sees a write of its own
bundle (06 R136, 20 R414). -/
structure Before where
  sys : Sys := {}
  crew : Option (Nat × Nat) := none
  deriving DecidableEq, Repr

/-- How the slot in hand ended, seen by the bundle (06 R149, 20 R413, 05 R119): performed, a trap taken,
the session ended by HALT (21 R435),
a hold before issue, a read of peer memory that has not been answered (04 R99), or a condition not yet satisfied
(`parkable` for WAITW and CBAR). -/
inductive SlotOut where
  | done | trapped | halted | held | stalled | blocked (parkable : Bool)
  deriving DecidableEq, Repr

/-- What an access does (20 R415 to R421, 12 R271): it reads into a pending result, writes the enabled bytes of
its data, does an atomic, or updates a barrier; a fence waits (08 R201). -/
inductive Act where
  | load | store
  | atomic (op : BitVec 3) (sz : Bool) (s cmp : DWord)
  | barInit (e : BitVec 32) | barExp (n : BitVec 32) | barArv
  | fence (mask : BitVec 16) (scope : BitVec 2)
  | send (link : BitVec 4) (rq : BitVec 4) (core : BitVec 7)
  | recv
  deriving DecidableEq, Repr

/-- An access that a strand has issued and that has not performed, or is not acknowledged (08 R196, R211). `id` is
its place in the order of issue, `slot` its slot and `bundle` the issue cycle of its bundle. `own`: a byte of it lies in
the own slice. A load gathers its bytes in `data`; a scalar one gives `size` bytes, sign-extended if `sext`, not before
cycle `landAt`. `acks` are the SEQs of its posted writes. `everyClass`: writes of others that the strand has acquired,
which count as its own in every class (08 R202). -/
structure Access where
  id : Nat
  cls : BitVec 4
  act : Act
  slot : Nat := 6
  bundle : Nat := 0
  own : Bool := false
  everyClass : Bool := false
  pieces : List Piece := []
  data : BitVec 32768 := 0
  src : Src := {}
  posted : Bool := false
  acks : List (Nat × BitVec 32) := []
  size : Nat := 0
  sext : Bool := false
  landAt : Nat := 0
  deriving DecidableEq, Repr

/-- What an engine command's release waits for (08 R205): the accesses numbered below `before` whose class is in
`mask`, at `scope`. -/
structure Release where
  mask : BitVec 16 := 0
  scope : BitVec 2 := 0
  before : Nat := 0
  deriving DecidableEq, Repr

/-- The commands of a matrix stream (19 R391). -/
inductive MKind where
  | mcall | mload | mreload | mflip | mswitch (compute : Bool)
  deriving DecidableEq, Repr

/-- An entry of a matrix stream (09 R218, R225, R235): the command, its copies of m and FMT registers, its
landing cycle and, for a remainder, the routine's loop state. -/
structure MEntry where
  id : Nat
  cmd : Instr
  /-- Which kind of command: the unit decides by it (19 R391). -/
  kind : MKind := .mcall
  rt : Nat := 0
  issueCyc : Nat := 0
  age : Nat := 0
  m0 : DWord := 0
  m1 : DWord := 0
  m2 : DWord := 0
  m3 : DWord := 0
  bd : Bool := false
  fmt : DWord := 0
  fx : Nat := 0
  lambda : Nat := 0
  rem : Bool := false
  half : Bool := false
  loopOn : Bool := false
  loopCnt : Nat := 0
  /-- The microword to resume at and the vectors consumed (09 R235). -/
  pc : Nat := 0
  cursor : Nat := 0
  rel : Release := {}
  /-- The length of the routine, the slice bytes that its OUT writes, and the MLOAD that loads it. -/
  len : Nat := 0
  out : Option (Nat × Nat) := none
  loader : Nat := 0
  /-- A failed MLOAD has marked the call for discard (19 R401). -/
  doomed : Bool := false
  deriving DecidableEq, Repr

/-- One of a context's four matrix streams (09 R225, R237). -/
structure MStream where
  entries : List MEntry := []
  poisoned : Bool := false
  deriving DecidableEq, Repr

/-- What an MCALL claims (09 R229): rows and destination tiles, until its landing cycle (fixed region) or its
finish. `done`: the routine has physically finished or the entry was discarded. -/
structure MClaim where
  entry : Nat
  rows : BitVec 64
  tiles : BitVec 20
  fixed : Bool
  lambda : Nat
  done : Bool := false
  /-- What OUT has produced for lines of the destination tiles, with the bits produced, written at landing
  (09 R231). -/
  tileData : List (Nat × Line × Line) := []
  /-- Its place in the order of issue, and the results that have landed on lines of its tiles in its own landing cycle:
  line, bytes, and whether they were issued later (06 R143). -/
  order : Nat := 0
  met : List (Nat × QReg × Bool) := []
  /-- The results that have landed on lines of its tiles after its landing cycle, while its routine was late (09 R230). -/
  past : List (Nat × QReg) := []
  /-- The stream of the call. -/
  stream : Nat := 0
  /-- The flags of OUT and SAT, which land with the rows (07 R182, R185). -/
  flags : BitVec 5 := 0
  sat : Bool := false
  deriving DecidableEq, Repr

/-- A TLOAD waiting in a context's table queue (18 R383). -/
structure TQEntry where
  ptr : DWord
  slot : BitVec 6
  rel : Release := {}
  seq : Nat := 0
  deriving DecidableEq, Repr

/-- The kinds of copy command (20 R422). -/
inductive CopyKind where
  | copy | copyt | copyx | copyg | copysa
  deriving DecidableEq, Repr

/-- A copy command with what it read at issue (12 R262, R265, 20 R422). `age` names the strand. -/
structure CopyCmd where
  kind : CopyKind
  age : Nat
  sess : Nat
  tid : Nat
  dst : DWord
  src : DWord
  aux : DWord := 0
  mode : Bool := false
  shape : BitVec 1024
  rel : Release := {}
  issueCyc : Nat := 0
  key : Nat := 0
  /-- COPYT: the start time of the command. -/
  time : Option Nat := none
  deriving DecidableEq, Repr

/-- A copy command that has started (12 R264, R266, R268): the run and the offset in it of the next beat, and the
suspended fault, if any: its cycle and pointer. -/
structure CopyRun where
  cmd : CopyCmd
  started : Nat := 0
  run : Nat := 0
  off : Nat := 0
  lastBeat : Nat := 0
  /-- The tile record (20 R424) and the handle's descriptor, read at the start. -/
  record : List Byte := []
  handle : BitVec 1024 := 0
  suspended : Option (Nat × DWord) := none
  src : Src := {}
  /-- COPYG, COPYSA: the index of the row in hand. -/
  index : Option Nat := none
  /-- Its next beat waits for a checkpoint to quiesce (03 R78). -/
  held : Bool := false
  deriving DecidableEq, Repr

/-- A beat that has issued and not performed, or is not acknowledged (12 R266, R267): the command where it stood, its
source and destination pieces, and the SEQs of posted writes. -/
structure Beat where
  of : CopyRun
  src : List Piece := []
  dst : List Piece := []
  len : Nat := 0
  ask : Src := {}
  posted : Bool := false
  acks : List (Nat × BitVec 32) := []
  /-- Its place in the order of issue of the machine. -/
  seq : Nat := 0
  deriving DecidableEq, Repr

/-- A copy channel of a core (12 R262 to R268). `issued`: commands whose last beat has issued, with the number of
their beats still outstanding; `results` of failed ones. -/
structure Chan where
  queue : List CopyCmd := []
  buffer : List CopyCmd := []
  running : Option CopyRun := none
  beats : List Beat := []
  /-- Commands whose last beat has issued or that failed, not yet completed: command and failed. -/
  finishing : List (CopyCmd × Bool) := []
  deriving DecidableEq, Repr

/-- A strand's completed transfers above the watermark: channel, identifier, failed (12 R267). -/
structure DoneXfer where
  chan : Nat
  tid : Nat
  failed : Bool
  deriving DecidableEq, Repr

/-- The requests of a slot of the bundle at PC that reads peer memory, with the access's pieces (04 R99): the far device
checks it, so the bundle issues once it has answered. -/
structure FarRead where
  slot : Nat
  pieces : List Piece
  src : Src
  deriving DecidableEq, Repr

/-- What a parked strand waits for (05 R123): the word at a pointer, or an episode of a crew. -/
inductive ParkCond where
  | waitw (va : DWord) (cc : BitVec 3) (v : DWord)
  | cbar (crew : Nat) (episode : Nat)
  deriving DecidableEq, Repr

/-- A context of a core (05 R119, 06 R138). -/
structure Ctx where
  st : CtxState := .free
  /-- The strand it holds, by age (05 R116). -/
  strand : Option Nat := none
  regs : Regs := {}
  sys : Sys := {}
  pc : DWord := 0
  /-- Issue cycles passed since the strand became RESIDENT (06 R142). -/
  issue : Nat := 0
  pend : List Pend := []
  loops : List LoopLevel := []
  /-- The accesses not performed or not acknowledged, in program order (08 R196). -/
  accesses : List Access := []
  streams : Vector MStream 4 := .replicate 4 {}
  claims : List MClaim := []
  locked : Bool := false
  /-- The issue cycle of the last M-slot operation (09 R238). -/
  lastM : Option Nat := none
  /-- The cycle in which the unit last took an entry of the context (09 R239). -/
  lastTaken : Option Nat := none
  tableQ : List TQEntry := []
  repush0 : List CopyCmd := []
  repush1 : List CopyCmd := []
  doneXfers : List DoneXfer := []
  /-- The failed bits of WMK0, WMK1 stand in the registers. -/
  wait : Wait := .none
  /-- What it waits for after that: a bundle may hold two such operations (21 R433 to R438). -/
  wait2 : Wait := .none
  /-- The bundle at PC is held, blocked or stalled since this cycle (05 R123, R130). -/
  since : Option Nat := none
  stalledFor : Nat := 0
  /-- Slots whose wait condition has been observed to hold while the bundle is held (20 R413). -/
  met : List Nat := []
  /-- The bundle's WAITW and CBAR count as satisfied (20 R414). -/
  parkMet : Bool := false
  /-- The unsatisfied WAITW and CBAR of the bundle at PC, by slot, as last evaluated (05 R123). -/
  conds : List (Nat × ParkCond) := []
  /-- The crew and the episode that the strand's CBAR has arrived in (05 R129). -/
  arrivedIn : Option (Nat × Nat) := none
  /-- A held WAITW on host or peer memory (20 R421): slot, link, TAG and cycle of its last read. -/
  polls : List (Nat × Nat × Nat × Nat) := []
  /-- The reads of peer memory of the bundle at PC. -/
  far : List FarRead := []
  /-- A fault that only the performing of an access has found: CAUSE and EVA. -/
  fault : Option (DWord × DWord) := none
  /-- The requests of a bundle fetch from host or peer memory. -/
  fetch : Src := {}
  /-- The requests of a CLOAD whose image lies in host or peer memory (21 R438). -/
  imageSrc : Src := {}
  /-- Cycles in which the context issues nothing: a taken branch, a trap entry (06 R145, R150). -/
  stall : Nat := 0
  /-- The last slot's outcome. -/
  out : SlotOut := .done
  /-- The address of the next bundle, set by a control transfer (06 R135). -/
  nextPc : Option DWord := none
  /-- What the halt in progress ends in: SAVING, then READY or PARKED (05 R118). -/
  halt : Option Bool := none
  /-- The cycle in which the writing of the save area began (05 R125). -/
  savingAt : Option Nat := none
  /-- MLOCK clear, CSAVE or CLOAD at PC waits for what it drains (06 R142). -/
  mwait : Bool := false
  /-- What the slots of the bundle in hand see of before it (06 R136). -/
  before : Option Before := none
  /-- Messages and credits that the waiting bundle has observed: slot, SEND or RECV, link, core and queue (20 R413). -/
  holds : List (Nat × Bool × Nat × Nat × Nat) := []
  deriving DecidableEq, Repr

/-! ## Cores -/

/-- A logical macro of a column (04 R87, R88, 09 R213): mode (compute or storage), owner, active half, and the
MSWITCH entries that have issued and not changed it yet with their modes, oldest first (08 R210). -/
structure Arr where
  compute : Bool := false
  owner : Option (BitVec 6) := none
  half : Bool := false
  next : List (Nat × Bool) := []
  deriving DecidableEq, Repr

/-- A directory entry of the microprogram store (09 R217, 19 R401). -/
structure DirEntry where
  addr : Nat
  len : Nat
  sess : BitVec 6
  n : Nat
  kcyc : Nat
  loaded : Bool := false
  /-- The rows that its CLR, MAC and OUT name, with 8-bit and with 4-bit weights, and the RB and NR of each OUT. -/
  rows8 : BitVec 64 := 0
  rows16 : BitVec 64 := 0
  outs : List (Nat × Nat) := []
  /-- The MLOAD entry that loads it. -/
  loader : Nat := 0
  deriving DecidableEq, Repr

/-- A table slot's descriptor (11 R252). The entries are bytes of memory. -/
structure TSlot where
  desc : BitVec 128 := 0
  deriving DecidableEq, Repr

/-- The routine or command that the matrix unit runs (09 R225, 19 R410). -/
structure MRun where
  ctx : Nat
  stream : Nat
  entry : MEntry
  /-- The unit is at the microword until this cycle; bit-plane cycles left of a MAC and halves that compute. -/
  busyUntil : Nat := 0
  planes : Nat := 0
  halves : Nat := 0
  src : Src := {}
  /-- Its OUT waits for a checkpoint to quiesce (03 R78). -/
  held : Bool := false
  /-- Its last cycles run: END's, or those of a command that has been carried out (19 R397, R398, R407). -/
  last : Bool := false
  deriving DecidableEq, Repr

/-- One layer of a reload on the column's reload path (19 R397, R409). -/
structure Reload where
  ctx : Nat
  age : Nat
  sess : Nat
  stream : Nat
  /-- The MRELOAD entry; none for a reload that a routine started. -/
  cmd : Option MEntry := none
  arr : BitVec 4
  lmask : BitVec 8
  fmt : BitVec 4
  wptr : Option DWord
  sptr : Option DWord
  wstr : Nat
  sstr : Nat
  /-- The cycle before which it is not done, and the cycle of its start. -/
  dueAt : Nat := 0
  begun : Nat := 0
  /-- The reload that it is a layer of. -/
  id : Nat := 0
  /-- A kill has stopped it in this cycle: the rows made so far stand (05 R118). -/
  killedAt : Option Nat := none
  src : Src := {}
  deriving DecidableEq, Repr

/-- The table loader's load in progress (11 R254). -/
structure TLoadRun where
  ctx : Nat
  age : Nat
  sess : Nat
  slot : BitVec 6
  ptr : DWord
  started : Nat := 0
  hdr : Option (BitVec 128) := none
  suspended : Option (Nat × DWord) := none
  src : Src := {}
  /-- What its reads wait for (08 R205), and the bytes of entries that it has read and written. -/
  rel : Release := {}
  pos : Nat := 0
  deriving DecidableEq, Repr

/-- A core, its column and its engines. -/
structure Core where
  ctxs : Vector Ctx 4 := .replicate 4 {}
  running : Nat := 0
  switching : Nat := 0
  /-- The context that a heat or retry freeze took the core from, until another has issued: going back to it is no switch
  (05 R131). -/
  thawTo : Option Nat := none
  /-- The arrays of the column: layer × 16 + logical number (04 R86). -/
  arrs : Vector Arr 128 := .replicate 128 {}
  bucket : Nat := Config.bucketMax
  refill : Nat := 8
  /-- The next cycle whose tokens are to be charged (09 R232). -/
  heatAt : Nat := 0
  /-- A heat stop in this cycle: contexts with matrix work are frozen (09 R233). -/
  stopped : Bool := false
  /-- Cycles still to be added by retried passes and table reads: contexts with matrix or table work are frozen (03 R73). -/
  retrying : Nat := 0
  dir : List DirEntry := []
  unit : Option MRun := none
  reloads : List Reload := []
  tslots : Vector TSlot 64 := .replicate 64 {}
  tload : Option TLoadRun := none
  chans : Vector Chan 2 := .replicate 2 {}
  /-- The transform datapath accepts again at this cycle (10 R248). -/
  dpFree : Nat := 0
  ecccnt : Word := 0
  retrycnt : Word := 0
  deriving DecidableEq, Repr

/-! ## Bank units -/

/-- A binding slot of a bank unit (13 R274). -/
structure BankSlot where
  w : Vector (BitVec 512) 8 := .replicate 8 0
  a : Vector (BitVec 512) 8 := .replicate 8 0
  z : Vector (BitVec 16) 4 := .replicate 4 0xFFFF
  rc : Nat := 0
  skw : BitVec 32 := 0
  skn : Nat := 0
  /-- Single binding: the operands in or toward the input, each with the release it awaits (08 R205, 13 R278). -/
  input : List (DWord × Nat) := []
  /-- Wave binding: operands of the list that this instance has read (13 R286). -/
  taken : Nat := 0
  output : List DWord := []
  /-- The binding: the strand by age, its feed and session. -/
  age : Nat := 0
  feed : Nat := 0
  sess : Nat := 0
  wave : Bool := false
  /-- First frame and length of its routine. -/
  frame : Nat := 0
  len : Nat := 0
  ended : Bool := false
  /-- Released in a row operation: it stops at the row boundary (13 R280). -/
  dying : Bool := false
  /-- Since when its row operation waits for its bank (13 R284), and whether it waits for a checkpoint to quiesce (03
  R78). -/
  waitingSince : Option Nat := none
  held : Bool := false
  deriving DecidableEq, Repr

/-- A resident routine of a unit's store (13 R276). -/
structure BankRoutine where
  frame : Nat
  frames : Nat
  id : Nat
  sess : Nat
  len : Nat
  lastBound : Nat
  deriving DecidableEq, Repr

/-- One bank unit, by channel index (13 R274). The routine store's 256 words are bytes of memory. -/
structure BankUnit where
  chan : Nat
  slots : List (Nat × BankSlot) := []
  routines : List BankRoutine := []
  /-- The slot that runs, and the row operation: bank, row, columns used (13 R281). -/
  cur : Option Nat := none
  rowOp : Option (Nat × Nat × Nat) := none
  lastSlot : Nat := 3
  /-- The binding slot whose row operation holds the guaranteed slot, and its bank (13 R284). -/
  guaranteed : Option (Nat × Nat) := none
  clock : Nat := 0
  /-- The cycle in which the row operation started, the one in which it ends once that is settled, and the first in which the
  unit's next instruction outside a row operation may run (13 R281, 21 R443). -/
  opFrom : Nat := 0
  closeAt : Option Nat := none
  stepAt : Nat := 0
  deriving DecidableEq, Repr

/-- A stack's instances of a wave binding (13 R286): the next pseudo-channel to start, the members of the wave in
progress, and those that wait for a free slot of their unit. -/
structure Wave where
  age : Nat
  feed : Nat
  stack : Nat
  sess : Nat
  arg : DWord
  routine : Nat
  next : Nat := 0
  members : List Nat := []
  owed : List Nat := []
  deriving DecidableEq, Repr

/-! ## The dispatcher -/

/-- The states of a strand (05 R118). -/
inductive StrandState where
  | ready | loading | resident | saving | parked | done
  deriving DecidableEq, Repr

/-- A strand (05 R115 to R118), with the registers and queue entries its save area holds while it is not
resident (05 R124). -/
structure Strand where
  age : Nat
  launch : Nat
  sess : Nat
  index : BitVec 32
  core : Nat
  prio : Nat
  st : StrandState := .ready
  /-- Effective priority of the cycle of dispatch (05 R117). -/
  eff : Nat := 0
  readyAt : Nat := 0
  residentAt : Nat := 0
  ctx : Nat := 0
  /-- Its save area in the session's pool (05 R120, R133). -/
  area : Option Nat := none
  /-- Its state stands in its save area (05 R124); else in `image` alone. -/
  saved : Bool := false
  /-- The saved context; the initial one before the first dispatch (02 R44). -/
  image : Ctx := {}
  /-- Parked: what it waits for, and the time of the next poll. -/
  conds : List ParkCond := []
  pollAt : Nat := 0
  /-- The poll's outstanding reads of host and peer memory: the condition, link and TAG. -/
  asked : List (ParkCond × Nat × Nat) := []
  /-- EXIT, a kill or a destroy has ended it: its engine commands may still run (05 R118, 02 R45). -/
  ended : Bool := false
  /-- Copy commands and matrix entries unfinished when it ended. -/
  killed : Bool := false
  deriving DecidableEq, Repr

/-- A crew (05 R129): members by age; the open episode's number and the members that have arrived in it. -/
structure Crew where
  id : Nat
  sess : Nat
  members : List Nat := []
  episode : Nat := 0
  arrived : List Nat := []
  deriving DecidableEq, Repr

/-- A launch in the journal order (02 R41 to R45, R61). `entered`: its strands are in the pool. -/
structure Launch where
  id : Nat
  port : Nat
  sq : Nat
  sess : Nat
  body : List Byte
  deps : List (Nat × Nat) := []
  entered : Bool := false
  nextIndex : Nat := 0
  created : Nat := 0
  /-- Highest status so far (02 R45, R57). -/
  status : BitVec 8 := 0
  replayed : Bool := false
  deriving DecidableEq, Repr

/-- A session (02 R46). `killed`: its strands have been ended (05 R118). -/
structure Session where
  id : Nat
  system : Bool := false
  peer : Bool := false
  port : Nat := 1
  table : Nat := 0
  pool : DWord := 0
  poolSize : Nat := 0
  killed : Bool := false
  destroying : Bool := false
  /-- NOROOM at create (04 R97). -/
  noRoom : Bool := false
  deriving DecidableEq, Repr

/-! ## Ports, links and the module -/

/-- An accepted command (02 R49 to R51). -/
structure Journal where
  port : Nat
  sq : Nat
  tag : DWord
  cmd : List Byte
  /-- The progress of its effect, its final status and DETAIL when completed, and its ring position. -/
  effected : Bool := false
  final : Option (BitVec 8) := none
  detail : Nat := 0
  cyc : DWord := 0
  posted : Option Nat := none
  replayed : Bool := false
  covered : Bool := false
  deriving DecidableEq, Repr

/-- A host port's registers and ring (02 R34 to R38, R50 to R56). -/
structure Port where
  crbase : DWord := 0
  crsize : DWord := 0
  crcons : DWord := 0
  /-- The next ring position, and those journalled and not marked done, with the SEQ of their write; none where the write
  has to leave again after a restart (02 R55, R56). -/
  nextPos : Nat := 0
  notDone : List (Nat × List Byte × Option (BitVec 32)) := []
  /-- Completions that wait for a free position: sequence number and record. -/
  waiting : List (Nat × List Byte) := []
  highest : Nat := 0
  tags : List (DWord × Nat) := []
  lastQuery : Option Nat := none
  lastRead : Option Nat := none
  deriving DecidableEq, Repr

/-- A Muros link (01 R14 to R23). -/
structure Link where
  up : Bool := true
  degraded : Bool := false
  nextSeq : BitVec 32 := 0
  peerAck : BitVec 32 := 0
  peerCredit : Nat := 0
  /-- Sequenced flits not acknowledged, in SEQ order, and messages that wait for credit. -/
  replay : List (BitVec 32 × List Byte) := []
  backlog : List (BitVec 16 × List Byte) := []
  expected : BitVec 32 := 0
  retrying : Bool := false
  /-- The SEQs that have failed their CRC once and have not been delivered (01 R23). -/
  badSeqs : List (BitVec 32) := []
  gathered : List Byte := []
  /-- The last SEQs of the requests of `inbound` from this link: ACK does not pass them (08 R211). -/
  unserved : List (BitVec 32) := []
  /-- The flits since the last IDLE, its cycle, and the cycle of the last RETRY (01 R21, R22). -/
  sinceIdle : Nat := 0
  lastIdle : Nat := 0
  lastRetry : Nat := 0
  /-- When the last TIME flit left, and the round trip measured from it, in eighths of a cycle (01 R31). -/
  lastTime : Nat := 0
  roundTrip : Nat := 0
  /-- The next TAG of a memory request and those outstanding (01 R20): tag, core, context or engine, access. -/
  nextTag : BitVec 32 := 0
  /-- Posted writes not acknowledged: last SEQ, address, bytes (08 R211). -/
  egress : List (BitVec 32 × Nat × List Byte) := []
  deriving DecidableEq, Repr

/-- A receive queue that a session owns (05 R133): link, core, queue, owner and messages, oldest first; the number of
messages that its ring has taken. -/
structure RecvQueue where
  link : Nat
  core : Nat
  rq : Nat
  owner : Nat
  msgs : List Line := []
  placed : Nat := 0
  deriving DecidableEq, Repr

/-- A remote queue's credit at the sender (05 R134). -/
structure Credit where
  link : Nat
  core : Nat
  rq : Nat
  owner : Nat
  count : Nat
  deriving DecidableEq, Repr

/-- A page exchange of the migration engine (04 R105, R107). `held`: it has not begun, since it waits for accesses in flight
or for a checkpoint to quiesce (03 R78). -/
structure Exchange where
  sess : Nat
  va : Nat
  vb : Nat
  held : Bool := false
  deriving DecidableEq, Repr

/-- Who waits for a reply from a host port or a peer link: a strand's access, an engine, or the Ensign core for the
command with that journal sequence number (01 R20, 02 R60). -/
inductive Asker where
  | access (core ctx id : Nat)
  | engine
  | ensign (port sq : Nat)
  deriving DecidableEq, Repr

/-- A request: the link, its TAG, the session, whether it is a read, and, once it has come, the reply: STATUS, DATA
and OLD. `fwd` holds the bytes that posted writes of the link forward (08 R211). -/
structure Request where
  link : Nat
  tag : Nat
  sess : Nat
  who : Asker
  read : Bool
  va : DWord := 0
  len : Nat := 0
  fwd : List (Option Byte) := []
  /-- The SEQs of the posted writes that it took bytes from. -/
  fwdSeqs : List (BitVec 32) := []
  reply : Option (Nat × List Byte × DWord) := none
  deriving DecidableEq, Repr

/-- A fault-log record (03 R75). -/
structure FaultRec where
  cyc : DWord
  bytes : List Byte
  deriving DecidableEq, Repr

/-- A damaged part (03 R74): a physical column, layer and physical array; the whole column's elevator, table tier or part
of a layer; a bank of an HBM4 pseudo-channel; a bank of a capacity-tier package. -/
inductive Damage where
  | array (col layer phys : Nat)
  | elevator (col : Nat)
  | tables (col : Nat)
  | layer (col layer : Nat)
  | bank (stack pch bank : Nat)
  | capBank (pkg bank : Nat)
  deriving DecidableEq, Repr

/-- A bank of the flash that holds a firmware image (03 R66): its bytes, the version of its header, and whether its
signatures and digests have verified. -/
structure FlashBank where
  bytes : List Byte := []
  version : Nat := 0
  sound : Bool := true
  deriving DecidableEq, Repr

/-- A configuration record (03 R68): the enabled physical columns in order, the remap values by rank and layer, the
damage list, and whether the vendor or the device itself has signed it. -/
structure ConfigRecord where
  columns : List Nat := List.range 128
  remap : List Nat := []
  damage : List Damage := []
  vendor : Bool := true
  bytes : List Byte := []
  deriving DecidableEq, Repr

/-- The module flash (03 R66 to R69, 02 R48): for each image class the two banks, the bank that is active for the next
restart, the bank that runs and the anti-rollback counter of the fuses; the active configuration record and a staged
one; the helper data of the identity; the time-root setting. -/
structure Flash where
  banks : List (FlashBank × FlashBank) := [({}, {}), ({}, {}), ({}, {}), ({}, {})]
  active : List Nat := [0, 0, 0, 0]
  runs : List Nat := [0, 0, 0, 0]
  counters : List Nat := [0, 0, 0, 0]
  record : ConfigRecord := {}
  staged : Option ConfigRecord := none
  helper : List Byte := []
  timeRoot : Bool := false
  deriving DecidableEq, Repr

/-- The condition of the module and of what is joined to it, as a start-up or a training finds it (DESIGN CHOICE, log
entry 53): the step that fails, if one does (0 for none); the width that each link trains to, where not full (0 down, 1
degraded); the hops from a root of the devices behind the peer links, the links whose device takes its time from here,
and the time of the tree; newly damaged parts; a capacity-tier package that has failed whole; banks of the flash
(class, bank) that no longer verify. -/
structure Findings where
  fails : Nat := 0
  widths : List (Nat × Nat) := []
  hops : List (Nat × Nat) := []
  children : List Nat := []
  time : DWord := 0
  parts : List Damage := []
  dead : Option Nat := none
  badBanks : List (Nat × Nat) := []
  deriving DecidableEq, Repr

/-- A striped area of the safe region (03 R77): its data by data offset, and the parity of its stripes by stripe × 4,096
and offset in the unit. -/
structure Striped where
  data : List Host.Cell := []
  parity : List Host.Cell := []
  /-- Units that have failed ECC twice: stripe and package. -/
  bad : List (Nat × Nat) := []
  deriving DecidableEq, Repr

/-- A commit record (03 R79), with the delta index that it digests: the granules in the order of their slots of the
delta area. -/
structure Commit where
  number : Nat
  markA : Nat
  markB : Nat
  cyc : DWord
  index : List Nat
  digest : List Byte
  deriving DecidableEq, Repr

/-- The records of a checkpoint (03 R76): the device's cores, units, dispatcher and sessions, the memories that are no
granules of HBM4 or CIM SRAM (table slots, microprogram, scale and routine stores), and how far each journal entry had
come. The granules stand in the striped areas. -/
structure Image where
  number : Nat := 0
  markA : Nat := 0
  markB : Nat := 0
  journal : List Journal := []
  cyc : DWord := 0
  cores : List Core := []
  units : List BankUnit := []
  sessions : List Session := []
  strands : List Strand := []
  launches : List Launch := []
  crews : List Crew := []
  handles : List (Nat × Nat × BitVec 1024) := []
  queues : List RecvQueue := []
  credits : List Credit := []
  tables : List Nat := []
  regionTier : List (Nat × Nat × Nat) := []
  swapped : List (Nat × Nat) := []
  waves : List Wave := []
  ageCounter : Nat := 0
  mem : List Host.Cell := []
  deriving DecidableEq, Repr

/-- How far a checkpoint has come (03 R79): it quiesces, or its delta is written and its commit record is not. -/
inductive CkptStep where
  | quiesce | written
  deriving DecidableEq, Repr

/-- A checkpoint in progress, from its Quiesce step to its commit (03 R79): the command that asked for it, if one did,
whether it is a reset, the journal marks of the two ports, and the SEQs that the host ports' next flits had at its
start. -/
structure Ckpt where
  who : Option (Nat × Nat) := none
  reset : Bool := false
  markA : Nat := 0
  markB : Nat := 0
  seqA : BitVec 32 := 0
  seqB : BitVec 32 := 0
  at_ : CkptStep := .quiesce
  /-- The granules that the Write step has put into the delta area, by slot. -/
  index : List Nat := []
  deriving DecidableEq, Repr

/-- The arguments of the event in hand: what an operation or event of the module names, which has no encoding
(DESIGN CHOICE, log entry 1). Only the fields that the event's rule speaks of are read. -/
structure EventArg where
  core : Nat := 0
  ctx : Nat := 0
  chan : Nat := 0
  link : Nat := 0
  port : Nat := 0
  sess : Nat := 0
  rq : Nat := 0
  slot : Nat := 0
  idx : Nat := 0
  n : Nat := 0
  age : Nat := 0
  value : DWord := 0
  addr : Nat := 0
  addr2 : Nat := 0
  /-- PEERLOST of a launch. -/
  outcome : Nat := 0
  data : Line := 0
  msg : List Byte := []
  /-- Readings and settings of the thermal controller: channels, die and layer sensors, the input in volts. -/
  temps : List (Nat × Nat) := []
  sensors : List (Nat × Nat) := []
  volts : Option Nat := none
  refills : List (Nat × Nat) := []
  limits : List (Nat × Nat) := []
  /-- What becomes of the module and its surroundings with the event: its condition from now on, and addresses whose next
  read meets an error (1 corrected by ECC, 2 transient, 3 lasting). -/
  found : Option Findings := none
  errors : List (Nat × Nat) := []
  /-- Units of the safe region that fail ECC twice: area (0 base image, 1 delta, 2 pre-image log), stripe, package (03 R77). -/
  units : List (Nat × Nat × Nat) := []
  deriving DecidableEq, Repr

/-- An ordinary access at the banks of HBM4 (13 R282): one of a strand, a beat of a copy channel, or the oldest request of a peer
link. -/
inductive BankKey where
  | access (core ctx id : Nat)
  | beat (core chan seq : Nat)
  | request (link : Nat)
  deriving DecidableEq, Repr

/-- Which agent moves next (DESIGN CHOICE, log entry 1): an event happens; a core issues its running context's next bundle; the
matrix unit of a core does its next microword; a bank unit does its next instruction; or a repeatable operation of a
core's column fails, and its retry succeeds, adding cycles, or makes the fault lasting (03 R72 to R74; DESIGN CHOICE, log
entry 43): the fault-log UNIT, INDEX and PLACE. In a cycle, `unit` and `row` are what a matrix unit and a bank unit do at a moment
of it, `ordinary` and `beat` are accesses to which the banks of HBM4 give their time, and `late` is the device's own writes that a
bank has held up. -/
inductive Turn where
  | event (i : Instr) (arg : EventArg)
  | issue (core : Nat)
  | micro (core : Nat)
  | unit (core : Nat)
  | bank (chan : Nat)
  | row (chan : Nat)
  | ordinary (key : BankKey)
  | beat (core chan : Nat)
  | late
  | retried (core unit place cycles : Nat)
  | lasting (unit index place paddr : Nat)
  deriving DecidableEq, Repr

/-- A message that the device has sent, as the outside sees it (01 R15, 02 R33, R53): the link it left by. -/
structure Sent where
  link : Nat
  flit : List Byte
  deriving DecidableEq, Repr

/-- The modes of the device (02 R37, 03 R65): STATE.MODE. -/
inductive Mode where
  | bringUp | ready | pennant | restarting
  deriving DecidableEq, Repr

/-- The state of the machine. -/
structure State where
  -- the module
  /-- The model's own: the cycles that have passed since the power came on. Durations are counted in it, since CYC is set at a
  restart and corrected (01 R28, R30; DESIGN CHOICE, log entry 72). -/
  now : Nat := 0
  cyc : DWord := 0
  mode : Mode := .bringUp
  timeOk : Bool := false
  /-- The time tree (01 R29 to R31): hops from the root, the parent's link, the links of the children, the measured
  offset, the cycles still to be corrected, and the cycles before the next correction cycle (01 R28). -/
  hops : Nat := 0
  parent : Option Nat := none
  children : List Nat := []
  offset : Int := 0
  correction : Int := 0
  corrWait : Nat := 0
  burgee : BitVec 2 := 0
  epoch : DWord := 0
  journal : List Journal := []
  flash : Flash := {}
  powerCap : Nat := 1600
  ncores : Nat := 128
  coreMap : List Nat := List.range 128
  /-- The remap register of each physical column and layer (01 R10), column × 8 + layer: the physical macro that is the
  spare. -/
  remap : Vector (BitVec 5) 1056 := .replicate 1056 16
  /-- The damage list (03 R68, R74), and a capacity-tier package that has failed whole. -/
  damage : List Damage := []
  deadPackage : Option Nat := none
  faultLog : List FaultRec := []
  /-- What the next start-up or training finds, and what the next read of an address meets. -/
  found : Findings := {}
  errors : List (Nat × Nat) := []
  /-- Corrected errors of the HBM4 stacks and the capacity-tier packages: UNIT, INDEX, count (03 R72, 04 R113). -/
  corrected : List (Nat × Nat × Nat) := []
  /-- Sensors at or above 110 °C and since when; since when the input is below 42 V; the last reading (01 R26). -/
  tooHot : List (Nat × Nat) := []
  tooLow : Option Nat := none
  thermalAt : Nat := 0
  channelTemp : List (Nat × Nat) := []
  hotChannels : List Nat := []
  /-- Retired pages, as home addresses divided by 65,536 (04 R113). -/
  retired : List Nat := []
  /-- The safe region (03 R76): whether it has been initialised, the two copies of the commit record, the records of the base
  image and of the delta area, and the three striped areas. -/
  safeReady : Bool := false
  commits : List Commit := []
  base : Option Image := none
  delta : Option Image := none
  baseArea : Striped := {}
  deltaArea : Striped := {}
  logArea : Striped := {}
  folding : Bool := false
  ckpt : Option Ckpt := none
  /-- CYC as Ensign last wrote it into the control area (01 R30). -/
  cycMark : DWord := 0
  -- dispatcher and sessions
  ageCounter : Nat := 0
  /-- The model's own: the next number in the order of issue of accesses and commands. -/
  seq : Nat := 0
  sessions : List Session := []
  handles : List (Nat × Nat × BitVec 1024) := []
  /-- The pages of the page-table area that hold level-2 and level-3 tables (04 R97). -/
  tables : List Nat := []
  launches : List Launch := []
  strands : List Strand := []
  crews : List Crew := []
  pageHeat : List (Nat × Nat × Nat) := []
  regionHeat : List (Nat × Nat × Nat) := []
  /-- The tier of the most recent leaf of a session's 512 MiB region (04 R108). -/
  regionTier : List (Nat × Nat × Nat) := []
  exchanges : List Exchange := []
  /-- Pages (session, virtual page) that exchanges have moved out of the tier they were mapped with: the windows stay as if
  no exchange had taken place (08 R209). -/
  swapped : List (Nat × Nat) := []
  recvQueues : List RecvQueue := []
  credits : List Credit := []
  requests : List Request := []
  /-- Granules of 64 KiB, newest first: dirty since the last commit, and logged ones of the capacity tier (03 R78). -/
  dirty : List Nat := []
  logged : List Nat := []
  -- cores, bank units, links, ports
  cores : Vector Core 128 := .replicate 128 {}
  units : List BankUnit := []
  stackLimit : List Nat := List.replicate 12 64
  waves : List Wave := []
  links : Vector Link 18 := .replicate 18 {}
  ports : Vector Port 2 := .replicate 2 {}
  -- memory, by home address
  mem : List Host.Cell := []
  -- what has left the module
  sent : List Sent := []
  -- the model's own: which agent moves next, the agent in hand, the event's arguments, the free values drawn
  agenda : List Turn := []
  /-- The messages that have reached the command arbiter in this cycle (02 R32): the event that each is, and its argument. -/
  arrivals : List (Instr × EventArg) := []
  /-- The memory requests of peers that wait for their home: link and message, oldest first (01 R20, 13 R282). -/
  inbound : List (Nat × List Byte) := []
  /-- The ordinary accesses queued at the banks of HBM4 at the end of the last cycle, in the order in which they came; the banks
  that one occupies, as channel, bank and the first free cycle; and the device's own writes that wait for a bank or an exchange
  (13 R282, 26 R472). -/
  bankQueue : List BankKey := []
  bankHeld : List (Nat × Nat × Nat) := []
  lateWrites : List (Nat × DWord × List Byte) := []
  arg : EventArg := {}
  curCore : Nat := 0
  curCtx : Nat := 0
  curSlot : Nat := 0
  curChan : Nat := 0
  /-- The x25 of the EXT that extends the immediate of the slot in hand (15 R312). -/
  ext : Option (BitVec 25) := none
  drawn : Nat := 0
  deriving DecidableEq, Repr

/-- The reasons to stop. No rule of the spec stops the machine: every case it leaves without an effect is a free value
or no event at all, so no constructor is raised. -/
inductive Fault where
  /-- An address that no memory of the module has; raised by nobody, since every pointer is checked (safe). -/
  | noSuchAddress
  deriving DecidableEq, Repr

/-- The reasons to refuse. -/
inductive Refusal where
  /-- An instruction without a meaning yet: raised by its arm of `exec` (safe). -/
  | notModelled (mnemonic : String)
  deriving DecidableEq, Repr

/-- The machine right after reset, when the 48 V input comes on: nothing has run, MODE reads 0 (02 R37), and what happens
next is the start-up of 03 R65. Values the spec states none of are DESIGN CHOICE, log entries 1 to 9. -/
def State.reset : State := { agenda := [.event .powerOn {}] }

end Sys2Proof.Machine
end

