-- ==== Sys2Proof/Machine/Ops.lean ====
section
/-! DEFINITION. The named operations over memory, registers, contexts and strands; taking a trap and returning from
one (06 R142, R143, R149 to R154, 05 R118, R129). -/

namespace Sys2Proof.Machine

abbrev Out := Host.Outcome State Fault Refusal

/-! ## Memory: cells by home address, strictly rising, none zero -/

/-- Home addresses: HBM4 (04 R91), capacity tier (04 R94), slices (04 R83), scale stores (09 R216), table entries
(11 R251), the microprogram store (09 R217) and the bank units' routine stores (13 R274). -/
def capBase : Nat := 0x1000_0000_0000
def sliceBase : Nat := 0x2000_0000_0000
def scaleBase : Nat := 0x3000_0000_0000
def tableBase : Nat := 0x3100_0000_0000
def storeBase : Nat := 0x3200_0000_0000
def bankStoreBase : Nat := 0x3300_0000_0000
/-- The model's own: a bit for each weight of a half that a reload read as NaN or infinite (07 R184; DESIGN CHOICE, log entry 13). -/
def markBase : Nat := 0x3400_0000_0000
/-- Save areas are bytes of HBM4 or the capacity tier; nothing else has a home address. -/
def sliceHome (rank off : Nat) : Nat := sliceBase + rank * Config.sliceBytes + off
/-- Offset of a byte of an array's half in its slice (04 R86). -/
def arrOffset (lay arr : Nat) (half : Bool) (row byte : Nat) : Nat :=
  lay * 0x20_0000 + arr * 0x2_0000 + (if half then 0x1_0000 else 0) + row * 128 + byte
def scaleHome (rank lay arr : Nat) (half : Bool) : Nat :=
  scaleBase + (((rank * 8 + lay) * 16 + arr) * 2 + half.toNat) * 8192
def markHome (rank lay arr : Nat) (half : Bool) : Nat :=
  markBase + (((rank * 8 + lay) * 16 + arr) * 2 + half.toNat) * 8192
def tableHome (rank slot : Nat) : Nat := tableBase + (rank * 64 + slot) * 16384
def storeHome (rank addr : Nat) : Nat := storeBase + (rank * 4096 + addr) * 8
def bankStoreHome (chan idx : Nat) : Nat := bankStoreBase + (chan * 256 + idx) * 4

/-- The byte at an address: an unlisted one reads as zero (DESIGN CHOICE, log entry 9). -/
def memGet : List Host.Cell → Nat → Byte
  | [], _ => 0
  | (x, v) :: r, a => if x = a then v else if a < x then 0 else memGet r a

/-- The bytes of a run of addresses, from the cells at and above its start. -/
def memTake : List Host.Cell → Nat → Nat → List Byte
  | _, _, 0 => []
  | [], _, n + 1 => List.replicate (n + 1) 0
  | (x, v) :: r, a, n + 1 =>
    if x = a then v :: memTake r (a + 1) n else 0 :: memTake ((x, v) :: r) (a + 1) n

/-- `n` bytes from address `a` upward. -/
def memRead (m : List Host.Cell) (a n : Nat) : List Byte := memTake (m.dropWhile (·.1 < a)) a n

/-- The cells of a run after a write of some of its bytes: `none` keeps a byte. -/
def memRun : List Host.Cell → Nat → List (Option Byte) → List Host.Cell
  | _, _, [] => []
  | [], a, b :: bs => if b.getD 0 = 0 then memRun [] (a + 1) bs else (a, b.getD 0) :: memRun [] (a + 1) bs
  | (x, v) :: r, a, b :: bs =>
    if x = a then
      if b.getD v = 0 then memRun r (a + 1) bs else (a, b.getD v) :: memRun r (a + 1) bs
    else if b.getD 0 = 0 then memRun ((x, v) :: r) (a + 1) bs
    else (a, b.getD 0) :: memRun ((x, v) :: r) (a + 1) bs

/-- Memory after writing the bytes that are present of a run from `a` upward. -/
def memWrite (m : List Host.Cell) (a : Nat) (bs : List (Option Byte)) : List Host.Cell :=
  m.filter (·.1 < a) ++
    memRun (m.filter fun c => decide (a ≤ c.1) && decide (c.1 < a + bs.length)) a bs ++
    m.filter (a + bs.length ≤ ·.1)

/-- The canonical form: addresses strictly rising, no cell zero. -/
def Memory.wf : List Host.Cell → Bool
  | [] => true
  | [(_, v)] => v != 0
  | (x, v) :: (y, w) :: r => v != 0 && decide (x < y) && Memory.wf ((y, w) :: r)

/-! ## Stripes of the safe region (03 R77): 47 data units of 4 KiB and a parity unit, each on its own package; the parity
unit of stripe `k` lies on package `k mod 48` (DESIGN CHOICE, log entry 63) -/

namespace Striped

/-- The stripe of a data offset, and the offset of its byte in the stripe's parity. -/
def stripeOf (d : Nat) : Nat := d / 4096 / 47
def parityAt (d : Nat) : Nat := stripeOf d * 4096 + d % 4096
/-- The package that holds the unit of a data offset. -/
def packageOf (d : Nat) : Nat :=
  let q := d / 4096 % 47
  if q < stripeOf d % 48 then q else q + 1

/-- One byte is exchanged for its exclusive or with `v`. -/
def xorCell (m : List Host.Cell) (a : Nat) (v : Byte) : List Host.Cell := memWrite m a [some (memGet m a ^^^ v)]

/-- A byte is written, and its stripe's parity with it. -/
def put (x : Striped) (d : Nat) (v : Byte) : Striped :=
  { x with data := memWrite x.data d [some v], parity := xorCell x.parity (parityAt d) (memGet x.data d ^^^ v) }

/-- The cells of a run of `n` bytes, and the run written anew with some cells, zeros elsewhere. -/
def cells (x : Striped) (d n : Nat) : List Host.Cell := x.data.filter fun c => decide (d ≤ c.1) && decide (c.1 < d + n)
def fill (x : Striped) (d n : Nat) (cs : List Host.Cell) : Striped :=
  cs.foldl (fun x c => x.put c.1 c.2) ((x.cells d n).foldl (fun x c => x.put c.1 0) x)

/-- The units of a package are gone. -/
def lose (x : Striped) (p : Nat) : Striped :=
  { x with data := x.data.filter fun c => packageOf c.1 != p, parity := x.parity.filter fun c => c.1 / 4096 % 48 != p }

/-- The unit of stripe `k` that lies on package `p` is rebuilt from the other 47 units of the stripe. -/
def rebuildUnit (p : Nat) (x : Striped) (k : Nat) : Striped :=
  let others := x.data.filter fun c => stripeOf c.1 == k && packageOf c.1 != p
  if k % 48 = p then { x with parity := others.foldl (fun m c => xorCell m (parityAt c.1) c.2) x.parity }
  else
    let u := (k * 47 + (if p < k % 48 then p else p - 1)) * 4096
    let par := x.parity.filter (·.1 / 4096 == k)
    { x with data := (others ++ par).foldl (fun m c => xorCell m (u + c.1 % 4096) c.2) x.data }

/-- The area as it reads while package `p` is gone. -/
def rebuilt (x : Striped) (p : Nat) : Striped :=
  let ks := x.data.map (stripeOf ·.1) ++ x.parity.map (·.1 / 4096)
  ks.eraseDups.foldl (rebuildUnit p) (x.lose p)

/-- The area without its unreadable units, and with them rebuilt, those of a package that is gone apart. -/
def dropBad (x : Striped) : Striped :=
  { x with
    data := x.data.filter fun c => !x.bad.contains (stripeOf c.1, packageOf c.1)
    parity := x.parity.filter fun c => !x.bad.contains (c.1 / 4096, c.1 / 4096 % 48) }
def rebuildBad (x : Striped) (gone : Option Nat) : Striped :=
  { (x.bad.eraseDups.filter fun e => some e.2 != gone).foldl (fun x e => rebuildUnit e.2 x e.1) x with bad := [] }

end Striped

namespace State

/-- A striped area as it reads, and as it is stored, through the parity where a unit or a package has failed (03 R74, R77). -/
def areaRead (s : State) (x : Striped) : Striped :=
  (match s.deadPackage with | some p => x.dropBad.rebuilt p | none => x.dropBad).rebuildBad s.deadPackage
def areaStore (s : State) (x : Striped) : Striped := match s.deadPackage with | some p => x.lose p | none => x

/-- The cells of memory of a granule of 64 KiB, moved to slot `k` of an area. -/
def granuleCells (s : State) (g k : Nat) : List Host.Cell :=
  (s.mem.filter fun c => c.1 / 65536 == g).map fun c => (k * 65536 + c.1 % 65536, c.2)

def read (s : State) (a n : Nat) : List Byte := memRead s.mem a n
def readNat (s : State) (a n : Nat) : Nat := ofBytes (s.read a n)
/-- A granule put into a list once. -/
def mark (l : List Nat) (g : Nat) : List Nat := if l.contains g then l else g :: l

/-- A granule of the capacity tier is logged before its first write: its old bytes go into the pre-image log (03 R78). -/
def logGranule (s : State) (g : Nat) : State :=
  if s.logged.contains g then s
  else
    let k := s.logged.length
    { s with
      logged := g :: s.logged
      logArea := s.areaStore ((s.areaRead s.logArea).fill (k * 65536) 65536 (s.granuleCells g k)) }

/-- The granules of a run of `n` bytes from `a`. -/
def granulesOf (a n : Nat) : List Nat := (List.range (ceilDiv (a % 65536 + n) 65536)).map (a / 65536 + ·)

/-- A run about to be written: its granules become dirty, or are logged in the capacity tier (03 R78). -/
def touch (s : State) (a n : Nat) : State :=
  if a < Config.hbmBytes ∨ (sliceBase ≤ a ∧ a < scaleBase) then { s with dirty := (granulesOf a n).foldl mark s.dirty }
  else if capBase ≤ a ∧ a < capBase + Config.capBytes then (granulesOf a n).foldl logGranule s
  else s

def writeMasked (s : State) (a : Nat) (bs : List (Option Byte)) : State :=
  let s := s.touch a bs.length
  { s with mem := memWrite s.mem a bs }
def write (s : State) (a : Nat) (bs : List Byte) : State := s.writeMasked a (bs.map some)
def writeNat (s : State) (a n x : Nat) : State := s.write a (toBytes n x)
/-- Zeroes `n` bytes. -/
def zero (s : State) (a n : Nat) : State :=
  let s := s.touch a n
  { s with mem := s.mem.filter fun c => decide (c.1 < a) || decide (a + n ≤ c.1) }

/-! ## Cores and contexts -/

def core (s : State) (c : Nat) : Core := s.cores[c]?.getD {}
def setCore (s : State) (c : Nat) (x : Core) : State := { s with cores := s.cores.setIfInBounds c x }
def modCore (s : State) (c : Nat) (f : Core → Core) : State := s.setCore c (f (s.core c))
def ctx (s : State) (c x : Nat) : Ctx := (s.core c).ctxs[x]?.getD {}
def setCtx (s : State) (c x : Nat) (t : Ctx) : State :=
  s.modCore c fun k => { k with ctxs := k.ctxs.setIfInBounds x t }
def modCtx (s : State) (c x : Nat) (f : Ctx → Ctx) : State := s.setCtx c x (f (s.ctx c x))
def chan (s : State) (c h : Nat) : Chan := (s.core c).chans[h]?.getD {}
def modChan (s : State) (c h : Nat) (f : Chan → Chan) : State :=
  s.modCore c fun k => { k with chans := k.chans.setIfInBounds h (f (s.chan c h)) }
def link (s : State) (l : Nat) : Link := s.links[l]?.getD {}
def modLink (s : State) (l : Nat) (f : Link → Link) : State :=
  { s with links := s.links.setIfInBounds l (f (s.link l)) }
/-- Port 1 is A and port 2 is B (02 R34). -/
def port (s : State) (p : Nat) : Port := s.ports[p - 1]?.getD {}
def modPort (s : State) (p : Nat) (f : Port → Port) : State :=
  { s with ports := s.ports.setIfInBounds (p - 1) (f (s.port p)) }

/-- The context in hand. -/
def cur (s : State) : Ctx := s.ctx s.curCore s.curCtx
def modCur (s : State) (f : Ctx → Ctx) : State := s.modCtx s.curCore s.curCtx f

/-! ## Strands, sessions, launches -/

def strand? (s : State) (age : Nat) : Option Strand := s.strands.find? (·.age == age)
def modStrand (s : State) (age : Nat) (f : Strand → Strand) : State :=
  { s with strands := s.strands.map fun t => if t.age = age then f t else t }
def session? (s : State) (id : Nat) : Option Session := s.sessions.find? (·.id == id)
def modSession (s : State) (id : Nat) (f : Session → Session) : State :=
  { s with sessions := s.sessions.map fun t => if t.id = id then f t else t }
def launch? (s : State) (id : Nat) : Option Launch := s.launches.find? (·.id == id)
def modLaunch (s : State) (id : Nat) (f : Launch → Launch) : State :=
  { s with launches := s.launches.map fun t => if t.id = id then f t else t }

/-- The strand that a context holds. -/
def strandOf (s : State) (c x : Nat) : Option Strand := (s.ctx c x).strand.bind s.strand?
def curStrand (s : State) : Option Strand := s.strandOf s.curCore s.curCtx
/-- The session of the context in hand; 0 where it holds no strand. -/
def curSess (s : State) : Nat := (s.curStrand.map (·.sess)).getD 0
def curAge (s : State) : Nat := s.cur.strand.getD 0
def isSystem (s : State) (sess : Nat) : Bool := ((s.session? sess).map (·.system)).getD false
/-- The context of core `c` that holds a strand, if one does. -/
def ctxOf? (s : State) (c age : Nat) : Option Nat :=
  (List.range 4).find? fun x => (s.ctx c x).strand == some age

/-- The next place in the order of issue. -/
def nextSeq (s : State) : Nat × State := (s.seq, { s with seq := s.seq + 1 })

/-- One of `n` numbers that is not used: the first from a free choice on, in at most `tries` looks. -/
def firstFree (r n tries : Nat) (used : Nat → Bool) : Option Nat :=
  ((List.range tries).map fun i => (r + i) % n).find? (!used ·)

/-- The next free value (DESIGN CHOICE, log entry 3). -/
def draw (s : State) : DWord × State := (Config.freeWord s.drawn, { s with drawn := s.drawn + 1 })

end State

/-! ## Registers of a context -/

namespace Ctx

/-- g0 reads zero (06 R138). -/
def rg (c : Ctx) (n : BitVec 6) : DWord := if n = 0 then 0 else c.regs.g[n.toNat]?.getD 0
/-- k0 reads one (06 R138). -/
def rk (c : Ctx) (n : BitVec 3) : Bool := n == 0 || c.regs.k.getLsbD n.toNat
/-- q0 reads all ones (06 R138). -/
def rq (c : Ctx) (n : BitVec 3) : QReg := if n = 0 then BitVec.allOnes 256 else c.regs.q[n.toNat]?.getD 0
/-- Line `n` of the window (06 R139). -/
def line (c : Ctx) (n : Nat) : Line := c.regs.line[n]?.getD 0
def rv (c : Ctx) (n : BitVec 6) : Line := c.line n.toNat
/-- The line of a tile register (06 R139). -/
def tileLine (t j : Nat) : Nat := 64 + 16 * t + j
def rm (c : Ctx) (n : Nat) : DWord := c.regs.m[n]?.getD 0
def rfmt (c : Ctx) (n : Nat) : DWord := c.regs.fmt[n]?.getD 0
def rlc (c : Ctx) (n : Nat) : Word := c.regs.lc[n]?.getD 0
def rshp (c : Ctx) (n : Nat) : BitVec 1024 := c.regs.shp[n]?.getD 0
def acc (c : Ctx) (n : Nat) : Line := c.regs.acc[n]?.getD 0
def feed (c : Ctx) (n : Nat) : Feed := c.regs.feed[n]?.getD {}
def setFeed (c : Ctx) (n : Nat) (f : Feed) : Ctx :=
  { c with regs := { c.regs with feed := c.regs.feed.setIfInBounds n f } }
def stream (c : Ctx) (n : Nat) : MStream := c.streams[n]?.getD {}
def setStream (c : Ctx) (n : Nat) (t : MStream) : Ctx := { c with streams := c.streams.setIfInBounds n t }

/-- A scalar slot executes when k[pk] XOR pn is 1 (06 R137). -/
def pred (c : Ctx) (pn : BitVec 1) (pk : BitVec 3) : Bool := c.rk pk != (pn == 1)

/-- STATUS fields (06 R154). -/
def fixed (c : Ctx) : Bool := c.sys.status.getLsbD 0
def hnd (c : Ctx) : Bool := c.sys.status.getLsbD 1
def pfixed (c : Ctx) : Bool := c.sys.status.getLsbD 2
def statusOf (fixed hnd pfixed : Bool) (old : DWord) : DWord :=
  BitVec.ofNat 64 (fixed.toNat + 2 * hnd.toNat + 4 * pfixed.toNat + old.toNat / 8 % 4 * 8)

/-! ## Landing (06 R142, R143, R155) -/

/-- The bytes of `old` replaced by those of `new` whose bit in `mask` is 1, byte by byte. -/
def mergeBytes (old new : Line) (mask : QReg) : Line :=
  if mask = BitVec.allOnes 256 then new
  else BitVec.ofNat 2048 (go 256 old.toNat new.toNat mask.toNat)
where
  go : Nat → Nat → Nat → Nat → Nat
    | 0, _, _, _ => 0
    | n + 1, o, w, k => (if k % 2 = 1 then w % 256 else o % 256) + 256 * go n (o / 256) (w / 256) (k / 2)

/-- The value of a system register after MTS of `x` lands: a field with Access RO keeps its value and a W1C field
clears where a 1 is written (06 R153 to R156). -/
def mtsValue (n : Nat) (old x : DWord) : DWord :=
  match n with
  | 0x000 => old &&& ~~~(x &&& 0x18)
  | 0x002 => x &&& ~~~0x1F
  | 0x004 => x &&& ~~~0x1F
  | 0x010 => old &&& ~~~(x &&& 0x1F)
  | 0x011 => (x &&& 0x8) ||| (if (x &&& 7).toNat ≤ 4 then x &&& 7 else old &&& 7)
  | 0x018 | 0x019 => old &&& ~~~(x &&& 0x1_0000_0000)
  | _ => x

def mtsSys (y : Sys) (n : Nat) (x : DWord) : Sys :=
  match n with
  | 0x000 => { y with status := mtsValue n y.status x }
  | 0x002 => { y with epc := mtsValue n y.epc x }
  | 0x004 => { y with tvec := mtsValue n y.tvec x }
  | 0x010 => { y with fpflags := mtsValue n y.fpflags x }
  | 0x011 => { y with fpctl := mtsValue n y.fpctl x }
  | 0x012 => { y with rseed0 := x }
  | 0x013 => { y with rseed1 := x }
  | 0x018 => { y with wmk0 := mtsValue n y.wmk0 x }
  | 0x019 => { y with wmk1 := mtsValue n y.wmk1 x }
  | _ => y

/-- The increment of m7[15:0] at the landing of a BLOCK stage that shifted: it saturates (07 R189, 10 R247). -/
def bumpM7 (m : DWord) : DWord :=
  if m.toNat % 65536 = 0x7FFF then m else (m &&& ~~~0xFFFF) ||| BitVec.ofNat 64 ((m.toNat + 1) % 65536)

/-- The landing of a BLOCK stage: a pass that shifted adds 1, and sets SAT where the count is at its end. -/
def landBump (c : Ctx) (n : Nat) (shifted : Bool) : Ctx :=
  if shifted then
    let c := if (c.rm n).toNat % 65536 = 0x7FFF then { c with sys := { c.sys with status := c.sys.status ||| 0x10 } }
      else c
    { c with regs := { c.regs with m := c.regs.m.setIfInBounds n (bumpM7 (c.rm n)) } }
  else c

/-- A result whose q mask enables nothing: a VEXTR of a disabled element keeps its register (17 R375). -/
def nothing (p : Pend) : Bool := p.byLane && p.mask == 0

/-- A result lands: the register takes the bytes it writes, and FPFLAGS the bits it sets. Writes to g0, k0 and q0
are discarded. -/
def landOne (c : Ctx) (p : Pend) : Ctx :=
  let r := c.regs
  let y := { c.sys with fpflags := c.sys.fpflags ||| p.flags.setWidth 64 }
  let c := { c with sys := y }
  match p.dest with
  | .g n => if n = 0 ∨ nothing p then c else { c with regs := { r with g := r.g.setIfInBounds n (p.data.setWidth 64) } }
  | .k n =>
    if n = 0 then c
    else { c with regs := { r with k := if p.data.getLsbD 0 then r.k ||| (1#8 <<< n) else r.k &&& ~~~(1#8 <<< n) } }
  | .q n =>
    if n = 0 then c
    else { c with regs := { r with
      q := r.q.setIfInBounds n ((p.data.setWidth 256 &&& p.mask) ||| (r.q[n]?.getD 0 &&& ~~~p.mask)) } }
  | .line n =>
    { c with regs := { r with line := r.line.setIfInBounds n (mergeBytes (c.line n) p.data p.mask) } }
  | .m n =>
    if p.bump then landBump c n (p.data.getLsbD 0)
    else { c with regs := { r with m := r.m.setIfInBounds n (p.data.setWidth 64) } }
  | .fmt n => { c with regs := { r with fmt := r.fmt.setIfInBounds n (p.data.setWidth 64) } }
  | .lc n => { c with regs := { r with lc := r.lc.setIfInBounds n (p.data.setWidth 32) } }
  | .shp n =>
    let old := (c.rshp (n / 16)).toNat
    let lo := n % 16 * 64
    let new := old - bits old (lo + 63) lo * 2 ^ lo + (p.data.toNat % 2 ^ 64) * 2 ^ lo
    { c with regs := { r with shp := r.shp.setIfInBounds (n / 16) (BitVec.ofNat 1024 new) } }
  | .sys n => { c with sys := mtsSys y n (p.data.setWidth 64) }

/-- Whether a destination discards its writes, so that it collides with nothing (06 R143). -/
def Dest.hard : Dest → Bool
  | .g n | .k n | .q n => n == 0
  | _ => false

/-- Two results of one landing collide: one register, and with q masks a byte that both enable (06 R143). -/
def collide (p r : Pend) : Bool :=
  p.dest == r.dest && !Dest.hard p.dest && !(p.bump || r.bump) && !nothing p && !nothing r &&
    (!(p.byLane && r.byLane) || (p.mask &&& r.mask) != 0)

def anyCollision : List Pend → Bool
  | [] => false
  | p :: r => r.any (collide p) || anyCollision r

/-- The results of a list land in issue order; a collision sets STATUS.DWC (06 R143, R154). A write of MTS lands
before the flags of the same cycle, which are ORed in after it (16 R357). -/
def landAll (c : Ctx) (ps : List Pend) : Ctx :=
  let isSys (p : Pend) : Bool := match p.dest with | .sys _ => true | _ => false
  let c := (ps.filter isSys ++ ps.filter (!isSys ·)).foldl landOne c
  if anyCollision ps then { c with sys := { c.sys with status := c.sys.status ||| 0x8 } } else c

/-- Whether a result is due at issue cycle `i` of its context and cycle `t` (06 R142). -/
def Due.reached (i t : Nat) : Due → Bool
  | .issue n => n ≤ i
  | .cycle n => n ≤ t
  | .access _ => false

/-- The distinct landing moments, so that results of one moment land together. -/
def Due.key : Due → Nat
  | .issue n | .cycle n => n
  | .access n => n

/-- A number put into a rising list, once. -/
def insertKey (n : Nat) : List Nat → List Nat
  | [] => [n]
  | k :: r => if n < k then n :: k :: r else if n = k then k :: r else k :: insertKey n r

def sortedKeys (l : List Nat) : List Nat := l.foldr insertKey []

/-- The bits of a line whose bytes a mask enables. -/
def byteBits (mask : QReg) : Line := mergeBytes 0 (BitVec.allOnes 2048) mask

/-- What a routine has produced lands with its rows: the destination tiles, flags and SAT (07 R182, R185, 09 R231). Bytes
that a later-issued result has written in the same cycle stay, and any such overlap sets DWC (06 R143). Bytes that a
result has written since the landing cycle stay too, since the tile counts as written in that cycle (09 R230). -/
def landClaim (c : Ctx) (k : MClaim) : Ctx :=
  let laid (n : Nat) (f : Nat × QReg × Bool → Bool) : Line :=
    (k.met.filter fun m => m.1 == n && f m).foldl (fun x m => x ||| byteBits m.2.1) 0
  let later (n : Nat) : Line := (k.past.filter (·.1 == n)).foldl (fun x m => x ||| byteBits m.2) 0
  let c := k.tileData.foldl (fun c (p : Nat × Line × Line) =>
    let keep := laid p.1 (·.2.2) ||| later p.1
    let mask := p.2.2 &&& ~~~keep
    let x := (c.line p.1 &&& ~~~mask) ||| (p.2.1 &&& mask)
    { c with regs := { c.regs with line := c.regs.line.setIfInBounds p.1 x } }) c
  let dwc := k.tileData.any fun p => (laid p.1 (fun _ => true) &&& p.2.2) != 0
  { c with sys := { c.sys with
      fpflags := c.sys.fpflags ||| k.flags.setWidth 64
      status := c.sys.status ||| (if k.sat then 0x10 else 0) ||| (if dwc then 0x8 else 0) } }

/-- The claims that `f` names land, in their order, and end (09 R229). -/
def landClaims (c : Ctx) (f : MClaim → Bool) : Ctx :=
  (c.claims.filter f).foldl landClaim { c with claims := c.claims.filter (!f ·) }

/-- The context waits without issuing, so that results land in wall cycles (06 R142); and the waits that include the end of
its routines. -/
def waiting (c : Ctx) : Bool := c.wait != .none || c.st == .draining || c.mwait
def routineWait (c : Ctx) : Bool :=
  let ends (w : Wait) : Bool := match w with | .mode _ | .exit | .csave _ _ | .cload _ => true | _ => false
  c.mwait || ends c.wait || ends c.wait2

/-- An operation of the bundle in hand makes its context wait: beside another wait, it comes after it, but before EXIT's. -/
def addWait (c : Ctx) (w : Wait) : Ctx :=
  match c.wait with
  | .none => { c with wait := w }
  | .exit => { c with wait := w, wait2 := .exit }
  | _ => { c with wait2 := w }

/-- The strand has issued EXIT. -/
def exits (c : Ctx) : Bool := c.wait == .exit || c.wait2 == .exit

/-- A claim whose routine has finished and, in a fixed region outside those waits, whose landing cycle has come
(09 R229, R230). In a handler, which is a scoreboard region, a call of the fixed region it left lands when its routine has finished
(DESIGN CHOICE, log entry 74). -/
def claimDue (c : Ctx) (k : MClaim) : Bool :=
  k.done && (!k.fixed || !c.fixed || decide (k.lambda ≤ c.issue) || c.routineWait)

/-- A pending result is due at cycle `t`. -/
def pendDue (c : Ctx) (t : Nat) (p : Pend) : Bool :=
  Due.reached c.issue t p.due ||
    (c.waiting && decide (p.wall ≤ t) && (match p.due with | .access _ => false | _ => true))

/-- The line of a claim's tiles that a result writes. -/
def tileLineOf (k : MClaim) (p : Pend) : Option Nat :=
  match p.dest with
  | .line n => if 64 ≤ n ∧ k.tiles.getLsbD ((n - 64) / 16) then some n else none
  | _ => none

/-- A result lands in the landing cycle of a claim on its tile: the claim remembers it. -/
def meetsClaim (c : Ctx) (k : MClaim) (p : Pend) : Option (Nat × QReg × Bool) :=
  (tileLineOf k p).bind fun n =>
    if (if k.fixed ∧ c.fixed then p.due = .issue k.lambda else c.claimDue k = true) then some (n, p.mask, decide (k.order < p.order))
    else none

/-- A result lands after the landing cycle of a claim of the fixed region whose routine is late (09 R230). -/
def passesClaim (k : MClaim) (p : Pend) : Option (Nat × QReg) :=
  (tileLineOf k p).bind fun n => match p.due with
    | .issue i => if k.fixed ∧ k.lambda < i then some (n, p.mask) else none
    | _ => none

/-- The results that are due land, earlier moments first, and then the claims (06 R142, R143). -/
def landDue (c : Ctx) (t : Nat) : Ctx :=
  let due := c.pend.filter (c.pendDue t)
  let rest := c.pend.filter (!c.pendDue t ·)
  let keys := sortedKeys (due.map fun p => Due.key p.due)
  let claims := c.claims.map fun k => { k with
    met := k.met ++ due.filterMap (c.meetsClaim k), past := k.past ++ due.filterMap (passesClaim k) }
  let c := keys.foldl (fun c k => landAll c (due.filter fun p => Due.key p.due == k))
    { c with pend := rest, claims := claims }
  c.landClaims c.claimDue

end Ctx

/-! ## Results of the slot in hand -/

namespace State

/-- When a result of latency `lat` lands (06 R142, R145). -/
def dueIn (s : State) (lat : Nat) : Due :=
  if s.cur.fixed then .issue (s.cur.issue + lat) else .cycle (s.now + lat)

/-- The cycle in which a result that lands at a moment is physically complete. -/
def wallOf (s : State) : Due → Nat
  | .issue n => s.now + (n - s.cur.issue)
  | .cycle n => n
  | .access _ => 0

/-- The place of the slot in hand in its context's order of issue. -/
def slotOrder (s : State) : Nat := s.cur.issue * 8 + s.curSlot

/-- A pending result of the slot in hand. -/
def push (s : State) (p : Pend) : State :=
  s.modCur fun c => { c with pend := c.pend ++ [{ p with wall := s.wallOf p.due, order := s.slotOrder }] }

/-- A result for general register `d`. -/
def putG (s : State) (d : BitVec 6) (x : DWord) (lat : Nat) (flags : BitVec 5 := 0) : State :=
  s.push { dest := .g d.toNat, data := x.setWidth 2048, due := s.dueIn lat, flags := flags }

/-- A result for predicate `d`. -/
def putK (s : State) (d : BitVec 3) (x : Bool) (lat : Nat) (flags : BitVec 5 := 0) : State :=
  s.push { dest := .k d.toNat, data := if x then 1 else 0, due := s.dueIn lat, flags := flags }

/-- A result for lane predicate `d`, on the bits that `q` enables (17 R366, R378). -/
def putQ (s : State) (d : BitVec 3) (x q : QReg) (lat : Nat) (flags : BitVec 5 := 0) : State :=
  s.push { dest := .q d.toNat, data := x.setWidth 2048, mask := q, byLane := true, due := s.dueIn lat, flags := flags }

/-- A result for line `n` of the window, on the bytes that `q` enables. -/
def putLine (s : State) (n : Nat) (x : Line) (q : QReg) (lat : Nat) (flags : BitVec 5 := 0) : State :=
  s.push { dest := .line n, data := x, mask := q, byLane := true, due := s.dueIn lat, flags := flags }

/-- A result for another register of the context. -/
def putR (s : State) (d : Dest) (x : Line) (lat : Nat) : State :=
  s.push { dest := d, data := x, due := s.dueIn lat }

/-- The slot's outcome. -/
def outcome (s : State) (o : SlotOut) : State := s.modCur fun c => { c with out := o }

/-- The slot in hand blocks on a condition that may park its strand (05 R123). -/
def blockOn (s : State) (k : ParkCond) : State :=
  s.modCur fun c => { c with
    out := .blocked true, conds := (s.curSlot, k) :: c.conds.filter (·.1 != s.curSlot) }

/-! ## Crews (05 R129) -/

/-- The members of a crew have all arrived in its open episode: the episode completes. -/
def closeEpisode (k : Crew) : Crew :=
  if k.arrived ≠ [] ∧ k.members.all (k.arrived.contains ·) then
    { k with episode := k.episode + 1, arrived := [] }
  else k

/-- CLEAVE of a strand: it leaves its crew, which may complete its episode, and dissolves when empty. -/
def leaveCrew (s : State) (age : Nat) : State :=
  { s with crews :=
      (s.crews.map fun k =>
        if k.members.contains age then
          closeEpisode { k with members := k.members.filter (· != age), arrived := k.arrived.filter (· != age) }
        else k).filter (·.members ≠ []) }

def crewOf? (s : State) (age : Nat) : Option Crew := s.crews.find? (·.members.contains age)

/-! ## Bank-unit bindings (13 R280) -/

/-- A feed register of a strand, wherever the strand is. -/
def feedOf (s : State) (age f : Nat) : Feed :=
  match s.strand? age with
  | none => {}
  | some t => match s.ctxOf? t.core age with
    | some x => if t.st = .resident ∨ t.st = .saving then (s.ctx t.core x).feed f else t.image.feed f
    | none => t.image.feed f

/-- Release of a strand's binding on a feed, or on all its feeds: its instances stop and their slots are free; an
instance in a row operation runs to the row boundary first, on the operands that its binding had. -/
def releaseFeed (s : State) (age : Nat) (f : Option Nat) : State :=
  let mine (b : BankSlot) : Bool := b.age == age && (f.isNone || f == some b.feed) && !b.dying
  let running (u : BankUnit) (i : Nat) : Bool := u.rowOp.isSome && u.cur == some i
  let gone (u : BankUnit) (i : Nat) : Bool := u.slots.any fun p => p.1 == i && mine p.2 && !running u i
  let last (b : BankSlot) : BankSlot :=
    { b with
      dying := true, wave := false
      input := if b.wave then (s.feedOf age b.feed).list.drop b.taken else b.input }
  let drop (u : BankUnit) : BankUnit :=
    { u with
      cur := u.cur.filter (!gone u ·)
      guaranteed := u.guaranteed.filter (!gone u ·.1)
      slots := u.slots.filterMap fun (i, b) =>
        if !mine b then some (i, b) else if running u i then some (i, last b) else none }
  { s with units := s.units.map drop, waves := s.waves.filter fun w => !(w.age == age && (f.isNone || f == some w.feed)) }

/-! ## Ending strands (05 R118) -/

/-- A kill's effect on the engines of a core at cycle `now`: unstarted entries and loads of the session are discarded, its copies
complete as failed, a started one without a further beat (`away`: those of save areas, by channel); a started reload stops at its next row, a started routine at its
next pre-emptible point (`microTurn`), and a started MLOAD finishes. -/
def killEngines (sess now : Nat) (ages : List Nat) (away : Nat → List CopyCmd) (k : Core) : Core :=
  let mine (c : CopyCmd) : Bool := ages.contains c.age
  let unbound (f : Feed) : Feed := { f with pending := false }
  { k with
    chans := k.chans.mapFinIdx fun i h _ =>
      let held := k.ctxs.toList.flatMap fun t => if i = 1 then t.repush1 else t.repush0
      let run := h.running.toList.map (·.cmd)
      { h with
        queue := h.queue.filter (!mine ·)
        buffer := h.buffer.filter (!mine ·)
        finishing := h.finishing.map (fun p => (p.1, p.2 || mine p.1)) ++
          (((run ++ h.buffer ++ h.queue ++ held ++ away i).filter mine).map fun c => (c, true))
        running := h.running.filter (!mine ·.cmd) }
    reloads := k.reloads.map fun r => if ages.contains r.age then { r with killedAt := some (r.killedAt.getD now) } else r
    tslots := match k.tload with
      | some t => if ages.contains t.age then
          k.tslots.mapFinIdx fun _ d _ =>
            if d.desc.getLsbD 6 && d.desc.getLsbD 14 && bits d.desc.toNat 13 8 == sess then
              { desc := BitVec.ofNat 128 (sess * 256 + 0x4000) } else d
        else k.tslots
      | none => k.tslots
    tload := match k.tload with
      | some t => if ages.contains t.age then none else some t
      | none => none
    ctxs := k.ctxs.mapFinIdx fun _ c _ =>
      if (c.strand.map ages.contains).getD false then
        { c with
          st := .draining, wait := .exit, wait2 := .none, holds := [], regs := { c.regs with feed := c.regs.feed.map unbound }
          streams := .replicate 4 {}, tableQ := [], repush0 := [], repush1 := [],
          loops := [], since := none, claims := [], far := [], fault := none, mwait := false, pend := c.pend.filter fun p =>
            match p.due with | .access _ => true | _ => false }
      else c }

/-- The MSWITCH entries that a kill discards no longer name a mode to come. -/
def unswitch (ids : List Nat) (k : Core) : Core :=
  { k with arrs := k.arrs.mapFinIdx fun _ a _ => { a with next := a.next.filter fun e => !ids.contains e.1 } }

/-- The requests of reads of peer memory that a context drops. -/
def farTags (t : Ctx) : List (Nat × Nat) :=
  t.far.flatMap fun f => (f.pieces.zip f.src.tags).filterMap fun p => match p with
    | ({ home := .peer l _, .. }, some g) => some (l, g)
    | _ => none

/-- The session's strands go to DONE at once, leave their crews and release their bindings; engine commands that a strand
has left behind end too (05 R118). -/
def endStrands (s : State) (sess : Nat) : State :=
  let all := s.strands.filter (·.sess == sess)
  let live := all.filter (·.st != .done)
  let ages := all.map (·.age)
  let holds (t : Ctx) : Bool := (t.strand.map ages.contains).getD false
  let entries (t : Ctx) : List Nat := t.streams.toList.flatMap fun q => q.entries.map (·.id)
  let ctxs := (s.cores.toList.flatMap (·.ctxs.toList)).filter holds
  let ids := (ctxs ++ live.map (·.image)).flatMap entries
  let gone := ctxs.flatMap farTags
  let away (c h : Nat) : List CopyCmd := (live.filter (·.core == c)).flatMap fun t =>
    if h = 1 then t.image.repush1 else t.image.repush0
  let emptied (t : Ctx) : Ctx := { t with repush0 := [], repush1 := [] }
  let s : State := { s with
    cores := s.cores.mapFinIdx fun c k _ => killEngines sess s.now ages (away c) (unswitch ids k)
    requests := s.requests.filter fun q => !gone.contains (q.link, q.tag)
    strands := s.strands.map fun t =>
      if ages.contains t.age && t.st != .done then { t with st := .done, ended := true, killed := true, image := emptied t.image } else t }
  (live.map (·.age)).foldl (fun s a => (s.leaveCrew a).releaseFeed a none) s

/-- KillSession (05 R118, 06 R150): every launch of the session that is not complete ends with FAULT (02 R45). -/
def killSession (s : State) (sess : Nat) : State :=
  let s := s.modSession sess fun t => { t with killed := true }
  let s := { s with launches := s.launches.map fun (l : Launch) =>
    if l.sess = sess ∧ l.status = 0 then { l with status := 0x21 } else l }
  s.endStrands sess

/-! ## Taking a trap, and the return (06 R149 to R152) -/

/-- CAUSE of a trap: code, slot, subcode (06 R154). SLOT is 0 for codes 0x01 to 0x04. -/
def causeOf (code slot sub : Nat) : DWord :=
  BitVec.ofNat 64 (code + (if code ≤ 4 then 0 else slot * 256) + sub * 4096)

/-- Cycles without issue after a taken transfer and after a trap entry, this one included (06 R145, R150). -/
def transferStall : Nat := 3

/-- The last lines of trap entry, once every result has landed: EPC, CAUSE and EVA are written, the region saved,
the handler entered (06 R150). Without a handler, or in one, the session is killed. -/
def enterTrap (s : State) (c x : Nat) (cause eva : DWord) : State :=
  let t := s.ctx c x
  if t.sys.tvec = 0 ∨ t.hnd then
    let s := s.setCtx c x { t with wait := .none, wait2 := .none }
    s.killSession (((s.strandOf c x).map (·.sess)).getD 0)
  else
    s.setCtx c x { t with
      sys := { t.sys with
        epc := t.pc, cause := cause, eva := eva,
        status := Ctx.statusOf false true t.fixed t.sys.status }
      pc := t.sys.tvec, nextPc := none, wait := .none, wait2 := .none, holds := [], since := none, met := [], parkMet := false, far := [], mwait := false
      stall := transferStall, st := if t.st = .draining ∨ t.halt.isSome then .draining else .issuable, out := .trapped }

/-- A trap of the bundle in hand: precise, so that nothing of it has performed (06 R149). Where an access or a
result is still outstanding the entry waits for it (06 R150, 08 R199): TRAP_ENTRY ends it. -/
def trapCause (s : State) (cause eva : DWord) : State :=
  let c := s.cur
  if c.accesses.all (·.posted) ∧ c.pend = [] then (s.enterTrap s.curCore s.curCtx cause eva).outcome .trapped
  else s.modCur fun c => { c with wait := .trap cause eva, since := none, met := [], out := .trapped }

/-- A trap of the slot in hand. -/
def trapWith (s : State) (code sub : Nat) (eva : DWord) : State := s.trapCause (causeOf code s.curSlot sub) eva

/-- A trap with EVA 0. -/
def trap (s : State) (code : Nat) : State := s.trapWith code 0 0

/-- ERET (06 R150): the region and the PC of before the trap, HND 0; the levels of the loop buffer are armed again,
since they are idle only while HND is 1. The trapping bundle issues again once the handler's results have landed. -/
def eretTo (s : State) : State :=
  s.modCur fun c => { c.addWait .land with
    sys := { c.sys with status := Ctx.statusOf c.pfixed false c.pfixed c.sys.status }
    nextPc := some c.sys.epc }

end State

/-- A scalar slot: nothing when its predicate is false (06 R137). -/
def scalar (pn : BitVec 1) (pk : BitVec 3) (s : State) (f : State → State) : Out :=
  .next (if s.cur.pred pn pk then f s else s)

end Sys2Proof.Machine
end

