-- ==== Sys2Proof/Machine/Flags.lean ====
section
/-! DEFINITION. Condition codes and flag bits (15 R316, 16 R338, R339, 06 R155). -/

namespace Sys2Proof.Machine

/-- The integer conditions on `w` bits (16 R338). -/
def cond {w : Nat} (cc : BitVec 3) (a b : BitVec w) : Bool :=
  match cc.toNat with
  | 0 => a == b
  | 1 => a != b
  | 2 => a.slt b
  | 3 => b.sle a
  | 4 => a.ult b
  | 5 => b.ule a
  | 6 => (a &&& b) != 0
  | _ => (a &&& b) == 0

/-- The functions of KOP (16 R339). -/
def kopFn (f : BitVec 3) (a b : Bool) : Bool :=
  match f.toNat with
  | 0 => a && b
  | 1 => a || b
  | 2 => a != b
  | 3 => a && !b
  | 4 => a || !b
  | 5 => a == b
  | 6 => a
  | _ => !a

/-- The FPFLAGS bits (06 R155). -/
def fInvalid : BitVec 5 := 1
def fDivZero : BitVec 5 := 2
def fOverflow : BitVec 5 := 4
def fUnderflow : BitVec 5 := 8
def fInexact : BitVec 5 := 16

/-- The outcomes of a floating comparison's operands: unordered, less, equal, greater (16 R343). -/
inductive FOrd where
  | un | lt | eq | gt
  deriving DecidableEq, Repr

/-- The floating conditions (16 R343). -/
def fcond (cc : BitVec 3) (o : FOrd) : Bool :=
  match cc.toNat, o with
  | 0, .eq => true
  | 1, .un | 1, .lt | 1, .gt => true
  | 2, .lt => true
  | 3, .lt | 3, .eq => true
  | 4, .un => true
  | 5, .lt | 5, .eq | 5, .gt => true
  | _, _ => false

/-- INVALID of a floating comparison: any NaN for LT and LE, a signalling one otherwise (16 R343). -/
def fcondInvalid (cc : BitVec 3) (nan snan : Bool) : Bool :=
  if cc.toNat = 2 ∨ cc.toNat = 3 then nan else snan

end Sys2Proof.Machine
end

