-- ==== Sys2Proof/Machine/Formats.lean ====
section
/-! DEFINITION. Number formats, exact values and rounding (07 R157 to R178). A finite value is a sign, a natural
mantissa and an exponent of 2, exact. A value that is no such number (a quotient, a root, a transcendental one) is
given with many spare bits and a lowest bit that says something was cut off, so that every rounding of it is right. -/

namespace Sys2Proof.Machine

/-- The rounding modes (06 R155). -/
inductive RMode where
  | rne | rtz | rdn | rup | sto
  deriving DecidableEq, Repr

/-- A floating format (07 R159, R160): width, fraction bits, exponent of the smallest normal; `maxFin` is the largest
finite encoding, `inf` the infinity if there is one, `nan` the canonical NaN; `sat`: overflow saturates (07 R166). -/
structure FFmt where
  w : Nat
  frac : Nat
  emin : Int
  maxFin : Nat
  inf : Option Nat
  nan : Nat
  sat : Bool
  deriving DecidableEq, Repr

def f64F : FFmt := ⟨64, 52, -1022, 0x7FEF_FFFF_FFFF_FFFF, some 0x7FF0_0000_0000_0000, 0x7FF8_0000_0000_0000, false⟩
def f32F : FFmt := ⟨32, 23, -126, 0x7F7F_FFFF, some 0x7F80_0000, 0x7FC0_0000, false⟩
def bf16F : FFmt := ⟨16, 7, -126, 0x7F7F, some 0x7F80, 0x7FC0, false⟩
def f16F : FFmt := ⟨16, 10, -14, 0x7BFF, some 0x7C00, 0x7E00, false⟩
def e5m2F : FFmt := ⟨8, 2, -14, 0x7B, some 0x7C, 0x7E, true⟩
def e4m3F : FFmt := ⟨8, 3, -6, 0x7E, none, 0x7F, true⟩

/-- A value: (−1)^neg × m × 2^e, an infinity, or a NaN. -/
inductive FVal where
  | nan (signalling : Bool)
  | inf (neg : Bool)
  | fin (neg : Bool) (m : Nat) (e : Int)
  deriving DecidableEq, Repr

namespace FFmt

def sign (f : FFmt) : Nat := 2 ^ (f.w - 1)

/-- The value of an encoding (07 R159, R160). -/
def decode (f : FFmt) (x : Nat) : FVal :=
  let neg := decide (f.sign ≤ x % 2 ^ f.w)
  let mag := x % f.sign
  if mag ≤ f.maxFin then
    let ex := mag / 2 ^ f.frac
    let fr := mag % 2 ^ f.frac
    if ex = 0 then .fin neg fr (f.emin - f.frac)
    else .fin neg (2 ^ f.frac + fr) (f.emin - f.frac + ((ex : Int) - 1))
  else if some mag = f.inf then .inf neg
  else .nan (!f.sat && mag / 2 ^ (f.frac - 1) % 2 == 0)

/-- The value of an encoding as an operation reads it: with FTZ a subnormal reads as zero of its sign (07 R167). -/
def read (f : FFmt) (ftz : Bool) (x : Nat) : FVal :=
  match f.decode x with
  | .fin neg m e => if ftz ∧ m < 2 ^ f.frac then .fin neg 0 e else .fin neg m e
  | v => v

/-- The encoding that FTZ reads an operand as (07 R167). -/
def flush (f : FFmt) (ftz : Bool) (x : Nat) : Nat :=
  if ftz ∧ x % f.sign < 2 ^ f.frac then x % 2 ^ f.w - x % f.sign else x % 2 ^ f.w

def withSign (f : FFmt) (neg : Bool) (mag : Nat) : Nat := if neg then f.sign + mag else mag

end FFmt

/-- Whether a magnitude with quotient `q` and remainder `rem` of `2^sh` rounds away from zero (07 R165). -/
def roundsUp (mode : RMode) (draw : Nat) (neg : Bool) (q rem sh : Nat) : Bool :=
  if rem = 0 then false
  else match mode with
    | .rne => decide (2 ^ sh < 2 * rem) || (2 * rem == 2 ^ sh && q % 2 == 1)
    | .rtz => false
    | .rdn => neg
    | .rup => !neg
    | .sto => decide (draw < rem * 65536 / 2 ^ sh)

/-- A magnitude `m × 2^e` cut at the unit `2^u`: the rounded multiple of the unit, and whether it is inexact. -/
def roundAt (mode : RMode) (draw : Nat) (neg : Bool) (m : Nat) (e u : Int) : Nat × Bool :=
  if u ≤ e then (m * 2 ^ (e - u).toNat, false)
  else
    let sh := (u - e).toNat
    let q := m / 2 ^ sh
    let rem := m % 2 ^ sh
    (if roundsUp mode draw neg q rem sh then q + 1 else q, rem != 0)

/-- Round(x, F, mode) with its flags (07 R165 to R167), for a finite x of sign `neg` and magnitude `m × 2^e`. -/
def roundTo (f : FFmt) (mode : RMode) (draw : Nat) (ftz : Bool) (neg : Bool) (m : Nat) (e : Int) : Nat × BitVec 5 :=
  if m = 0 then (f.withSign neg 0, 0)
  else
    let l : Int := (Nat.log2 m : Int) + e
    let ex := max l f.emin
    let (q, inexact) := roundAt mode draw neg m e (ex - f.frac)
    let mag := (ex - f.emin).toNat * 2 ^ f.frac + q
    let tiny := decide (l < f.emin) &&
      (let (q0, _) := roundAt mode draw neg m e (l - f.frac)
       decide (l + 1 < f.emin) || q0 < 2 ^ (f.frac + 1))
    if f.maxFin < mag then
      let toInf := match mode with
        | .rne | .sto => true
        | .rtz => false
        | .rup => !neg
        | .rdn => neg
      let r := match f.inf with
        | some i => if f.sat || !toInf then f.maxFin else i
        | none => f.maxFin
      (f.withSign neg r, fOverflow ||| fInexact)
    else if tiny ∧ ftz then (f.withSign neg 0, fUnderflow ||| fInexact)
    else (f.withSign neg mag,
      (if inexact then fInexact else 0) ||| (if tiny && inexact then fUnderflow else 0))

/-! ## Exact arithmetic of values -/

/-- The exact sum of two finite values. A zero sum of operands of opposite sign is −0 under RDN, else +0 (16 R341). -/
def addFin (mode : RMode) (n1 : Bool) (m1 : Nat) (e1 : Int) (n2 : Bool) (m2 : Nat) (e2 : Int) : Bool × Nat × Int :=
  let e := min e1 e2
  let a : Int := m1 * 2 ^ (e1 - e).toNat
  let b : Int := m2 * 2 ^ (e2 - e).toNat
  let t := (if n1 then -a else a) + (if n2 then -b else b)
  if t = 0 then (if n1 = n2 then n1 else mode == .rdn, 0, e)
  else (decide (t < 0), t.natAbs, e)

/-- An operation's result before it is put into its format: a NaN (with INVALID), an infinity, or an exact value. -/
inductive FRes where
  | nan (invalid : Bool)
  | inf (neg : Bool)
  | fin (neg : Bool) (m : Nat) (e : Int)
  deriving DecidableEq, Repr

def FVal.isNan : FVal → Bool | .nan _ => true | _ => false
def FVal.isSnan : FVal → Bool | .nan b => b | _ => false
def FVal.neg : FVal → FVal
  | .nan b => .nan b
  | .inf n => .inf !n
  | .fin n m e => .fin (!n) m e

def faddV (mode : RMode) (a b : FVal) : FRes :=
  match a, b with
  | .nan x, y => .nan (x || y.isSnan)
  | x, .nan y => .nan (x.isSnan || y)
  | .inf x, .inf y => if x = y then .inf x else .nan true
  | .inf x, _ => .inf x
  | _, .inf y => .inf y
  | .fin n1 m1 e1, .fin n2 m2 e2 => let (n, m, e) := addFin mode n1 m1 e1 n2 m2 e2; .fin n m e

def fmulV (a b : FVal) : FRes :=
  match a, b with
  | .nan x, y => .nan (x || y.isSnan)
  | x, .nan y => .nan (x.isSnan || y)
  | .inf x, .inf y => .inf (x != y)
  | .inf x, .fin n m _ | .fin n m _, .inf x => if m = 0 then .nan true else .inf (x != n)
  | .fin n1 m1 e1, .fin n2 m2 e2 => .fin (n1 != n2) (m1 * m2) (e1 + e2)

/-- a × b + c with one rounding; a product 0 × ∞ is invalid even beside a quiet NaN (16 R341). -/
def ffmaV (mode : RMode) (a b c : FVal) : FRes :=
  match fmulV a b with
  | .nan i => .nan (i || c.isSnan)
  | .inf n => faddV mode (.inf n) c
  | .fin n m e => faddV mode (.fin n m e) c

/-- A result in its format, with flags. -/
def FRes.put (f : FFmt) (mode : RMode) (draw : Nat) (ftz : Bool) : FRes → Nat × BitVec 5
  | .nan i => (f.nan, if i then fInvalid else 0)
  | .inf n => match f.inf with
    | some x => (f.withSign n x, 0)
    | none => (f.nan, fInvalid)
  | .fin n m e => roundTo f mode draw ftz n m e

/-- The order of two values; +0 and −0 are equal (16 R343). -/
def fordV (a b : FVal) : FOrd :=
  match a, b with
  | .nan _, _ | _, .nan _ => .un
  | .inf x, .inf y => if x = y then .eq else if x then .lt else .gt
  | .inf x, _ => if x then .lt else .gt
  | _, .inf y => if y then .gt else .lt
  | .fin n1 m1 e1, .fin n2 m2 e2 =>
    match addFin .rne n1 m1 e1 (!n2) m2 e2 with
    | (neg, m, _) => if m = 0 then .eq else if neg then .lt else .gt

/-- The sign of a value, for −0 below +0 (07 R164). -/
def FVal.isNeg : FVal → Bool | .inf n => n | .fin n _ _ => n | .nan _ => false

/-- minimumNumber and maximumNumber on encodings as read, with INVALID (16 R342). -/
def fminmax (f : FFmt) (ftz wantMax : Bool) (x y : Nat) : Nat × BitVec 5 :=
  let a := f.decode x
  let b := f.decode y
  let fl := if a.isSnan || b.isSnan then fInvalid else 0
  let r :=
    if a.isNan && b.isNan then f.nan
    else if a.isNan then f.flush ftz y
    else if b.isNan then f.flush ftz x
    else match fordV (f.read ftz x) (f.read ftz y) with
      | .lt => if wantMax then f.flush ftz y else f.flush ftz x
      | .gt => if wantMax then f.flush ftz x else f.flush ftz y
      | _ => if a.isNeg != wantMax then f.flush ftz x else f.flush ftz y
  (r, fl)

/-! ## Conversions (07 R175, R176) -/

/-- SatTo(x, F) for an integer range, and whether it clamped. -/
def satTo (lo hi x : Int) : Int × Bool := if x < lo then (lo, true) else if hi < x then (hi, true) else (x, false)

/-- The range of a two's-complement or unsigned integer format of `w` bits (07 R161). -/
def intLo (sgn : Bool) (w : Nat) : Int := if sgn then -((2 ^ (w - 1) : Nat) : Int) else 0
def intHi (sgn : Bool) (w : Nat) : Int := if sgn then ((2 ^ (w - 1) : Nat) : Int) - 1 else ((2 ^ w : Nat) : Int) - 1

/-- A floating value to an integer format, as a `w`-bit pattern (07 R175). -/
def toInt (sgn : Bool) (w : Nat) (mode : RMode) (draw : Nat) (v : FVal) : Nat × BitVec 5 :=
  match v with
  | .nan _ => (0, fInvalid)
  | .inf n => (unsigned w (if n then intLo sgn w else intHi sgn w), fInvalid)
  | .fin n m e =>
    let (q, inexact) := roundAt mode draw n m e 0
    let (r, sat) := satTo (intLo sgn w) (intHi sgn w) (if n then -(q : Int) else q)
    (unsigned w r, if sat then fInvalid else if inexact then fInexact else 0)

/-- An integer to a floating format (07 R175). -/
def ofIntF (f : FFmt) (mode : RMode) (draw : Nat) (ftz : Bool) (x : Int) : Nat × BitVec 5 :=
  roundTo f mode draw ftz (decide (x < 0)) x.natAbs 0

/-- A floating value to a floating format (07 R175, R166). -/
def toFloat (f : FFmt) (mode : RMode) (draw : Nat) (ftz : Bool) (v : FVal) : Nat × BitVec 5 :=
  match v with
  | .nan b => (f.nan, if b then fInvalid else 0)
  | .inf n => (FRes.inf n).put f mode draw ftz
  | .fin n m e => roundTo f mode draw ftz n m e

/-- The element formats of a conversion (07 R157). -/
inductive EFmt where
  | flt (f : FFmt)
  | int (sgn : Bool) (w : Nat)
  deriving DecidableEq, Repr

def EFmt.width : EFmt → Nat | .flt f => f.w | .int _ w => w

/-- The format of a code that is no block format (07 R157). -/
def codeFmt (c : Nat) : Option EFmt :=
  match c with
  | 0 => some (.flt f32F)
  | 1 => some (.flt bf16F)
  | 2 => some (.flt f16F)
  | 3 => some (.flt e4m3F)
  | 4 => some (.flt e5m2F)
  | 9 => some (.int true 8)
  | 10 => some (.int true 4)
  | 11 => some (.int true 16)
  | 12 => some (.int true 32)
  | 13 => some (.int false 8)
  | 14 => some (.flt f64F)
  | _ => none

def intValue (sgn : Bool) (w x : Nat) : Int := if sgn then signed w x else (x % 2 ^ w : Nat)

/-- Convert(x, F, mode) of an element, with flags (07 R175). Between integers it extends or clamps. -/
def convert (src dst : EFmt) (mode : RMode) (draw : Nat) (ftz : Bool) (x : Nat) : Nat × BitVec 5 :=
  match src, dst with
  | .flt f, .flt g => toFloat g mode draw ftz (f.read ftz x)
  | .flt f, .int sg w => toInt sg w mode draw (f.read ftz x)
  | .int sg w, .flt g => ofIntF g mode draw ftz (intValue sg w x)
  | .int sg w, .int tg v => (unsigned v (satTo (intLo tg v) (intHi tg v) (intValue sg w x)).1, 0)

/-- A VCVT between two integer formats draws nothing (07 R171). -/
def drawsPer (src dst : EFmt) : Bool :=
  match src, dst with
  | .int _ _, .int _ _ => false
  | _, _ => true

/-- VCVTEF of one element: the narrowed value, the residual in the source format, the flags (07 R176). -/
def convertEF (s n : FFmt) (mode : RMode) (draw : Nat) (ftz : Bool) (x : Nat) : Nat × Nat × BitVec 5 :=
  match s.decode x with
  | .nan b => (n.nan, s.nan, if b then fInvalid else 0)
  | .inf neg => match n.inf with
    | some i => (n.withSign neg i, 0, 0)
    | none => (n.nan, s.nan, fInvalid)
  | .fin neg m e =>
    let (r, fl) := roundTo n mode draw ftz neg m e
    let r := match n.decode r with
      | .inf _ => n.withSign neg n.maxFin
      | _ => r
    let res := match n.decode r with
      | .fin n2 m2 e2 => addFin .rne neg m e (!n2) m2 e2
      | _ => (false, 0, 0)
    let (d, fd) := roundTo s .rne 0 false res.1 res.2.1 res.2.2
    (r, d, fl ||| (fd &&& fInexact))

/-! ## FPCTL and the stochastic supply -/

/-- FPCTL.RM and FTZ (06 R155). -/
def Ctx.rm0 (c : Ctx) : RMode :=
  match c.sys.fpctl.toNat % 8 with
  | 0 => .rne | 1 => .rtz | 2 => .rdn | 3 => .rup | _ => .sto
def Ctx.ftz (c : Ctx) : Bool := c.sys.fpctl.getLsbD 3

/-- A scalar rounding code (15 R316). -/
def Ctx.scalarMode (c : Ctx) (f : BitVec 3) : RMode :=
  match f.toNat with
  | 0 => c.rm0 | 1 => .rne | 2 => .rtz | 3 => .rdn | 4 => .rup | _ => .sto

/-- Step() of the stochastic generator: the new state halves and the output (07 R170). -/
def rngStep (s0 s1 : DWord) : DWord × DWord × DWord :=
  let a := if s0 = 0 ∧ s1 = 0 then 0x9E37_79B9_7F4A_7C15 else s0
  let b := s1 ^^^ a
  (a.rotateLeft 41 ^^^ b ^^^ (b <<< 19), b.rotateLeft 33, (a + s1).rotateLeft 23 + a)

/-- `n` fresh steps: the outputs, and the state after. -/
def rngSteps : Nat → DWord → DWord → List DWord × DWord × DWord
  | 0, a, b => ([], a, b)
  | n + 1, a, b =>
    let (a', b', o) := rngStep a b
    let (os, r) := rngSteps n a' b'
    (o :: os, r)

/-- `n` units of 16 bits of a fresh supply, and the state after them (07 R170, R171). -/
def State.draws (s : State) (n : Nat) : List Nat × State :=
  let (os, a, b) := rngSteps (ceilDiv n 4) s.cur.sys.rseed0 s.cur.sys.rseed1
  ((os.flatMap fun o => [bits o.toNat 15 0, bits o.toNat 31 16, bits o.toNat 47 32, bits o.toNat 63 48]).take n,
    s.modCur fun c => { c with sys := { c.sys with rseed0 := a, rseed1 := b } })

/-- The draws of an operation of `n` elements in mode `m`: none but under STO, where each element draws (07 R171). -/
def State.drawsFor (s : State) (m : RMode) (n : Nat) : List Nat × State :=
  if m = .sto then s.draws n else ([], s)

end Sys2Proof.Machine
end

