-- ==== Sys2Proof/Machine/Translate.lean ====
section
/-! DEFINITION. Pointers, spaces, translation and the checks of an access (04 R83 to R99). -/

namespace Sys2Proof.Machine

/-- A pointer by its space (04 R83). -/
inductive Ptr where
  | global (va : Nat)
  | slice (rank off : Nat)
  | bank (pa : Nat)
  | host (port addr : Nat)
  deriving DecidableEq, Repr

/-- The HBM4 physical address of bank-linear coordinates (04 R91). -/
def bankPa (stack pch bank row byte : Nat) : Nat :=
  let w := row % 4 * 1024 + byte
  let o := w / 256 * 4096 + bank * 256 + w % 256
  (row / 4 * 768 + stack * 64 + pch) * 65536 + o

/-- The coordinates of an HBM4 physical address: channel, bank, row, byte (04 R91). -/
def paBank (pa : Nat) : Nat × Nat × Nat × Nat :=
  let o := pa % 65536
  let w := o / 4096 * 256 + o % 256
  (pa / 65536 % 768, o / 256 % 16, pa / 65536 / 768 * 4 + w / 1024, w % 1024)

/-- The layout of a pointer; `none` raises SPACE (04 R83, R84: a strand's pointer names port 1 or 2). -/
def ptrOf (ncores : Nat) (p : DWord) : Option Ptr :=
  let x := p.toNat
  match bits x 63 60 with
  | 0 => if bits x 59 52 = 0 then some (.global (bits x 51 0)) else none
  | 1 =>
    if bits x 59 52 < ncores ∧ bits x 51 24 = 0 then some (.slice (bits x 59 52) (bits x 23 0)) else none
  | 2 =>
    if bits x 59 40 = 0 ∧ bits x 39 36 < 12 ∧ bits x 25 10 < 49152 then
      some (.bank (bankPa (bits x 39 36) (bits x 35 30) (bits x 29 26) (bits x 25 10) (bits x 9 0)))
    else none
  | 3 =>
    if bits x 59 54 = 0 ∧ (bits x 53 52 = 1 ∨ bits x 53 52 = 2) then some (.host (bits x 53 52) (bits x 51 0))
    else none
  | _ => none

/-! ## Translation tables (04 R95, R96) -/

namespace Pte
def v (e : Nat) : Bool := bit e 0 == 1
def leaf (e : Nat) : Bool := bit e 1 == 1
def w (e : Nat) : Bool := bit e 2 == 1
def x (e : Nat) : Bool := bit e 3 == 1
def m (e : Nat) : Bool := bit e 4 == 1
def p (e : Nat) : Bool := bit e 5 == 1
def tier (e : Nat) : Nat := bits e 7 6
def link (e : Nat) : Nat := bits e 11 8
def mig (e : Nat) : Bool := bit e 12 == 1
def ppn (e : Nat) : Nat := bits e 51 16
/-- Valid at a level: V, LEAF as the level wants it, Reserved bits zero. -/
def ok (e : Nat) (wantLeaf : Bool) : Bool := v e && leaf e == wantLeaf && bits e 15 13 == 0 && bits e 63 52 == 0
/-- An entry of a table that points at another. -/
def table (pa : Nat) : Nat := 1 + pa / 65536 * 65536
end Pte

/-- What a virtual address reaches: the leaf's home address, the leaf, and whether it is a 512 MiB one. -/
structure Leaf where
  addr : Nat
  entry : Nat
  big : Bool
  deriving DecidableEq, Repr

/-- A rising list without repeats. -/
def dedup : List Nat → List Nat
  | a :: b :: r => if a = b then dedup (b :: r) else a :: dedup (b :: r)
  | l => l

namespace State

def pte (s : State) (table idx : Nat) : Nat := s.readNat (table + 8 * idx) 8

/-- The walk of a virtual address from a level-1 table (04 R95). -/
def walk (s : State) (table va : Nat) : Option Leaf :=
  let e1 := s.pte table (bits va 51 42)
  if !Pte.ok e1 false then none
  else
    let t2 := Pte.ppn e1 * 65536
    let a2 := t2 + 8 * bits va 41 29
    let e2 := s.readNat a2 8
    if Pte.ok e2 true then some ⟨a2, e2, true⟩
    else if !Pte.ok e2 false then none
    else
      let a3 := Pte.ppn e2 * 65536 + 8 * bits va 28 16
      let e3 := s.readNat a3 8
      if Pte.ok e3 true then some ⟨a3, e3, false⟩ else none

/-- The nonzero entries of a table page: index and entry. -/
def tableEntries (s : State) (pa : Nat) : List (Nat × Nat) :=
  let idx := dedup ((s.mem.filter fun c => decide (pa ≤ c.1) && decide (c.1 < pa + 65536)).map fun c => (c.1 - pa) / 8)
  idx.map fun i => (i, s.pte pa i)

/-- The leaves of a level-1 table, ascending: virtual base, 512 MiB page, address of the leaf, leaf. -/
def leaves (s : State) (table : Nat) : List (Nat × Bool × Nat × Nat) :=
  (s.tableEntries table).flatMap fun (i, e1) =>
    if i < 1024 ∧ Pte.ok e1 false then
      let t2 := Pte.ppn e1 * 65536
      (s.tableEntries t2).flatMap fun (j, e2) =>
        let base := i * 2 ^ 42 + j * 2 ^ 29
        if Pte.ok e2 true then [(base, true, t2 + 8 * j, e2)]
        else if Pte.ok e2 false then
          let t3 := Pte.ppn e2 * 65536
          (s.tableEntries t3).filterMap fun (k, e3) =>
            if Pte.ok e3 true then some (base + k * 65536, false, t3 + 8 * k, e3) else none
        else []
    else []

/-- The physical address, in its tier, of a byte of a page. -/
def leafPa (l : Leaf) (va : Nat) : Nat :=
  Pte.ppn l.entry * 65536 + (if l.big then va % Config.bigPageBytes else va % 65536)

/-- A session maps the HBM4 page that holds a byte with P set, and with W for a write (04 R93, R94). -/
def grants (s : State) (t : Session) (write : Bool) (pa : Nat) : Bool :=
  (s.leaves t.table).any fun (_, big, _, e) =>
    let size := if big then Config.bigPageBytes else 65536
    Pte.tier e == 0 && Pte.p e && (!write || Pte.w e) &&
      decide (Pte.ppn e * 65536 ≤ pa) && decide (pa < Pte.ppn e * 65536 + size)

end State

/-! ## The checks of an access (04 R85) -/

/-- A failed check: its place in the order of 04 R85, and the CAUSE code (06 R152). -/
structure Denied where
  rank : Nat
  code : Nat
  eva : DWord
  deriving DecidableEq, Repr

/-- The outcome of the checks of bytes that lie in one page and one macro. -/
inductive Checked where
  | ok (w : Window) (home : Home) (mig : Bool)
  | no (rank code : Nat)
  deriving DecidableEq, Repr

/-- The array a slice offset lies in (04 R86): layer × 16 + logical number. -/
def arrIndex (off : Nat) : Nat := off / 0x2_0000

/-- The mode in the view that a storage access is checked against: that of the last MSWITCH issued (08 R210). -/
def Arr.view (a : Arr) : Bool := (a.next.getLast?.map (·.2)).getD a.compute

/-- What an access is for: a strand's read or write, its fetch, or an engine's read or write for its session. -/
inductive Purpose where
  | read | write | fetch | engRead | engWrite
  deriving DecidableEq, Repr

def Purpose.writes (w : Purpose) : Bool := w == .write || w == .engWrite
def Purpose.ofEngine (w : Purpose) : Bool := w == .engRead || w == .engWrite

namespace State

def arr (s : State) (rank i : Nat) : Arr := (s.core rank).arrs[i]?.getD {}

/-- The piece lies in macro `i` of the slice of a rank. -/
def inMacro (rank i : Nat) (p : Piece) : Bool :=
  match p.home with
  | .here a => sliceBase ≤ a && a < scaleBase && (a - sliceBase) / Config.sliceBytes == rank &&
      arrIndex ((a - sliceBase) % Config.sliceBytes) == i
  | _ => false

/-- The session whose strand has issued the oldest access to a macro that has not performed: it claims the macro when it
performs, if no other does (04 R88). -/
def firstClaim (s : State) (rank i : Nat) : Option Nat :=
  let mine (t : Ctx) : List (Nat × Nat) :=
    (t.accesses.filter fun a => !a.posted && a.pieces.any (inMacro rank i)).map fun a =>
      (a.id, ((t.strand.bind s.strand?).map (·.sess)).getD 0)
  let all := s.cores.toList.flatMap fun k => k.ctxs.toList.flatMap mine
  (all.foldl (fun (r : Option (Nat × Nat)) x => match r with
    | some y => if x.1 < y.1 then some x else r
    | none => some x) none).map (·.2)

/-- A macro is another session's; the strands of a SYSTEM session may reach it all the same (04 R88). -/
def foreign (s : State) (sess : Nat) (why : Purpose) (rank i : Nat) : Bool :=
  !(s.isSystem sess && !why.ofEngine) && (match (s.arr rank i).owner with | some o => o != BitVec.ofNat 6 sess | none => false)

/-- The window of a page: that of the tier it was mapped with, whatever exchanges have done since (08 R192, R209). -/
def pageWindow (s : State) (sess va tier : Nat) : Window :=
  if (tier == 0) != s.swapped.contains (sess, va / 65536) then .global else .tiers

/-- The checks of one byte of an access for session `sess`, in the order of 04 R85. A fetch uses space 0x0 only. -/
def checkByte (s : State) (sess : Nat) (why : Purpose) (p : DWord) : Checked :=
  match ptrOf s.ncores p with
  | none => .no 1 0x05
  | some (.global va) =>
    match ((s.session? sess).map fun t => s.walk t.table va).join with
    | none => .no 3 0x06
    | some l =>
      if why.writes ∧ !Pte.w l.entry then .no 4 0x07
      else if why = .fetch ∧ !Pte.x l.entry then .no 4 0x07
      else
        let pa := leafPa l va
        let tier := Pte.tier l.entry
        let home : Home := match tier with
          | 0 => .here pa
          | 1 => .here (capBase + pa)
          | 2 => .host (Pte.link l.entry % 4) pa
          | _ => .peer (Pte.link l.entry) pa
        .ok (s.pageWindow sess va tier) home (Pte.mig l.entry)
  | some (.slice rank off) =>
    if why = .fetch then .no 1 0x05
    else if s.foreign sess why rank (arrIndex off) then .no 5 0x07
    else if (s.arr rank (arrIndex off)).view then .no 6 0x08
    else .ok .slice (.here (sliceHome rank off)) false
  | some (.bank pa) =>
    if why = .fetch then .no 1 0x05
    else if Config.tableArea ≤ pa then .no 2 0x07
    else if s.isSystem sess ∨ ((s.session? sess).map fun t => s.grants t why.writes pa).getD false then
      .ok .bankLinear (.here pa) false
    else .no 2 0x07
  | some (.host port addr) =>
    if why = .fetch then .no 1 0x05
    else if s.isSystem sess then .ok .host (.host port addr) false else .no 2 0x03

/-- The end of the run of bytes from `p` that lie in one page, one macro and, in the bank-linear window, one
256-byte piece of a row (04 R91). -/
def runLength (p : DWord) (len : Nat) : Nat :=
  let unit := if bits p.toNat 63 60 = 2 then 256 else 65536
  Nat.min len (unit - p.toNat % unit)

/-- The checks of an access of `len` bytes, as a whole before any byte performs: its pieces, whether one waits on MIG, and
the denial that comes first in the order, at its lowest byte (04 R85). `fuel` bounds the pages. -/
def checkRange (s : State) (sess : Nat) (why : Purpose) : Nat → DWord → Nat → Nat → List Piece × Bool × Option Denied
  | 0, _, _, _ => ([], false, none)
  | fuel + 1, p, off, len =>
    if len = 0 then ([], false, none)
    else
      let n := runLength p len
      let (ps, mig, bad) := checkRange s sess why fuel (p + BitVec.ofNat 64 n) (off + n) (len - n)
      match s.checkByte sess why p with
      | .ok win home m => ({ home := home, off := off, len := n, va := p, win := win, mig := m } :: ps, mig || m, bad)
      | .no rank code =>
        let d : Denied := ⟨rank, code, p⟩
        (ps, mig, some (match bad with | some b => if b.rank < rank then b else d | none => d))

/-- The checks of an access. -/
def checkAccess (s : State) (sess : Nat) (why : Purpose) (p : DWord) (len : Nat) : List Piece × Bool × Option Denied :=
  s.checkRange sess why (len / 256 + 2) p 0 len

end State

end Sys2Proof.Machine
end

