-- ==== Sys2Proof/Machine/Links.lean ====
section
/-! DEFINITION. Muros links: flits, the replay buffer, acknowledgement and retry, messages and their fragments
(01 R13 to R23), EVENT and DATA messages (02 R59, R60), the fault log (03 R75), and the requests that reads of host and
peer memory send (01 R20, 02 R60). Links 0 to 15 are the peer links, 16 and 17 the host ports A and B. -/

namespace Sys2Proof.Machine

/-- The link of a host port (02 R32). -/
def portLink (p : Nat) : Nat := 15 + p
def isHostLink (l : Nat) : Bool := decide (16 ≤ l)

/-! ## Flits (01 R15 to R17) -/

/-- One bit of the CRC, most significant first. -/
def crcBit (c : DWord) : DWord := if c.msb then (c <<< 1) ^^^ 0x42F0_E1EB_A9EA_3693 else c <<< 1
def crcByte (c : DWord) (b : Byte) : DWord :=
  crcBit (crcBit (crcBit (crcBit (crcBit (crcBit (crcBit (crcBit (c ^^^ (b.setWidth 64 <<< 56)))))))))
def crc64 (bs : List Byte) : DWord := bs.foldl crcByte (BitVec.allOnes 64) ^^^ BitVec.allOnes 64

/-- Bytes `[lo, lo + n)` of a message as a number. -/
def field (b : List Byte) (lo n : Nat) : Nat := ofBytes ((b.drop lo).take n)

/-- A list of bytes brought to a length. -/
def padTo (n : Nat) (l : List Byte) : List Byte := (l ++ List.replicate (n - l.length) 0).take n

/-- The bytes of a flit. -/
def flitBytes (seq : BitVec 32) (kind : Nat) (route : BitVec 16) (ack : BitVec 32) (credit : Nat) (payload : List Byte) :
    List Byte :=
  let b := toBytes 4 seq.toNat ++ toBytes 1 kind ++ toBytes 2 route.toNat ++ toBytes 1 payload.length ++
    toBytes 4 ack.toNat ++ toBytes 2 credit ++ toBytes 2 0 ++ padTo 232 payload
  b ++ toBytes 8 (crc64 b).toNat

def sequenced (kind : Nat) : Bool := kind == 1 || kind == 2 || kind == 3 || kind == 4

/-- The fragments of a message: KIND and payload of each flit (01 R18). `fuel` bounds them. -/
def fragments : Nat → Bool → List Byte → List (Nat × List Byte)
  | 0, _, _ => []
  | k + 1, first, m =>
    if m.length ≤ 232 then [(if first then 4 else 3, m)]
    else (if first then 1 else 2, m.take 232) :: fragments k false (m.drop 232)

def fragmentsOf (m : List Byte) : List (Nat × List Byte) := fragments (m.length / 232 + 1) true m

/-- Sequenced flits that the sender may send now (01 R21). -/
def Link.room (l : Link) : Nat :=
  if l.up then Nat.min (l.peerCredit - (l.nextSeq - l.peerAck).toNat) (1024 - l.replay.length) else 0

/-- ACK: the expected SEQ, but not past a request that has yet to perform at its home (08 R211). -/
def Link.ack (l : Link) : BitVec 32 := l.unserved.head?.getD l.expected

namespace State

/-- An unsequenced flit with its ACK, where RETRY names the expected SEQ, as bytes; CREDIT, which the spec does not give, is a free value (DESIGN
CHOICE, log entry 3). -/
def controlFlit (s : State) (l kind : Nat) (payload : List Byte) : Sent :=
  ⟨l, flitBytes (s.link l).nextSeq kind 0 (if kind = 0x10 then (s.link l).expected else (s.link l).ack) ((Config.freeWord s.drawn).toNat % 65536) payload⟩

/-- An IDLE flit leaves (01 R21). -/
def sendIdle (s : State) (l : Nat) : State :=
  if (s.link l).up then
    State.modLink { s with sent := s.sent ++ [s.controlFlit l 0 []], drawn := s.drawn + 1 } l fun k =>
      { k with sinceIdle := 0, lastIdle := s.now }
  else s

/-- A flit leaves; after 64 of them an IDLE follows (01 R21). -/
def emit (s : State) (f : Sent) : State :=
  let s := State.modLink { s with sent := s.sent ++ [f] } f.link fun k => { k with sinceIdle := k.sinceIdle + 1 }
  if 64 ≤ (s.link f.link).sinceIdle then s.sendIdle f.link else s

/-- RETRY or TIME leaves. -/
def sendControl (s : State) (l kind : Nat) (payload : List Byte) : State :=
  if (s.link l).up then State.emit { s with drawn := s.drawn + 1 } (s.controlFlit l kind payload) else s

/-- One sequenced flit is committed to the replay buffer and leaves. -/
def sendFlit (s : State) (l : Nat) (route : BitVec 16) (f : Nat × List Byte) : State :=
  let (c, s) := s.draw
  let k := s.link l
  let b := flitBytes k.nextSeq f.1 route k.ack (c.toNat % 65536) f.2
  (s.modLink l fun k => { k with replay := k.replay ++ [(k.nextSeq, b)], nextSeq := k.nextSeq + 1 }).emit ⟨l, b⟩

/-- Whether a message fits the sender's window now, behind no other (01 R21). That all fragments of a message leave
together, where the window could take the first ones earlier, is the model's choice (01 R18; DESIGN CHOICE, log entry
64). -/
def linkFits (s : State) (l : Nat) (m : List Byte) : Bool :=
  (s.link l).backlog == [] && decide ((fragmentsOf m).length ≤ (s.link l).room)

/-- A message that fits is sent; the SEQ of its last flit. -/
def sendNow (s : State) (l : Nat) (route : BitVec 16) (m : List Byte) : State × BitVec 32 :=
  let s := (fragmentsOf m).foldl (fun s f => s.sendFlit l route f) s
  (s, (s.link l).nextSeq - 1)

/-- A message is sent, or waits behind the window in order. -/
def sendMsg (s : State) (l : Nat) (route : BitVec 16) (m : List Byte) : State :=
  if s.linkFits l m then (s.sendNow l route m).1
  else s.modLink l fun k => { k with backlog := k.backlog ++ [(route, m)] }

/-- The waiting messages of a link leave while they fit. `fuel` bounds them. -/
def drainBacklog (s : State) (l : Nat) : Nat → State
  | 0 => s
  | n + 1 =>
    match (s.link l).backlog with
    | [] => s
    | (r, m) :: rest =>
      if (fragmentsOf m).length ≤ (s.link l).room then
        drainBacklog ((s.modLink l fun k => { k with backlog := rest }).sendNow l r m).1 l n
      else s

/-! ## Messages of the device -/

/-- A RESPONSE, DATA, EVENT or other message of a class to a host port (02 R33). -/
def toHost (s : State) (p cls : Nat) (m : List Byte) : State := s.sendMsg (portLink p) (BitVec.ofNat 16 cls) m

/-- An EVENT message (02 R59). -/
def event (s : State) (p kind status : Nat) (arg : DWord) (body : List Byte) : State :=
  s.toHost p 4 (toBytes 1 kind ++ toBytes 1 status ++ toBytes 6 0 ++ toBytes 8 s.epoch.toNat ++
    toBytes 8 s.cyc.toNat ++ toBytes 8 arg.toNat ++ padTo 32 body)

/-- An EVENT to both ports. -/
def eventBoth (s : State) (kind : Nat) (arg : DWord) : State := (s.event 1 kind 0 arg []).event 2 kind 0 arg []

/-- A fault-log record; one EVENT of KIND 5 for CLASS 1, 2 or 3 (03 R75, 02 R59). No two occurrences are merged: COUNT is 1 (DESIGN
CHOICE, log entry 65). -/
def logFault (s : State) (cls unit index place : Nat) (paddr : Nat) : State :=
  let i := s.faultLog.length % 65536
  let b := toBytes 8 s.cyc.toNat ++ toBytes 1 cls ++ toBytes 1 unit ++ toBytes 2 index ++ toBytes 4 place ++
    toBytes 8 paddr ++ toBytes 4 1 ++ List.replicate 36 0
  let s : State := { s with faultLog := s.faultLog ++ [⟨s.cyc, b⟩] }
  if cls = 0 then s else s.eventBoth 5 (BitVec.ofNat 64 (i / 64 + i % 64 * 65536))

/-- A write of host memory by DATA messages, split at aligned 256-byte boundaries (02 R60). `fuel` bounds them. -/
def dataWrites : Nat → Nat → List Byte → List (List Byte)
  | 0, _, _ => []
  | k + 1, a, b =>
    let n := Nat.min b.length (256 - a % 256)
    if b = [] then []
    else (toBytes 8 a ++ toBytes 2 n ++ toBytes 6 0 ++ b.take n) :: dataWrites k (a + n) (b.drop n)

def hostWrite (s : State) (p a : Nat) (b : List Byte) : State :=
  (dataWrites (b.length / 256 + 2) a b).foldl (fun s m => s.toHost p 2 m) s

/-! ## Requests (01 R20, 02 R60) -/

/-- The layout of a request of a read, a write or an atomic. -/
def requestBytes (op sess atop sz tag addr len : Nat) (operand cmp : DWord) (data : List Byte) : List Byte :=
  toBytes 1 op ++ toBytes 1 sess ++ toBytes 1 atop ++ toBytes 1 sz ++ toBytes 4 tag ++ toBytes 8 addr ++
    toBytes 2 len ++ toBytes 6 0 ++ toBytes 8 operand.toNat ++ toBytes 8 cmp.toNat ++ toBytes 8 0 ++ data

/-- ROUTE of a request: HOSTMEM on a host port, peer class 1 on a peer link. -/
def requestRoute (l : Nat) : BitVec 16 := if isHostLink l then 5 else 1 <<< 11

/-- The bytes that unacknowledged posted writes of a link hold, newest first to win (08 R211). -/
def forwarded (s : State) (l a n : Nat) : List (Option Byte) :=
  (List.range n).map fun i =>
    (s.link l).egress.foldl (fun (r : Option Byte) e =>
      if e.2.1 ≤ a + i ∧ a + i < e.2.1 + e.2.2.length then e.2.2[a + i - e.2.1]? else r) none

/-- The bytes of a reply under the forwarded ones. -/
def overlay : List (Option Byte) → List Byte → List Byte
  | [], _ => []
  | f :: fs, b => f.getD (b.headD 0) :: overlay fs b.tail

/-- A read of up to 256 bytes beyond the device: its TAG. A read whose every byte is forwarded sends nothing. -/
def askRead (s : State) (l sess : Nat) (who : Asker) (va : DWord) (a n : Nat) : Nat × State :=
  let tag := (s.link l).nextTag
  let fw := s.forwarded l a n
  let s := s.modLink l fun k => { k with nextTag := k.nextTag + 1 }
  let from_ := ((s.link l).egress.filter fun e => decide (e.2.1 < a + n) && decide (a < e.2.1 + e.2.2.length)).map (·.1)
  let q : Request := { link := l, tag := tag.toNat, sess := sess, who := who, read := true, va := va, len := n, fwd := fw,
                       fwdSeqs := from_, reply := if fw.all (·.isSome) then some (0, overlay fw [], 0) else none }
  let s : State := { s with requests := s.requests ++ [q] }
  let ens := match who with | .ensign _ _ => 0x80 | _ => 0
  (tag.toNat, if q.reply.isSome then s
    else s.sendMsg l (requestRoute l) (requestBytes 0 (sess + ens) 0 0 tag.toNat a n 0 0 []))

/-- An atomic beyond the device. -/
def askAtomic (s : State) (l sess : Nat) (who : Asker) (va : DWord) (a atop sz : Nat) (x cmp : DWord) : Nat × State :=
  let tag := (s.link l).nextTag
  let s := s.modLink l fun k => { k with nextTag := k.nextTag + 1 }
  let q : Request := { link := l, tag := tag.toNat, sess := sess, who := who, read := false, va := va }
  let s : State := { s with requests := s.requests ++ [q] }
  (tag.toNat, s.sendMsg l (requestRoute l) (requestBytes 2 sess atop sz tag.toNat a 0 x cmp []))

/-- The message of a write beyond the device. -/
def writeMsg (l sess tag a : Nat) (b : List Byte) : List Byte :=
  if isHostLink l then toBytes 8 a ++ toBytes 2 b.length ++ toBytes 6 0 ++ b
  else requestBytes 1 sess 0 0 tag a b.length 0 0 b

/-- A posted write of up to 256 bytes beyond the device (08 R193), where it fits the window; the SEQ to wait for. -/
def postWrite (s : State) (l sess a : Nat) (b : List Byte) : State × BitVec 32 :=
  let tag := (s.link l).nextTag
  let q : Request := { link := l, tag := tag.toNat, sess := sess, who := .engine, read := false }
  let s : State := if isHostLink l then s else
    { s.modLink l (fun k => { k with nextTag := k.nextTag + 1 }) with requests := s.requests ++ [q] }
  let (s, q) := s.sendNow l (if isHostLink l then 2 else requestRoute l) (writeMsg l sess tag.toNat a b)
  (s.modLink l fun k => { k with egress := k.egress ++ [(q, a, b)] }, q)

/-- The link and address of a home beyond the device. -/
def farOf : Home → Option (Nat × Nat)
  | .here _ => none
  | .host p a => some (portLink p, a)
  | .peer l a => some (l, a)

/-- A piece cut at aligned 256-byte boundaries where it lies beyond the device (01 R20). `fuel` bounds the cuts. -/
def cutFar : Nat → Nat → Piece → List Piece
  | 0, _, _ => []
  | k + 1, a, p =>
    if p.len = 0 then []
    else
      let n := Nat.min p.len (256 - a % 256)
      let home := match p.home with
        | .here _ => p.home
        | .host q _ => .host q a
        | .peer l _ => .peer l a
      { p with home := home, len := n } ::
        cutFar k (a + n) { p with off := p.off + n, len := p.len - n, va := p.va + BitVec.ofNat 64 n }

def cutPieces (ps : List Piece) : List Piece :=
  ps.flatMap fun p => match farOf p.home with
    | none => [p]
    | some (_, a) => cutFar (p.len / 256 + 2) a p

/-- The requests for the pieces of a read that lie beyond the device. -/
def askAll (s : State) (sess : Nat) (who : Asker) : List Piece → List (Option Nat) × State
  | [] => ([], s)
  | p :: r =>
    match farOf p.home with
    | none => let (ts, s) := askAll s sess who r; (none :: ts, s)
    | some (l, a) =>
      let (t, s) := s.askRead l sess who p.va a p.len
      let (ts, s) := askAll s sess who r
      (some t :: ts, s)

def request? (s : State) (l tag : Nat) : Option Request := s.requests.find? fun q => q.link == l && q.tag == tag

/-- The reply that a piece's request has had: STATUS and bytes. -/
def replyOf (s : State) (p : Piece) (t : Option Nat) : Option (Nat × List Byte × DWord) :=
  match farOf p.home, t with
  | none, _ => some (0, [], 0)
  | some (l, _), some g => (s.request? l g).bind (·.reply)
  | some _, none => none

/-- Requests that are over are forgotten. -/
def dropRequests (s : State) (ps : List Piece) (ts : List (Option Nat)) : State :=
  let gone := (ps.zip ts).filterMap fun (p, t) => match farOf p.home, t with
    | some (l, _), some g => some (l, g)
    | _, _ => none
  { s with requests := s.requests.filter fun q => !gone.contains (q.link, q.tag) }

/-- Bytes laid over a buffer from an offset. -/
def lay (buf : List Byte) (off : Nat) (b : List Byte) : List Byte := buf.take off ++ b ++ buf.drop (off + b.length)

/-- The bytes of a read whose pieces have all come: those at home are taken now (08 R193). -/
def gather (s : State) (n : Nat) (ps : List Piece) (ts : List (Option Nat)) : List Byte :=
  (ps.zip (ts ++ List.replicate ps.length none)).foldl (fun buf (p, t) =>
    match p.home with
    | .here a => lay buf p.off (s.read a p.len)
    | _ => lay buf p.off (padTo p.len (((s.replyOf p t).map (·.2.1)).getD []))) (List.replicate n 0)

/-! ## Errors of reads (03 R72, 04 R90, R112, R113) -/

/-- Physical macro behind logical macro `n` of a remap register: the spare is left out (01 R10; DESIGN CHOICE, log entry
65). -/
def physArray (r : BitVec 5) (n : Nat) : Nat := if n < r.toNat then n else n + 1

/-- PLACE of a fault-log record (03 R75): the numbers that it holds, of which the spec gives no bits (DESIGN CHOICE, log
entry 65): layer or pseudo-channel in bits [7:0], macro or bank in bits [15:8]. -/
def placeOf (x y : Nat) : Nat := x % 256 + 256 * y

def remapOf (s : State) (col layer : Nat) : BitVec 5 := s.remap[col * 8 + layer]?.getD 16

/-- What a fault-log record says of a home address: UNIT, INDEX, PLACE, PADDR (03 R75). -/
def unitAt (s : State) (h : Nat) : Nat × Nat × Nat × Nat :=
  if h < Config.hbmBytes then
    let q := paBank h
    (1, q.1 / 64, placeOf (q.1 % 64) q.2.1, h)
  else if capBase ≤ h ∧ h < capBase + Config.capBytes then (2, (h - capBase) / 4096 % 48, placeOf 0 (Config.capBank (h - capBase)), h - capBase)
  else if tableBase ≤ h ∧ h < storeBase then
    let c := (h - tableBase) / 0x10_0000
    (3, s.coreMap.getD c c, placeOf ((h - tableBase) / 16384 % 64) 0, 0)
  else
    let c := (h - sliceBase) / Config.sliceBytes
    let i := arrIndex ((h - sliceBase) % Config.sliceBytes)
    let col := s.coreMap.getD c c
    (4, col, placeOf (i / 16) (physArray (s.remapOf col (i / 16)) (i % 16)), 0)

/-- A count that saturates at 32 bits. -/
def countUp (x : Word) : Word := if x = BitVec.allOnes 32 then x else x + 1

/-- The cycles that a retried macro pass or table read adds to a core (03 R73): its pass is repeated, the results of its table
queries come later, and its contexts with matrix or table work are frozen as long. A repeated elevator transfer, which the
rule does not name, adds none. -/
def addRetry (unit cycles : Nat) (k : Core) : Core :=
  let k := { k with retrycnt := countUp k.retrycnt }
  let late (p : Pend) : Pend := match p.due with
    | .cycle t => { p with due := .cycle (t + cycles), wall := p.wall + cycles }
    | _ => { p with wall := p.wall + cycles }
  match unit, k.unit with
  | 3, _ => { k with
      retrying := k.retrying + cycles
      ctxs := k.ctxs.mapFinIdx fun _ t _ => { t with pend := t.pend.map fun p => if p.table then late p else p } }
  | 4, some r =>
    if r.planes = 0 then k
    else { k with retrying := k.retrying + cycles, unit := some { r with planes := r.planes + cycles } }
  | _, _ => k

/-- A saturating count of a key, raised. -/
def bump (mx k1 k2 : Nat) : List (Nat × Nat × Nat) → List (Nat × Nat × Nat)
  | [] => [(k1, k2, 1)]
  | (a, b, n) :: r => if a = k1 ∧ b = k2 then (a, b, Nat.min mx (n + 1)) :: r else (a, b, n) :: bump mx k1 k2 r

/-- A read meets an error: 1 is corrected, scrubbed and counted; 2 is transient, so that its retry gives the data, and is
logged, and for a table adds the cycles that the rest of the number states (11 R261); 3 is lasting: the read gives zero bytes,
and the page's loss or the package-fatal event of a macro or table tier is what happens next. -/
def meetError (s : State) (a n : Nat) (e : Nat × Nat) : State :=
  let u := s.unitAt e.1
  let core := if u.1 = 3 then (e.1 - tableBase) / 0x10_0000 else (e.1 - sliceBase) / Config.sliceBytes
  match e.2 % 4 with
  | 1 =>
    if u.1 = 4 then s.modCore core fun k => { k with ecccnt := countUp k.ecccnt }
    else { s with corrected := bump 4294967295 u.1 u.2.1 s.corrected }
  | 2 =>
    let s := match u.1 with
      | 3 => s.modCore core (addRetry 3 (e.2 / 4))
      | 4 => s.modCore core fun k => { k with retrycnt := countUp k.retrycnt }
      | _ => s
    s.logFault 0 u.1 u.2.1 u.2.2.1 u.2.2.2
  | _ =>
    let lo := Nat.max a (e.1 / 65536 * 65536)
    let hi := Nat.min (a + n) ((e.1 / 65536 + 1) * 65536)
    { s with
      mem := s.mem.filter fun c => decide (c.1 < lo) || decide (hi ≤ c.1)
      agenda := .lasting u.1 u.2.1 u.2.2.1 u.2.2.2 :: s.agenda }

/-- The errors that a read of `n` bytes at `a` meets, once each. -/
def meet (s : State) (a n : Nat) : State :=
  let hit (e : Nat × Nat) : Bool := decide (a ≤ e.1) && decide (e.1 < a + n)
  (s.errors.filter hit).foldl (fun s e => s.meetError a n e) { s with errors := s.errors.filter (!hit ·) }

/-- The 64-byte lines of the page-table area that a walk of a virtual address reads (04 R100). -/
def walkLines (s : State) (table va : Nat) : List Nat :=
  let a1 := table + 8 * bits va 51 42
  let e1 := s.readNat a1 8
  if !Pte.ok e1 false then [a1]
  else
    let a2 := Pte.ppn e1 * 65536 + 8 * bits va 41 29
    let e2 := s.readNat a2 8
    if Pte.ok e2 false then [a1, a2, Pte.ppn e2 * 65536 + 8 * bits va 28 16] else [a1, a2]

/-- The errors that a session's read meets: in the table lines of its walks, then in its bytes at home. -/
def meetPieces (s : State) (sess : Nat) (ps : List Piece) : State :=
  if s.errors = [] then s
  else ps.foldl (fun s p =>
    let s := match s.session? sess with
      | some t => if bits p.va.toNat 63 60 = 0 then
          (s.walkLines t.table (bits p.va.toNat 51 0)).foldl (fun s a => s.meet (a / 64 * 64) 64) s else s
      | none => s
    match p.home with
    | .here a => s.meet a p.len
    | _ => s) s

/-! ## Heat (04 R104) -/

/-- The virtual pages of a session that a piece reaches: that of its pointer in space 0x0, those that map its HBM4 byte in the
bank-linear window. -/
def pagesOf (s : State) (sess : Nat) (p : Piece) : List Nat :=
  match bits p.va.toNat 63 60, p.home with
  | 0, _ => [bits p.va.toNat 51 0 / 65536]
  | 2, .here a => match s.session? sess with
    | some t => (s.leaves t.table).filterMap fun (base, big, _, e) =>
        let lo := Pte.ppn e * 65536
        if Pte.tier e = 0 ∧ lo ≤ a ∧ a < lo + (if big then Config.bigPageBytes else 65536) then some ((base + (a - lo)) / 65536)
        else none
    | none => []
  | _, _ => []

/-- An access or a copy beat adds 1 to each page that it reaches and to that page's region. -/
def heatOf (s : State) (sess : Nat) (ps : List Piece) : State :=
  let pages := ps.flatMap (s.pagesOf sess)
  pages.eraseDups.foldl (fun s v => { s with
    pageHeat := bump 65535 sess v s.pageHeat
    regionHeat := bump 4294967295 sess (v / 8192) s.regionHeat }) s

/-- What an engine's read of pieces comes to: it waits for replies, has failed at one, or gives the bytes. -/
inductive Got where
  | wait (src : Src)
  | failed
  | bytes (b : List Byte)
  deriving Repr

/-- An engine's read: the first call asks for what lies beyond the device. -/
def engineRead (s : State) (sess n : Nat) (src : Src) (ps : List Piece) : Got × State :=
  let ps := cutPieces ps
  if ps.all (fun p => (farOf p.home).isNone) then
    let s := (s.meetPieces sess ps).heatOf sess ps
    (.bytes (s.gather n ps []), s)
  else if !src.asked then
    let (ts, s) := s.askAll sess .engine ps
    (.wait { asked := true, tags := ts }, s)
  else
    let rs := (ps.zip src.tags).map fun (p, t) => s.replyOf p t
    if rs.all (·.isSome) then
      let s := (s.meetPieces sess ps).heatOf sess ps
      let out := if rs.any (fun r => (r.map (·.1)) == some 1) then Got.failed else .bytes (s.gather n ps src.tags)
      (out, s.dropRequests ps src.tags)
    else (.wait src, s)

/-- The owner of a macro is set by the first access that performs for a session (04 R88). -/
def claimArrays (s : State) (sess : Nat) (ps : List Piece) : State :=
  ps.foldl (fun s p => match p.home with
    | .here a =>
      if sliceBase ≤ a ∧ a < scaleBase then
        let o := a - sliceBase
        let i := arrIndex (o % Config.sliceBytes)
        s.modCore (o / Config.sliceBytes) fun k =>
          match k.arrs[i]? with
          | some r => if r.owner.isNone then { k with arrs := k.arrs.setIfInBounds i { r with owner := some (BitVec.ofNat 6 sess) } }
            else k
          | none => k
      else s
    | _ => s) s

end State
end Sys2Proof.Machine
end

