-- ==== Sys2Proof/Machine/Operands.lean ====
section
/-! DEFINITION. Operand forms: immediates with their extension (15 R312, R315), addresses (20 R412), and the
elements of a vector register (17 R360). -/

namespace Sys2Proof.Machine

/-- A signed immediate of `w` bits, extended by EXT (15 R312). -/
def immS {w : Nat} (s : State) (f : BitVec w) : DWord :=
  match s.ext with
  | none => f.signExtend 64
  | some x => (x ++ f).signExtend 64

/-- An unsigned immediate of `w` bits, extended by EXT (15 R312). -/
def immU {w : Nat} (s : State) (f : BitVec w) : DWord :=
  match s.ext with
  | none => f.zeroExtend 64
  | some x => (x ++ f).zeroExtend 64

/-- The address of a C slot: base + offset × scale, modulo 2^64 (20 R412). -/
def addrOf {w : Nat} (s : State) (b : BitVec 6) (off : BitVec w) (scale : Nat) : DWord :=
  s.cur.rg b + off.signExtend 64 * BitVec.ofNat 64 scale

/-! ## Elements of a line, of `w` bits -/

/-- The elements of a line, lowest first. -/
def elems (w : Nat) (x : Line) : List Nat :=
  go (2048 / w) x.toNat
where
  go : Nat → Nat → List Nat
    | 0, _ => []
    | n + 1, x => x % 2 ^ w :: go n (x / 2 ^ w)

/-- A line from its elements, lowest first. -/
def ofElems (w : Nat) (l : List Nat) : Line :=
  BitVec.ofNat 2048 (go l)
where
  go : List Nat → Nat
    | [] => 0
    | x :: r => x % 2 ^ w + 2 ^ w * go r

/-- Which elements of `w` bits a lane predicate enables: one of an element's bytes is enabled (17 R360). Two
elements of 4 bits share a byte. -/
def enabled (w : Nat) (q : QReg) : List Bool :=
  go (2048 / w) 0 q.toNat
where
  go : Nat → Nat → Nat → List Bool
    | 0, _, _ => []
    | n + 1, i, x => (x / 2 ^ (i * w / 8) % 2 ^ (Nat.max 1 (w / 8)) != 0) :: go n (i + 1) x

/-- The flags of the enabled elements, ORed (17 R360). -/
def orFlags : List Bool → List (BitVec 5) → BitVec 5
  | b :: bs, f :: fs => (if b then f else 0) ||| orFlags bs fs
  | _, _ => 0

/-- The byte lanes of the elements whose flag is set. -/
def lanesOf (w : Nat) (l : List Bool) : QReg :=
  BitVec.ofNat 256 (go l)
where
  go : List Bool → Nat
    | [] => 0
    | b :: r => (if b then 2 ^ (w / 8) - 1 else 0) + 2 ^ (w / 8) * go r

/-- Element width in bits of width code `e` (15 R318). -/
def ewidth (e : BitVec 2) : Nat := 8 * elemBytes e

end Sys2Proof.Machine
end

