-- ==== Sys2Proof/Machine/Access.lean ====
section
/-! DEFINITION. Accesses of strands: their checks at issue, the order in which they may perform, and performing
(08 R192 to R204, 04 R85, 20 R412, R418). -/

namespace Sys2Proof.Machine

/-! ## Bytes of an access -/

/-- The runs of ones of a byte mask of `n` bits: offset and length. -/
def maskRuns : Nat → Nat → Nat → List (Nat × Nat)
  | 0, _, _ => []
  | n + 1, i, m =>
    let r := maskRuns n (i + 1) (m / 2)
    if m % 2 = 0 then r
    else match r with
      | (o, l) :: rest => if o = i + 1 then (i, l + 1) :: rest else (i, 1) :: r
      | [] => [(i, 1)]

/-- A part of an access: pointer, offset in its data, length. -/
abbrev Part := DWord × Nat × Nat

/-- The bytes of a number, and a number of bytes as access data. -/
def dataOf (b : List Byte) : BitVec 32768 := BitVec.ofNat 32768 (ofBytes b)
def dataBytes (d : BitVec 32768) (off n : Nat) : List Byte := toBytes n (d.toNat / 2 ^ (8 * off))

/-- A scalar load's value: `size` bytes, extended (20 R415). -/
def extendTo (size : Nat) (sext : Bool) (x : Nat) : DWord :=
  if sext then BitVec.ofInt 64 (signed (8 * size) x) else BitVec.ofNat 64 (x % 2 ^ (8 * size))

/-! ## Atomics (20 R419) -/

/-- Bytes of an atomic's operand: AFADDH works on 16 bits. -/
def atomSize (op : BitVec 3) (sz : Bool) : Nat := if op = 6 then 2 else if sz then 8 else 4

/-- The format of a floating atomic. -/
def atomFmt (op : BitVec 3) (sz : Bool) : FFmt :=
  if op = 6 then (if sz then bf16F else f16F) else (if sz then f64F else f32F)

/-- The new value and the flags of an atomic. -/
def atomNew (op : BitVec 3) (sz : Bool) (old x cmp : Nat) : Nat × BitVec 5 :=
  let w := 8 * atomSize op sz
  let x := x % 2 ^ w
  match op.toNat with
  | 0 => ((old + x) % 2 ^ w, 0)
  | 1 => (if signed w x < signed w old then x else old, 0)
  | 2 => (if signed w old < signed w x then x else old, 0)
  | 3 => (x, 0)
  | 4 => (if old = cmp % 2 ^ w then x else old, 0)
  | _ =>
    let f := atomFmt op sz
    (faddV .rne (f.decode old) (f.decode x)).put f .rne 0 false

/-- What gd receives. -/
def atomOld (op : BitVec 3) (sz : Bool) (old : Nat) : DWord := extendTo (atomSize op sz) (decide (op.toNat ≤ 4)) old

/-! ## Barriers (12 R270, R271), as numbers of 128 bits -/

namespace Bar
def pending (b : Nat) : Int := signed 32 (bits b 31 0)
def expected (b : Nat) : Nat := bits b 63 32
def arrived (b : Nat) : Nat := bits b 95 64
def state (b : Nat) : Nat := bits b 97 96
def phase (b : Nat) : Nat := bit b 98
def make (pend : Int) (exp arr st ph : Nat) : Nat :=
  unsigned 32 pend + exp % 2 ^ 32 * 2 ^ 32 + arr % 2 ^ 32 * 2 ^ 64 + st % 4 * 2 ^ 96 + ph % 2 * 2 ^ 98
/-- The Reserved bits, which an update keeps. -/
def rest (b : Nat) : Nat := bits b 127 99 * 2 ^ 99
def check (pend : Int) (exp arr st ph : Nat) : Nat :=
  if st = 0 ∧ pend = 0 ∧ arr = exp then make pend exp arr 1 (1 - ph) else make pend exp arr st ph
/-- Nonzero Reserved bits poison a barrier first. -/
def entry (b : Nat) : Nat := if rest b ≠ 0 ∧ state b ≠ 3 then 2 else state b
def init (b e : Nat) : Nat := check 0 (e % 2 ^ 32) 0 0 (phase b)
def bump (b : Nat) (v : Int) : Nat :=
  let st := if v < 0 ∨ 2 ^ 31 - 1 < v then 3 else entry b
  rest b + check (max (-(2 ^ 31)) (min v (2 ^ 31 - 1))) (expected b) (arrived b) st (phase b)
def exp (b n : Nat) : Nat := bump b (pending b + (n % 2 ^ 32 : Nat))
def report (b n : Nat) : Nat := bump b (pending b - n)
def arv (b : Nat) : Nat :=
  let a := (arrived b + 1) % 2 ^ 32
  rest b + check (pending b) (expected b) a (if expected b < arrived b + 1 then 3 else entry b) (phase b)
def poison (b : Nat) : Nat :=
  if entry b = 3 then b else rest b + make (pending b) (expected b) (arrived b) 2 (phase b)
end Bar

namespace State

/-! ## Checks at issue -/

/-- The checks of an access of several parts: the denial earliest in the order of 04 R85, then lowest. With
`inTurn` (20 R417) the first part that fails decides. -/
def checkPartsFor (s : State) (sess : Nat) (why : Purpose) (inTurn : Bool) : List Part → List Piece × Bool × Option Denied
  | [] => ([], false, none)
  | (p, off, n) :: r =>
    let (ps, mig, bad) := s.checkRange sess why (n / 256 + 2) p off n
    let (qs, mig', bad') := checkPartsFor s sess why inTurn r
    let b := match bad, bad' with
      | some x, some y => some (if inTurn ∨ x.rank ≤ y.rank then x else y)
      | some x, none => some x
      | none, y => y
    (ps ++ qs, mig || mig', b)

/-- The checks of an access of the strand in hand. -/
def checkParts (s : State) (why : Purpose) (inTurn : Bool) (l : List Part) : List Piece × Bool × Option Denied :=
  s.checkPartsFor s.curSess why inTurn l

/-- The macro of a home address in slice memory: rank and array. -/
def macroOf (a : Nat) : Option (Nat × Nat) :=
  if sliceBase ≤ a ∧ a < scaleBase then
    some ((a - sliceBase) / Config.sliceBytes, arrIndex ((a - sliceBase) % Config.sliceBytes))
  else none

def pieceMacro (p : Piece) : Option (Nat × Nat) := match p.home with | .here a => macroOf a | _ => none

/-- A piece in a macro that is in compute mode, or whose MSWITCHes issued before number `n` have not all been carried out: its
check was made against a storage mode that a switch still has to bring, and it waits for that change (08 R210, 09 R227). -/
def switchingAt (s : State) (n : Nat) (p : Piece) : Bool :=
  match pieceMacro p with
  | some (c, i) => (s.arr c i).compute || (s.arr c i).next.any fun e => decide (e.1 < n)
  | none => false

/-- The same for a check made now. -/
def switching (s : State) (p : Piece) : Bool := s.switchingAt s.seq p

/-- Whether writes that would add a granule are held: from 19 GiB of dirty or of logged granules on, until a checkpoint
quiesces (03 R78). -/
def areasFull (s : State) : Bool :=
  s.ckpt.isNone && (decide (311_296 ≤ s.dirty.length) || decide (311_296 ≤ s.logged.length))

/-- The pieces of a write that would add a granule to a nearly full area (03 R78). -/
def granuleHold (s : State) (ps : List Piece) : Bool :=
  s.areasFull && ps.any fun p => match p.home with
    | .here a =>
      if a < Config.hbmBytes ∨ (sliceBase ≤ a ∧ a < scaleBase) then (granulesOf a p.len).any (!s.dirty.contains ·)
      else decide (capBase ≤ a) && decide (a < capBase + Config.capBytes) && (granulesOf a p.len).any (!s.logged.contains ·)
    | _ => false

/-- The piece lies in the slice of core `c`. -/
def ownPiece (c : Nat) (p : Piece) : Bool :=
  match p.home with
  | .here a => decide (sliceHome c 0 ≤ a) && decide (a < sliceHome (c + 1) 0)
  | _ => false

/-- A pointer into the slice of the issuing core (20 R418). -/
def ownPtr (s : State) (p : DWord) : Bool :=
  bits p.toNat 63 60 == 1 && bits p.toNat 59 52 == s.curCore

/-! ## Results of a read -/

/-- The pending results of access `id` take their values from its bytes and land from cycle `t` on. -/
def fill (c : Ctx) (id t : Nat) (flags : BitVec 5) (val : Pend → Line) : Ctx :=
  { c with pend := c.pend.map fun p =>
      if p.due = .access id then { p with data := val p, due := .cycle t, wall := t, flags := flags } else p }

/-- What a pending result of an access takes from the access's bytes. -/
def valueOf (size : Nat) (sext : Bool) (x : Nat) (p : Pend) : Line :=
  if size ≠ 0 then (extendTo size sext x).setWidth 2048 else BitVec.ofNat 2048 (x / 2 ^ (2048 * p.part))

/-- The bytes of data that pieces reach. -/
def spanOf (ps : List Piece) : Nat := ps.foldl (fun n p => Nat.max n (p.off + p.len)) 0

/-- The bytes of a read whose pieces have all come, as a number, with the errors that it meets (03 R72). -/
def takeBytes (s : State) (sess n : Nat) (ps : List Piece) (ts : List (Option Nat)) : Nat × State :=
  let s := s.meetPieces sess ps
  (ofBytes (s.gather n ps ts), s)

/-! ## Order (08 R196, R201) -/

/-- A message reaches no window, and is ordered with every access of its class (20 R428, R429). -/
def message (a : Access) : Bool := match a.act with | .send _ _ _ | .recv => true | _ => false

/-- Two accesses reach a common window (08 R192, R196). -/
def sameWindow (b a : Access) : Bool :=
  message b || message a || b.pieces.any fun p => a.pieces.any fun q => p.win == q.win

/-- Whether `b`, issued before `a`, keeps `a` from performing. -/
def blocks (b a : Access) : Bool :=
  !b.posted && (match b.act, a.act with
    | .fence mb _, .fence ma _ => (mb &&& ma) != 0
    | .fence mb _, _ => mb.getLsbD a.cls.toNat
    | _, .fence ma sc => ma.getLsbD b.cls.toNat && (sc != 0 || b.own)
    | _, _ => (b.cls == a.cls && sameWindow b a) || (b.own && a.own))

/-- A fence of system scope waits for the acknowledgement of posted writes too, acquired ones included (08 R202). -/
def awaitsAck (b a : Access) : Bool :=
  match a.act with
  | .fence ma sc => sc == 2 && b.posted && ((b.everyClass && ma != 0) || ma.getLsbD b.cls.toNat)
  | _ => false

/-- No earlier access of the context keeps this one from performing. -/
def inOrder (c : Ctx) (a : Access) : Bool :=
  c.accesses.all fun b => !decide (b.id < a.id) || (!blocks b a && !awaitsAck b a)

/-- The release of an engine command (08 R205): the covered earlier accesses have performed at its scope. -/
def released (c : Ctx) (r : Release) : Bool :=
  c.accesses.all fun b =>
    let covered := b.everyClass ||
      (match b.act with | .fence m _ => (m &&& r.mask) != 0 | _ => r.mask.getLsbD b.cls.toNat)
    !decide (b.id < r.before) || !covered ||
      (match r.scope.toNat with
       | 0 => !b.own || b.posted
       | 1 => b.posted
       | _ => false)

/-- Two pieces share a byte of one home. -/
def overlaps (p q : Piece) : Bool :=
  let meet (a b : Nat) : Bool := decide (a < b + q.len) && decide (b < a + p.len)
  match p.home, q.home with
  | .here a, .here b => meet a b
  | .host x a, .host y b => x == y && meet a b
  | .peer x a, .peer y b => x == y && meet a b
  | _, _ => false

/-- A read that the strand issued before an engine command has not performed and would see the command's write: the write
waits for it (08 R205). -/
def readFirst (c : Ctx) (before : Nat) (ps : List Piece) : Bool :=
  c.accesses.any fun b => !b.posted && decide (b.id < before) &&
    (match b.act with | .load | .atomic _ _ _ _ => b.pieces.any fun p => ps.any (overlaps p) | _ => false)

/-! ## Performing (08 R193) -/

/-- Far pieces of a write become posted, where the windows of their links hold them all. -/
def roomFor (s : State) (ps : List Piece) : Bool :=
  (List.range 18).all fun l =>
    let n := (ps.filter fun p => (farOf p.home).map (·.1) == some l).foldl (fun n p => n + ceilDiv (p.len + 48) 232) 0
    n == 0 || ((s.link l).backlog == [] && decide (n ≤ (s.link l).room))

/-- The pieces of a write are written at home or posted; the SEQs to wait for. -/
def storePieces (s : State) (sess : Nat) (ps : List Piece) (b : Piece → List Byte) : State × List (Nat × BitVec 32) :=
  ps.foldl (fun (s, acks) p => match p.home with
    | .here a => (s.write a (b p), acks)
    | h => match farOf h with
      | some (l, a) => let (s, q) := s.postWrite l sess a (b p); (s, acks ++ [(l, q)])
      | none => (s, acks)) (s, [])

/-- The access leaves the queue of its context, or stays until its posted writes are acknowledged (08 R211). -/
def finish (s : State) (c x id : Nat) (acks : List (Nat × BitVec 32)) : State :=
  s.modCtx c x fun t =>
    let mark (a : Access) : Access := if a.id = id then { a with posted := true, acks := acks } else a
    { t with accesses := if acks = [] then t.accesses.filter (·.id != id) else t.accesses.map mark }

/-- A fault that only the performing of an access finds: the far device refuses what it has allowed before the bundle issued, or
an engine has claimed the macro since. The context takes the trap before its next bundle (DEDUCED, log entry 12). -/
def accessFault (s : State) (c x : Nat) (a : Access) (code : Nat) (va : DWord) : State :=
  s.modCtx c x fun t => { t with
    accesses := t.accesses.filter (·.id != a.id)
    pend := t.pend.filter fun p => p.due != .access a.id
    fault := some (t.fault.getD (causeOf code a.slot 0, va)) }

/-- The requests of an access are sent. -/
def setTags (s : State) (c x id : Nat) (ts : List (Option Nat)) : State :=
  s.modCtx c x fun t =>
    let asked (b : Access) : Access := if b.id = id then { b with src := { asked := true, tags := ts } } else b
    { t with accesses := t.accesses.map asked }

/-- A piece of HBM4 that lies in a bank of a channel (04 R91). -/
def pieceInBank (ch bank : Nat) (p : Piece) : Bool :=
  match p.home with
  | .here a => decide (a < Config.hbmBytes) &&
      (List.range (ceilDiv (a % 256 + p.len) 256)).any fun k =>
        let q := paBank (a / 256 * 256 + 256 * k)
        q.1 == ch && q.2.1 == bank
  | _ => false

/-- A row operation runs on the piece's bank, or one holds the bank's guaranteed slot: an ordinary access waits
(13 R282, R284). -/
def bankBusy (s : State) (p : Piece) : Bool :=
  s.units.any fun u =>
    (match u.rowOp with | some (b, _, _) => pieceInBank u.chan b p | none => false) ||
    (match u.guaranteed with | some (_, b) => pieceInBank u.chan b p | none => false)

/-- What keeps a piece from being reached now: MIG of its page, the mode of its macro, its bank (04 R107, 08 R210,
13 R282). -/
def pieceWaitsAt (s : State) (n : Nat) (p : Piece) : Bool := p.mig || s.switchingAt n p || s.bankBusy p
def pieceWaits (s : State) (p : Piece) : Bool := s.pieceWaitsAt s.seq p

/-- A piece in a macro that nobody owns and that an older access of another session will claim: the port takes that one
first (04 R88). -/
def portTaken (s : State) (sess : Nat) (p : Piece) : Bool :=
  match pieceMacro p with
  | some (c, i) => (s.arr c i).owner.isNone && (match s.firstClaim c i with | some t => t != sess | none => false)
  | none => false

/-- A piece in a macro that another session has come to own since the check of its access (04 R88). -/
def foreignPiece (s : State) (sess : Nat) (p : Piece) : Bool :=
  match pieceMacro p with
  | some (c, i) => (match (s.arr c i).owner with | some o => o != BitVec.ofNat 6 sess | none => false)
  | none => false

/-- The lowest pointer of a strand's access whose macro another session has claimed since its issue (04 R88). -/
def claimedAway (s : State) (sess : Nat) (ps : List Piece) : Option DWord :=
  if s.isSystem sess then none
  else (ps.filter (s.foreignPiece sess)).foldl (fun r p => match r with
    | some w => if p.va < w then some p.va else r
    | none => some p.va) none

/-- The home address of an access's first piece on the device. -/
def headHome (a : Access) : Option Nat :=
  match a.pieces with
  | { home := .here h, .. } :: _ => some h
  | _ => none

/-- The lowest pointer among the pieces whose requests the far device has refused (01 R20, 04 R85). -/
def refusedAt (s : State) (ps : List Piece) (ts : List (Option Nat)) : Option DWord :=
  let bad := (ps.zip ts).filterMap fun (p, g) => if (s.replyOf p g).map (·.1) = some 1 then some p.va else none
  bad.foldl (fun r v => match r with | some w => if v < w then some v else r | none => some v) none

/-- Every request of a read has been answered. -/
def answered (s : State) (ps : List Piece) (ts : List (Option Nat)) : Bool :=
  (ps.zip ts).all fun (p, g) => (s.replyOf p g).isSome

/-- The operands of an atomic as its request carries them (01 R20). -/
def askAtomicAt (s : State) (sess : Nat) (who : Asker) (p : Piece) (op : BitVec 3) (sz : Bool) (v cmp : DWord) :
    List (Option Nat) × State :=
  match farOf p.home with
  | none => ([none], s)
  | some (l, addr) =>
    let w := 2 ^ (8 * atomSize op sz)
    let (g, s) := s.askAtomic l sess who p.va addr op.toNat sz.toNat
      (BitVec.ofNat 64 (v.toNat % w)) (if op = 4 then BitVec.ofNat 64 (cmp.toNat % w) else 0)
    ([some g], s)

/-- An atomic at a home on the device: the old value, the flags, and the state after its write. -/
def atomicHere (s : State) (sess : Nat) (p : Piece) (h : Nat) (op : BitVec 3) (sz : Bool) (v cmp : DWord) :
    Nat × BitVec 5 × State :=
  let s := s.meetPieces sess [p]
  let old := s.readNat h p.len
  let (new, fl) := atomNew op sz old v.toNat cmp.toNat
  (old, fl, s.write h (toBytes p.len new))

/-- Access `id` of a context performs, where its turn has come and what it needs is there (08 R193, R196, R210);
else nothing happens. -/
def perform (s : State) (c x id : Nat) : State :=
  let t := s.ctx c x
  match t.accesses.find? (·.id == id) with
  | none => s
  | some a =>
    let sess := ((t.strand.bind s.strand?).map (·.sess)).getD 0
    if a.posted ∨ ¬ inOrder t a ∨ a.pieces.any (s.pieceWaitsAt a.id) ∨ a.pieces.any (s.portTaken sess) then s
    else
      let done (s : State) (acks : List (Nat × BitVec 32)) : State :=
        ((s.claimArrays sess a.pieces).heatOf sess a.pieces).finish c x id acks
      let give (s : State) (fl : BitVec 5) (val : Pend → Line) : State :=
        s.modCtx c x fun t => fill t id (Nat.max a.landAt s.now) fl val
      let load (s : State) (ts : List (Option Nat)) : State :=
        let (v, s) := s.takeBytes sess (spanOf a.pieces) a.pieces ts
        done (give (s.dropRequests a.pieces ts) 0 (valueOf a.size a.sext v)) []
      let update (f : Nat → Nat) : State := match headHome a with
        | some h =>
          let s := s.meetPieces sess a.pieces
          done (s.writeNat h 16 (f (s.readNat h 16))) []
        | none => s
      if a.src.asked ∧ !s.answered a.pieces a.src.tags then s
      else match (s.claimedAway sess a.pieces).or (if a.src.asked then s.refusedAt a.pieces a.src.tags else none) with
      | some va => (s.dropRequests a.pieces a.src.tags).accessFault c x a 0x07 va
      | none =>
      match a.act with
      | .fence _ _ | .recv => s.finish c x id []
      | .load =>
        if a.src.asked then load s a.src.tags
        else if a.pieces.all (fun p => (farOf p.home).isNone) then load s []
        else
          let (ts, s) := s.askAll sess (.access c x id) a.pieces
          s.setTags c x id ts
      | .store =>
        if s.roomFor a.pieces then
          let (s, acks) := s.storePieces sess a.pieces fun p => dataBytes a.data p.off p.len
          done s acks
        else s
      | .atomic op sz v cmp =>
        match a.pieces.head? with
        | none => s
        | some p => match p.home with
          | .here h =>
            let (old, fl, s) := s.atomicHere sess p h op sz v cmp
            done (give s fl fun _ => (atomOld op sz old).setWidth 2048) []
          | _ =>
            if a.src.asked then
              match s.replyOf p ((a.src.tags.head?).join) with
              | none => s
              | some (_, _, old) =>
                let fl := (atomNew op sz old.toNat v.toNat cmp.toNat).2
                done (give (s.dropRequests a.pieces a.src.tags) fl fun _ => (atomOld op sz old.toNat).setWidth 2048) []
            else
              let (ts, s) := s.askAtomicAt sess (.access c x id) p op sz v cmp
              s.setTags c x id ts
      | .barInit e => update fun b => Bar.init b e.toNat
      | .barExp n => update fun b => Bar.exp b n.toNat
      | .barArv => update Bar.arv
      | .send l rq core =>
        let m := toBytes 1 sess ++ toBytes 1 c ++ toBytes 6 0 ++ dataBytes a.data 0 256
        if s.linkFits l.toNat m then
          let (s, q) := s.sendNow l.toNat (BitVec.ofNat 16 (core.toNat + rq.toNat * 128)) m
          s.finish c x id [(l.toNat, q)]
        else s

/-- ACK of a link has advanced: posted writes before it are acknowledged, and leave (08 R211). -/
def acknowledged (s : State) (l : Nat) (q : BitVec 32) : Bool :=
  !(s.link l).replay.any (·.1 == q)

/-! ## The issue of an access -/

/-- What the context has issued performs, in its order, as far as it may: an own-slice read of a fixed region follows
whatever can precede it (08 R197). -/
def performEarlier (s : State) (all : Bool) : State :=
  let fence (b : Access) : Bool := match b.act with | .fence _ _ => true | _ => false
  (s.cur.accesses.filter fun b => all || b.own || fence b).foldl (fun s b => s.perform s.curCore s.curCtx b.id) s

/-- An atomic or a read of a fixed region at its issue cycle (08 R197). An atomic is also a write, and obeys 08 R196 and
FENCE in full: it is held until they let it perform (DEDUCED, log entry 23). -/
def fixedRead (s : State) (a : Access) (pends : List Pend) (lat : Nat) : State :=
  let sess := s.curSess
  match a.act, a.pieces.head? with
  | .atomic op sz v cmp, some p =>
    let s := s.performEarlier true
    if !inOrder s.cur a then s.outcome .held
    else match p.home with
      | .here h =>
        let (old, fl, s) := s.atomicHere sess p h op sz v cmp
        let s := (s.claimArrays sess a.pieces).heatOf sess a.pieces
        pends.foldl (fun s p => s.push { p with data := (atomOld op sz old).setWidth 2048, due := s.dueIn lat, flags := fl }) s
      | _ => s
  | _, _ =>
    let s := s.performEarlier false
    let (v, s) := s.takeBytes sess (spanOf a.pieces) a.pieces []
    let s := s.claimArrays sess a.pieces
    pends.foldl (fun s p => s.push { p with data := valueOf a.size a.sext v p, due := s.dueIn lat }) s

/-- The requests of the slot in hand are forgotten. -/
def dropFar (s : State) (f : FarRead) : State :=
  (s.dropRequests f.pieces f.src.tags).modCur fun c => { c with far := c.far.filter (·.slot != f.slot) }

/-- A read or an atomic of peer memory: the far device checks it, and a fault is precise (04 R94, R99), so that the bundle
stalls until the replies have come. An atomic, or a read that waits for an access of its own bundle, may not perform then: the
device first asks for the bytes alone, to learn that it may, and the access follows in its turn (DEDUCED, log entry 12). The
pieces at home are those of the translation now (04 R103). -/
def farRead (s : State) (a : Access) (pends : List Pend) (lat : Nat) : State :=
  let sess := s.curSess
  let isAtomic : Bool := match a.act with | .atomic _ _ _ _ => true | _ => false
  let ahead : Bool := isAtomic ||
    s.cur.accesses.any fun b => b.bundle == s.cur.issue && (blocks b a || awaitsAck b a)
  let key (p : Piece) : Option Home × Nat × Nat := if (farOf p.home).isSome then (some p.home, p.off, p.len) else (none, p.off, p.len)
  let wait (s : State) : State := s.outcome .stalled
  let later (s : State) : State :=
    (pends.foldl (fun s p => s.push { p with due := .access a.id }) s).modCur fun c => { c with accesses := c.accesses ++ [a] }
  match s.cur.far.find? (·.slot == s.curSlot) with
  | some f =>
    if f.pieces.map key ≠ a.pieces.map key then wait (s.dropFar f)
    else if !s.answered f.pieces f.src.tags then wait s
    else match s.refusedAt f.pieces f.src.tags with
      | some va => (s.dropFar f).trapWith 0x07 0 va
      | none =>
        if ahead then later (s.dropFar f)
        else if a.pieces.any (s.pieceWaitsAt a.id) ∨ a.pieces.any (s.portTaken sess) then wait s
        else
          let (v, s) := s.takeBytes sess (spanOf a.pieces) a.pieces f.src.tags
          pends.foldl (fun s p => s.push { p with data := valueOf a.size a.sext v p, due := s.dueIn lat })
            (((s.dropFar f).claimArrays sess a.pieces).heatOf sess a.pieces)
  | none =>
    if !ahead ∧ (!inOrder s.cur a ∨ a.pieces.any (s.pieceWaitsAt a.id) ∨ a.pieces.any (s.portTaken sess)) then wait s
    else
      let (ts, s) := s.askAll sess (.access s.curCore s.curCtx a.id) a.pieces
      wait (s.modCur fun c => { c with
        far := c.far ++ [{ slot := s.curSlot, pieces := a.pieces, src := { asked := true, tags := ts } }] })

def isPeer (p : Piece) : Bool := match p.home with | .peer _ _ => true | _ => false

/-- An access that has passed its checks is issued: a read of a fixed region performs at once (08 R197), a read of peer
memory with its bundle, anything else waits for its turn. `pends` are its register results, of latency `lat`. -/
def issueOk (s : State) (a : Access) (why : Purpose) (ps : List Piece) (pends : List Pend) (lat : Nat) : State :=
  let (n, s) := s.nextSeq
  let a := { a with
    id := n, pieces := cutPieces ps, own := ps.any (ownPiece s.curCore), landAt := s.now + lat
    slot := s.curSlot, bundle := s.cur.issue }
  if why = .read ∧ s.cur.fixed then s.fixedRead a pends lat
  else if why = .read ∧ ps.any isPeer then s.farRead a pends lat
  else
    let s := pends.foldl (fun s p => s.push { p with due := .access n }) s
    s.modCur fun c => { c with accesses := c.accesses ++ [a] }

/-- The rest of an access's issue: alignment, the checks, the holds (20 R412, 08 R210, 04 R88, 03 R78), and the stall on a
page that moves (04 R102, R107). An access to an unowned macro waits for an older one of another session that will claim it.
`checked` are the parts before the first misaligned address `mis` in the order of the checks. -/
def checkAccessParts (s : State) (a : Access) (why : Purpose) (writes inTurn : Bool) (checked : List Part)
    (mis : Option DWord) (pends : List Pend) (lat : Nat) : State :=
  let (ps, _, bad) := s.checkParts (if writes then .write else .read) inTurn checked
  match bad, mis with
  | some d, _ => s.trapWith d.code 0 d.eva
  | none, some p => s.trapWith 0x0C 0 p
  | none, none =>
    if (writes ∧ s.granuleHold ps) ∨ (s.cur.fixed ∧ (ps.any (s.portTaken s.curSess) ∨ (why = .read ∧ ps.any s.switching))) then
      s.outcome .held
    else if !s.cur.fixed ∧ (ps.any (·.mig) ∨ ps.any (s.portTaken s.curSess)) then s.outcome .stalled
    else s.issueOk a why ps pends lat

/-- SUB 3: a read of a byte beyond the own slice in a fixed region (06 R144, 20 R418). -/
def beyondOwn (s : State) (parts : List Part) : Bool :=
  s.cur.fixed && !parts.all fun p => s.ownPtr p.1 && s.ownPtr (p.1 + BitVec.ofNat 64 (p.2.2 - 1))

/-- An access of the slot in hand to the parts, whose alignment is tested at `p`. -/
def issueAccess (s : State) (a : Access) (why : Purpose) (writes : Bool) (p : DWord) (align : Nat)
    (parts : List Part) (pends : List Pend) (lat : Nat) : State :=
  if why = .read ∧ s.beyondOwn parts then s.trapWith 0x04 3 0
  else if parts ≠ [] ∧ p.toNat % align ≠ 0 then s.trapWith 0x0C 0 p
  else s.checkAccessParts a why writes false parts none pends lat

end State
end Sys2Proof.Machine
end

