-- ==== Sys2Proof/Machine/Tiles.lean ====
section
/-! DEFINITION. Copy shapes (12 R265) and the tiles of COPYX: handles, records, elements, block formats and their
conversion (04 R109 to R111, 07 R162, R163, R175, R177, R178, 20 R424). -/

namespace Sys2Proof.Machine

/-! ## Shapes (12 R265), as numbers of 1,024 bits -/

namespace Shape
def ndim (x : Nat) : Nat := bits x 2 0
def brep (x : Nat) : Bool := bit x 3 == 1
def barRank (x : Nat) : Nat := bits x 63 57
def barOffset (x : Nat) : Nat := bits x 56 37 * 16
def bound (x d : Nat) : Nat := bits x (64 + 160 * d + 31) (64 + 160 * d)
def sstride (x d : Nat) : Int := signed 64 (bits x (64 + 160 * d + 95) (64 + 160 * d + 32))
def dstride (x d : Nat) : Nat := bits x (64 + 160 * d + 159) (64 + 160 * d + 96)
def bounds (x : Nat) : List Nat := (List.range (ndim x)).map (bound x)
/-- The rules of the table, and the limit of 2^40 bytes. `strides`: the stride rule counts (20 R424). -/
def ok (x : Nat) (strides : Bool) : Bool :=
  decide (1 ≤ ndim x) && decide (ndim x ≤ 6) && (bounds x).all (decide <| 1 ≤ ·) &&
    (List.range 6).all (fun d => decide (d < ndim x) || bound x d == 0) &&
    (!strides || (sstride x 0 == 0 && dstride x 0 == 0)) &&
    decide ((bounds x).foldl (· * ·) 1 ≤ 2 ^ 40)
end Shape

/-- The digits of a number over a list of extents, the first fastest. -/
def digits : List Nat → Nat → List Nat
  | [], _ => []
  | e :: r, n => n % e :: digits r (n / e)

/-- The number of digits over extents: the inverse of `digits`. -/
def undigits : List Nat → List Nat → Nat
  | e :: r, x :: xs => x + e * undigits r xs
  | _, _ => 0

def product (l : List Nat) : Nat := l.foldl (· * ·) 1

/-! ## Element values -/

/-- Bits of an element of a format code (07 R157). -/
def codeBits (c : Nat) : Nat :=
  match c with
  | 0 | 12 => 32 | 1 | 2 | 11 => 16 | 6 | 8 | 10 => 4 | 14 => 64 | _ => 8

def isBlock (c : Nat) : Bool := decide (5 ≤ c) && decide (c ≤ 8)
def isDx (c : Nat) : Bool := c == 7 || c == 8
/-- Scale bytes of a block (04 R110). -/
def scaleLen (c : Nat) : Nat := if isDx c then 2 else 1

/-- The exponent of an E8M0 scale byte; 0xFF decodes to NaN (07 R162). -/
def e8m0 (x : Nat) : Option Int := if x % 256 = 255 then none else some ((x % 256 : Nat) - 127)

/-- The value of an mxf4 element in units of 2^-1, as sign and magnitude (07 R162). -/
def mxf4Int (x : Nat) : Bool × Nat :=
  let e := bits x 2 1
  let f := bit x 0
  (bit x 3 == 1, if e = 0 then f else (2 + f) * 2 ^ (e - 1))

/-- The value of a block element under its scale bytes (07 R162, R163). -/
def blockValue (c raw scale : Nat) : FVal :=
  let scaled (n : Bool) (m : Nat) (s : Nat) (g : Int) : FVal :=
    match e8m0 s with
    | none => .nan false
    | some e => .fin n m (e - g)
  let sgn (w m : Nat) : Bool × Nat := (decide (signed w m < 0), (signed w m).natAbs)
  match c with
  | 5 => let (n, m) := sgn 8 raw; scaled n m scale 6
  | 6 => let (n, m) := mxf4Int raw; scaled n m scale 1
  | 7 => let (n, m) := sgn 7 raw; scaled n m (if bit raw 7 = 1 then scale / 256 else scale) 6
  | _ => let (n, m) := sgn 3 raw; scaled n m (if bit raw 3 = 1 then scale / 256 else scale) 2

/-- An element of any format as a value. -/
def elemValue (c raw scale : Nat) : FVal :=
  if isBlock c then blockValue c raw scale
  else match codeFmt c with
    | some (.flt f) => f.decode raw
    | some (.int sg w) => let x := intValue sg w raw; .fin (decide (x < 0)) x.natAbs 0
    | none => .nan false

/-- A value in a format that is no block format, RNE, no flags (12 R266). -/
def putValue (c : Nat) (v : FVal) : Nat :=
  match codeFmt c with
  | some (.flt f) => (toFloat f .rne 0 false v).1
  | some (.int sg w) => (toInt sg w .rne 0 v).1
  | none => 0

/-! ## Quantisation (07 R177, R178) -/

/-- The magnitude that is largest of finite values, as mantissa and exponent. -/
def amax : List FVal → Nat × Int
  | [] => (0, 0)
  | .fin _ m e :: r =>
    let (m', e') := amax r
    if m = 0 then (m', e')
    else if m' = 0 then (m, e)
    else
      let k := min e e'
      if m' * 2 ^ (e' - k).toNat < m * 2 ^ (e - k).toNat then (m, e) else (m', e')
  | _ :: r => amax r

def allFinite (l : List FVal) : Bool := l.all fun v => match v with | .fin _ _ _ => true | _ => false

/-- Floor(Log2(amax)). -/
def floorLog (m : Nat) (e : Int) : Int := (Nat.log2 m : Int) + e

/-- The integer nearest to m × 2^e, ties to even, clamped in magnitude. -/
def nearInt (mx : Nat) (m : Nat) (e : Int) : Nat := Nat.min mx (roundAt .rne 0 false m e 0).1

/-- The mxf4 magnitude encoding nearest to a value in units of 2^-1, ties to the even encoding. -/
def nearF4 (m : Nat) (e : Int) : Nat :=
  let l : Int := if m = 0 then 0 else (Nat.log2 m : Int) + e
  let u : Int := if l < 2 then 0 else if l < 3 then 1 else 2
  let q := (roundAt .rne 0 false m e u).1 * 2 ^ u.toNat
  if q < 4 then q else if q < 8 then q / 2 + 2 else if q < 16 then Nat.min 7 (q / 4 + 4) else 7

/-- The scale byte X of a block of real values. -/
def quantX (l : List FVal) (bias : Int) : Nat :=
  if !allFinite l then 255
  else
    let (m, e) := amax l
    if m = 0 then 0 else (max 0 (min 254 (floorLog m e + bias))).toNat

/-- QuantMX and QuantDX of 32 values: the scale bytes as a number, and the elements. A value that rounds to zero keeps its sign, in
mxf4 as 0x8 (DESIGN CHOICE, log entry 77). -/
def quant (c : Nat) (l : List FVal) : Nat × List Nat :=
  let zero := l.map fun _ => 0
  let flat := !allFinite l || (amax l).1 == 0
  let sgn (w : Nat) (n : Bool) (m : Nat) : Nat := unsigned w (if n then -(m : Int) else m)
  if c = 5 ∨ c = 6 then
    let x := quantX l (if c = 5 then 127 else 125)
    if flat then (x, zero)
    else (x, l.map fun v => match v with
      | .fin n m e =>
        if c = 5 then sgn 8 n (nearInt 127 m (e - ((x : Int) - 127 - 6)))
        else (if n then 8 else 0) + nearF4 m (e - ((x : Int) - 127 - 1))
      | _ => 0)
  else
    let g : Int := if c = 7 then 6 else 2
    let w := if c = 7 then 7 else 3
    let mx := if c = 7 then 63 else 3
    let ea := quantX l 128
    if flat then (ea + 256 * ea, zero)
    else
      let eb := ea - g.toNat
      let one (v : FVal) : Nat := match v with
        | .fin n m e =>
          let k (x : Nat) : Int := (x : Int) - 127 - g
          let ma := nearInt mx m (e - k ea)
          let mb := nearInt mx m (e - k eb)
          let diff (q x : Nat) : Nat × Int :=
            let r := addFin .rne false m e true q (k x)
            (r.2.1, r.2.2)
          let (da, ka) := diff ma ea
          let (db, kb) := diff mb eb
          let lo := min ka kb
          if db * 2 ^ (kb - lo).toNat < da * 2 ^ (ka - lo).toNat then 2 ^ w + sgn w n mb else sgn w n ma
        | _ => 0
      (ea + 256 * eb, l.map one)

/-! ## COPYX tiles (20 R424, 04 R109 to R111) -/

/-- The geometry of a COPYX: dimensions, tile extents and origins, the handle's and the slice's fields. -/
structure Tile where
  ext : List Nat
  org : List Int
  size : List Nat
  stride : List Nat
  base : DWord
  scale : DWord
  hf : Nat
  bdim : Nat
  pad : Nat
  bf : Nat
  slice : DWord
  soff : DWord
  put : Bool
  deriving DecidableEq, Repr

namespace Tile

def make (shape : Nat) (h : BitVec 1024) (rec : List Byte) (slice : DWord) (put : Bool) : Tile :=
  let x := h.toNat
  let r := ofBytes rec
  let n := bits x 70 68
  { ext := Shape.bounds shape
    org := (List.range n).map fun d => signed 32 (bits r (32 * d + 31) (32 * d))
    size := (List.range n).map fun d => bits x (128 + 32 * d + 31) (128 + 32 * d)
    stride := (List.range (n - 1)).map fun d => bits x (320 + 64 * d + 63) (320 + 64 * d)
    base := BitVec.ofNat 64 (bits x 63 0)
    scale := BitVec.ofNat 64 (bits x 703 640)
    hf := bits x 67 64
    bdim := bits x 74 72
    pad := bits x 127 96
    bf := bits r 195 192
    slice := slice
    soff := BitVec.ofNat 64 (slice.toNat / 2 ^ 24 * 2 ^ 24 + bits r 247 224)
    put := put }

/-- Elements of the tile, and bytes of the slice's element array. -/
def count (t : Tile) : Nat := product t.ext
def sliceLen (t : Tile) : Nat := ceilDiv (t.count * codeBits t.bf) 8
/-- The extents in blocks, of the tile and of the handle (04 R110). -/
def blockExt (t : Tile) : List Nat := t.ext.mapIdx fun d e => if d = t.bdim then e / 32 else e
def blockSize (t : Tile) : List Nat := t.size.mapIdx fun d e => if d = t.bdim then ceilDiv e 32 else e
/-- Either side is a block format. -/
def blocky (t : Tile) : Bool := isBlock t.hf || isBlock t.bf

/-- The failures of the record, the handle and the geometry (20 R424, 04 R111); Reserved bits of the record read as zero (00 R6). -/
def ok (t : Tile) (shape : Nat) (h : BitVec 1024) : Bool :=
  Shape.ok shape false && Shape.ndim shape == bits h.toNat 70 68 &&
    t.bf != 15 && (t.bf == t.hf || !isBlock t.bf || !isBlock t.hf) &&
    bits t.slice.toNat 63 60 == 1 && decide (t.sliceLen ≤ 0x100_0000) &&
    (!t.blocky || ((t.ext[t.bdim]?.getD 0) % 32 == 0 && (t.org[t.bdim]?.getD 0) % 32 == 0))

/-- The coordinates of element `n` of the tile, and whether they lie inside the handle. -/
def coord (t : Tile) (n : Nat) : List Int := (digits t.ext n).zipWith (fun (x : Nat) o => o + x) t.org
def inside (t : Tile) (n : Nat) : Bool :=
  ((t.coord n).zip t.size).all fun (c, s) => decide (0 ≤ c) && decide (c < s)

/-- The byte of the handle's memory that holds an inside element, and its nibble (04 R110, R111). -/
def handleAddr (t : Tile) (n : Nat) : DWord × Nat :=
  match t.coord n with
  | [] => (t.base, 0)
  | c0 :: cs =>
    let b := c0.toNat * codeBits t.hf
    (t.base + BitVec.ofNat 64 (b / 8 + ((cs.zip t.stride).map fun (c, s) => c.toNat * s).foldl (· + ·) 0), b % 8 / 4)

def sliceAddr (t : Tile) (n : Nat) : DWord × Nat :=
  let b := n * codeBits t.bf
  (t.slice + BitVec.ofNat 64 (b / 8), b % 8 / 4)

/-- The digits of the block of element `n` along the block dimension. -/
def blockOf (t : Tile) (n : Nat) : List Nat := (digits t.ext n).mapIdx fun d x => if d = t.bdim then x / 32 else x
/-- The scale bytes of a block: in the slice, and in the handle (none for a block outside it). -/
def sliceScale (t : Tile) (b : List Nat) : DWord := t.soff + BitVec.ofNat 64 (undigits t.blockExt b * scaleLen t.bf)
def handleScale (t : Tile) (b : List Nat) : Option DWord :=
  let c : List Int := (b.zip t.org).mapIdx fun d (p : Nat × Int) => (if d = t.bdim then p.2 / 32 else p.2) + (p.1 : Int)
  if (c.zip t.blockSize).all fun (x, s) => decide (0 ≤ x) && decide (x < s) then
    some (t.scale + BitVec.ofNat 64 (undigits t.blockSize (c.map Int.toNat) * scaleLen t.hf))
  else none

/-- Element numbers of the block with these digits. -/
def blockElems (t : Tile) (b : List Nat) : List Nat :=
  (List.range 32).map fun k => undigits t.ext (b.mapIdx fun d x => if d = t.bdim then x * 32 + k else x)

/-- The source address of element `n`: in the slice, or in the handle where it is inside. -/
def srcAddr (t : Tile) (n : Nat) : Option (DWord × Nat) :=
  if t.put then some (t.sliceAddr n) else if t.inside n then some (t.handleAddr n) else none
def srcFmt (t : Tile) : Nat := if t.put then t.bf else t.hf
def dstFmt (t : Tile) : Nat := if t.put then t.hf else t.bf
def srcScale (t : Tile) (b : List Nat) : Option DWord := if t.put then some (t.sliceScale b) else t.handleScale b

/-- `n` bytes at a pointer, little-endian, as a reader gives them. -/
def readNum (get : DWord → Byte) (p : DWord) : Nat → Nat
  | 0 => 0
  | n + 1 => (get p).toNat + 256 * readNum get (p + 1) n

/-- The bits of source element `n`: PAD outside the handle. -/
def srcRaw (t : Tile) (get : DWord → Byte) (n : Nat) : Nat :=
  let c := t.srcFmt
  match t.srcAddr n with
  | none => if c = 14 then (convert (.flt f32F) (.flt f64F) .rne 0 false t.pad).1 else t.pad % 2 ^ codeBits c
  | some (p, nib) => readNum get p (ceilDiv (codeBits c) 8) / 16 ^ nib % 2 ^ codeBits c

def srcScaleNum (t : Tile) (get : DWord → Byte) (b : List Nat) : Nat :=
  ((t.srcScale b).map fun p => readNum get p (scaleLen t.srcFmt)).getD 0

/-- The value of source element `n`; an outside element of a block format decodes to zero whatever its scale. -/
def srcValue (t : Tile) (get : DWord → Byte) (n : Nat) : FVal :=
  if isBlock t.srcFmt ∧ (t.srcAddr n).isNone then .fin false 0 0
  else elemValue t.srcFmt (t.srcRaw get n) (if isBlock t.srcFmt then t.srcScaleNum get (t.blockOf n) else 0)

/-- The bits of destination element `n` (20 R424): unchanged in one format, else converted. -/
def dstRaw (t : Tile) (get : DWord → Byte) (n : Nat) : Nat :=
  if t.hf = t.bf then t.srcRaw get n
  else if isBlock t.dstFmt then
    let b := t.blockOf n
    let k := (digits t.ext n)[t.bdim]?.getD 0 % 32
    ((quant t.dstFmt ((t.blockElems b).map (t.srcValue get))).2)[k]?.getD 0
  else match codeFmt t.srcFmt, codeFmt t.dstFmt with
    | some f, some g => (convert f g .rne 0 false (t.srcRaw get n)).1
    | _, _ => putValue t.dstFmt (t.srcValue get n)

/-- The scale bytes of a destination block. -/
def dstScale (t : Tile) (get : DWord → Byte) (b : List Nat) : Nat :=
  if t.hf = t.bf then t.srcScaleNum get b
  else (quant t.dstFmt ((t.blockElems b).map (t.srcValue get))).1

/-- What the source of element `n` reads: its bytes, those of its block and of its scale. -/
def needs (t : Tile) (n : Nat) : List (DWord × Nat) :=
  let own (k : Nat) : List (DWord × Nat) :=
    ((t.srcAddr k).map fun p => (p.1, ceilDiv (codeBits t.srcFmt) 8)).toList ++
      (if isBlock t.srcFmt ∧ t.hf ≠ t.bf then
        ((t.srcScale (t.blockOf k)).map fun p => (p, scaleLen t.srcFmt)).toList else [])
  if t.hf ≠ t.bf ∧ isBlock t.dstFmt then (t.blockElems (t.blockOf n)).flatMap own else own n

def scaleNeeds (t : Tile) (b : List Nat) : List (DWord × Nat) :=
  if t.hf = t.bf then ((t.srcScale b).map fun p => (p, scaleLen t.srcFmt)).toList
  else match t.blockElems b with
    | n :: _ => t.needs n
    | [] => []

end Tile
end Sys2Proof.Machine
end

