-- ==== Sys2Proof/Machine/SaveArea.lean ====
section
/-! DEFINITION. The layout of a save area and of a CSAVE image (05 R124, 09 R235, 13 R279, 19 R402, 21 R437, R438).
The layouts of loop-buffer state and of saved copy and table entries are not given: DESIGN CHOICE, log entry 14. -/

namespace Sys2Proof.Machine

/-- A run of bytes of registers of `n` bytes each. -/
def regBytes (n : Nat) (l : List Nat) : List Byte := l.flatMap (toBytes n)

/-- The record of a feed (13 R279); INQ and OUTQ are counts of its slot. -/
def feedRecord (f : Feed) (inq outq : Nat) : Nat :=
  f.state.toNat + f.wave.toNat * 2 ^ 2 + f.tag.toNat * 2 ^ 3 + f.stack.toNat * 2 ^ 8 + f.pch.toNat * 2 ^ 12 +
    f.slot.toNat * 2 ^ 18 + inq * 2 ^ 20 + outq * 2 ^ 25 + f.faddr.toNat * 2 ^ 64

/-- m0 of a remainder, with OFF or TILE advanced past the vectors consumed (09 R235). -/
def advancedM0 (e : MEntry) : Nat :=
  let lines := ceilDiv (ceilDiv (bits e.m0.toNat 42 30 * codeBits (bits e.fmt.toNat 3 0)) 8) 256
  e.m0.toNat + (if e.m0.getLsbD 0 then e.cursor * bits e.m0.toNat 54 43 * 64 * 64 else e.cursor * lines / 16 * 2)

/-- The 32 bytes of a saved matrix entry: of an MCALL, or of another command (09 R235, 19 R402). `word` is its command
word and `now` the context's issue cycle. -/
def entryBytes (e : MEntry) (word now : Nat) : List Byte :=
  let b4 := e.fx % 16 + 16 * e.rem.toNat + 32 * e.bd.toNat + 64 * e.half.toNat + 128 * e.loopOn.toNat
  match e.kind with
  | .mcall =>
    toBytes 4 word ++ toBytes 1 b4 ++ toBytes 1 e.loopCnt ++ toBytes 2 0 ++ toBytes 8 (advancedM0 e) ++
      toBytes 8 (e.m1.toNat % 4096 + (e.lambda - now) * 4096) ++ toBytes 8 e.m2.toNat
  | .mflip | .mswitch _ => toBytes 4 word ++ List.replicate 28 0
  | _ => toBytes 4 word ++ toBytes 4 e.m3.toNat ++ toBytes 8 e.m0.toNat ++ toBytes 8 e.m1.toNat ++ toBytes 8 e.m2.toNat

/-- Loop-buffer state: for each active level its start with the depth plus 1 in the low bits, and its end. -/
def loopBytes (l : List LoopLevel) : List Byte :=
  padTo 64 (l.flatMap fun x => toBytes 8 (x.start.toNat + x.depth + 1) ++ toBytes 8 x.last.toNat)

/-- The fixed part: bytes 0 to 0x1_CD3F. `feeds` are the feed records and `mode` the region-mode field. -/
def fixedPart (t : Ctx) (pc : DWord) (status : DWord) (feeds : List Nat) (mode : Nat) : List Byte :=
  let y := t.sys
  let r := t.regs
  regBytes 256 (r.line.toList.map (·.toNat)) ++ regBytes 256 (r.acc.toList.map (·.toNat)) ++
    regBytes 8 (0 :: (r.g.toList.drop 1).map (·.toNat)) ++ regBytes 8 (r.m.toList.map (·.toNat)) ++
    regBytes 8 (r.lc.toList.map (·.toNat)) ++ padTo 32 [r.k ||| 1] ++
    regBytes 32 ((BitVec.allOnes 256).toNat :: (r.q.toList.drop 1).map (·.toNat)) ++
    regBytes 8 (r.fmt.toList.map (·.toNat)) ++ regBytes 128 (r.shp.toList.map (·.toNat)) ++ regBytes 16 feeds ++
    regBytes 8 [pc.toNat, status.toNat, y.cause.toNat, y.epc.toNat, y.eva.toNat, y.tvec.toNat, y.fpflags.toNat,
      y.fpctl.toNat, y.rseed0.toNat, y.rseed1.toNat, y.wmk0.toNat, y.wmk1.toNat, y.tidn0.toNat, y.tidn1.toNat,
      y.fmtix.toNat, mode] ++
    loopBytes t.loops

/-- Offsets of the layout. -/
def feedOff : Nat := 0x1_CC00
def sysOff : Nat := 0x1_CC80
def loopOff : Nat := 0x1_CD00
def entriesOff : Nat := 0x1_CD40
def areaBytes : Nat := 131072

/-- `n` registers of `w` bytes from offset `o` of an image. -/
def imageRegs (b : Array Byte) (o w n : Nat) : List Nat :=
  (List.range n).map fun i => ofBytes ((List.range w).map fun j => (b[o + i * w + j]?).getD 0)

/-- System register number `i` in the order of the layout. -/
def imageSys (b : Array Byte) (i : Nat) : DWord := BitVec.ofNat 64 (((imageRegs b (sysOff + 8 * i) 8 1).head?).getD 0)

def vecOf {n w : Nat} (l : List Nat) : Vector (BitVec w) n := Vector.ofFn fun i => BitVec.ofNat w (l.getD i.val 0)

/-- What CLOAD restores into a context (21 R438). -/
def restoreImage (t : Ctx) (b : Array Byte) : Ctx :=
  let r := t.regs
  let y := t.sys
  let mode := imageSys b 15
  let dwc := imageSys b 1 &&& 0x18
  { t with
    regs := { r with
      line := vecOf (imageRegs b 0 256 384)
      acc := vecOf ((imageRegs b 0x1_8000 256 64).map (· % 2 ^ 1200))
      g := vecOf (imageRegs b 0x1_C000 8 64)
      m := vecOf (imageRegs b 0x1_C200 8 8)
      lc := vecOf (imageRegs b 0x1_C240 8 4)
      k := BitVec.ofNat 8 (((imageRegs b 0x1_C260 1 1).head?).getD 0)
      q := vecOf (imageRegs b 0x1_C280 32 8)
      fmt := vecOf (imageRegs b 0x1_C380 8 16)
      shp := vecOf (imageRegs b 0x1_C400 128 16) }
    sys := { y with
      epc := imageSys b 3 &&& ~~~0x1F, tvec := imageSys b 5 &&& ~~~0x1F, fpflags := imageSys b 6 &&& 0x1F
      fpctl := Ctx.mtsValue 0x011 y.fpctl (imageSys b 7), rseed0 := imageSys b 8, rseed1 := imageSys b 9
      status := Ctx.statusOf (mode.getLsbD 0) t.hnd t.pfixed dwc }
    locked := mode.getLsbD 1
    pc := imageSys b 0 }

/-- The loop levels in the bytes of `loopBytes`. -/
def imageLoops (b : Array Byte) : List LoopLevel :=
  (List.range 4).filterMap fun i =>
    match imageRegs b (loopOff + 16 * i) 8 2 with
    | [x, y] => if x % 32 = 0 then none else some { depth := x % 32 - 1, start := BitVec.ofNat 64 (x / 32 * 32), last := BitVec.ofNat 64 y }
    | _ => none

/-- The 32 bytes of saved entry `k` (05 R124), as numbers: the word, bytes 4 and 5, and the three copies. -/
def entryAt (b : Array Byte) (k : Nat) : Nat × Nat × Nat × List Nat :=
  let o := entriesOff + 32 * k
  let num (i n : Nat) : Nat := ((imageRegs b (o + i) n 1).head?).getD 0
  (num 0 4, num 4 1, num 5 1, [num 4 4, num 8 8, num 16 8, num 24 8])

/-- The command of a saved entry and its kind: an M-slot word that enters a stream (19 R402). The rt field of an MCALL is where
the routine starts or resumes (09 R235). -/
def savedCommand (w : Nat) (e : MEntry) : MEntry :=
  match decode .m (BitVec.ofNat 32 w) with
  | .ok (.mcall st rt f bd) => { e with cmd := .mcall st rt f bd, kind := .mcall, pc := rt.toNat }
  | .ok (.mload st) => { e with cmd := .mload st, kind := .mload }
  | .ok (.mreload st) => { e with cmd := .mreload st, kind := .mreload }
  | .ok (.mflip st l m) => { e with cmd := .mflip st l m, kind := .mflip }
  | .ok (.mswitch st l m d) => { e with cmd := .mswitch st l m d, kind := .mswitch (d == 1) }
  | _ => e

/-- A matrix entry as its saved bytes give it (09 R235, 19 R402); `now` is the issue cycle of the load. What the layout does
not hold comes from the strand's own record (DESIGN CHOICE, log entry 14). -/
def restoreEntry (b : Array Byte) (now k : Nat) (e : MEntry) : MEntry :=
  match entryAt b k with
  | (w, b4, b5, [m3, x0, x1, x2]) =>
    let e := savedCommand w e
    match e.kind with
    | .mcall =>
      let moved : Bool := x0 != advancedM0 e
      { e with
        rt := if bit b4 4 = 1 then e.rt else e.pc, fx := b4 % 16, rem := bit b4 4 == 1, bd := bit b4 5 == 1, half := bit b4 6 == 1
        loopOn := bit b4 7 == 1, loopCnt := b5
        m0 := if moved then BitVec.ofNat 64 x0 else e.m0, cursor := if moved then 0 else e.cursor
        m1 := BitVec.ofNat 64 (x1 % 4096), lambda := now + bits x1 43 12, m2 := BitVec.ofNat 64 x2 }
    | .mflip | .mswitch _ => e
    | .mload => { e with
        m3 := BitVec.ofNat 64 m3, m0 := BitVec.ofNat 64 x0, m1 := BitVec.ofNat 64 x1, m2 := BitVec.ofNat 64 x2
        rt := bits x1 11 0, len := bits x1 24 12 }
    | .mreload => { e with
        m3 := BitVec.ofNat 64 m3, m0 := BitVec.ofNat 64 x0, m1 := BitVec.ofNat 64 x1, m2 := BitVec.ofNat 64 x2 }
  | _ => e

/-- The landing cycles of calls whose entries have been loaded: REMAIN counts from the issue cycle of the load (09 R235). -/
def restoreClaims (qs : Vector MStream 4) (l : List MClaim) : List MClaim :=
  l.map fun k => match (qs.toList.flatMap (·.entries)).find? fun e => e.id == k.entry && e.kind == .mcall with
    | some e => { k with lambda := e.lambda }
    | none => k

/-- The streams of a saved context, entry after entry. -/
def restoreStreams (b : Array Byte) (t : Ctx) : Vector MStream 4 :=
  t.streams.mapFinIdx fun i q _ =>
    let before := (t.streams.toList.take i).foldl (fun n z => n + z.entries.length) 0
    { q with entries := q.entries.mapIdx fun k e => restoreEntry b t.issue (before + k) e }

/-- A feed as its record gives it (13 R279): what the record does not hold comes from the strand's own record. -/
def restoreFeed (x : Nat) (f : Feed) : Feed :=
  { f with
    state := BitVec.ofNat 2 x, wave := bit x 2 == 1, tag := BitVec.ofNat 4 (bits x 6 3), stack := BitVec.ofNat 4 (bits x 11 8)
    pch := BitVec.ofNat 6 (bits x 17 12), slot := BitVec.ofNat 2 (bits x 19 18), faddr := BitVec.ofNat 64 (bits x 127 64) }

/-- What a load restores from a save area (05 R126); Reserved bits of a register read zero (00 R6). -/
def restoreArea (t : Ctx) (b : Array Byte) : Ctx :=
  let mode := imageSys b 15
  let c := restoreImage t b
  let feeds := imageRegs b feedOff 16 8
  { c with
    regs := { c.regs with feed := c.regs.feed.mapFinIdx fun i f _ => restoreFeed (feeds.getD i 0) f }
    sys := {
      status := (imageSys b 1 &&& 0x1E) ||| (mode &&& 1), cause := imageSys b 2 &&& 0xF7FF, epc := imageSys b 3 &&& ~~~0x1F
      eva := imageSys b 4, tvec := imageSys b 5 &&& ~~~0x1F, fpflags := imageSys b 6 &&& 0x1F
      fpctl := Ctx.mtsValue 0x011 0 (imageSys b 7), rseed0 := imageSys b 8, rseed1 := imageSys b 9
      wmk0 := imageSys b 10 &&& 0x1_FFFF_FFFF, wmk1 := imageSys b 11 &&& 0x1_FFFF_FFFF
      tidn0 := imageSys b 12 &&& 0xFFFF_FFFF, tidn1 := imageSys b 13 &&& 0xFFFF_FFFF, fmtix := imageSys b 14 &&& 0xF }
    parkMet := mode.getLsbD 2
    streams := restoreStreams b t
    claims := restoreClaims (restoreStreams b t) t.claims
    loops := imageLoops b }

namespace State

/-- The feed records of a context: INQ and OUTQ of a single binding come from its slot, those of a wave binding from its list
and from the outputs of its instances. -/
def feedRecords (s : State) (t : Ctx) : List Nat :=
  t.regs.feed.toList.mapIdx fun n f =>
    let slots := s.units.flatMap fun u => (u.slots.filter fun p =>
      some p.2.age == t.strand && p.2.feed == n && !p.2.dying).map (·.2)
    let outq := slots.foldl (fun k b => k + b.output.length) 0
    let inq := if f.wave then f.list.length else slots.foldl (fun k b => k + b.input.length) 0
    feedRecord f (Nat.min 16 inq) (Nat.min 16 outq)

def statusOfCtx (s : State) (t : Ctx) (sess : Nat) : DWord := t.sys.status ||| (if s.isSystem sess then 0x20 else 0)

/-- A run of a session's space 0x0 lies in a page with MIG set: the device's own access waits too (04 R107). `fuel` bounds
the pages. -/
def migVa (s : State) (sess : Nat) : Nat → DWord → Nat → Bool
  | 0, _, _ => false
  | fuel + 1, va, n =>
    n != 0 &&
      (let m := runLength va n
       (match s.checkByte sess .engRead va with | .ok _ _ mig => mig | _ => false) ||
         migVa s sess fuel (va + BitVec.ofNat 64 m) (n - m))

/-- Bytes written to a session's space 0x0 by the device itself, page by page; unmapped pages take nothing. What a row operation on
its bank or an exchange of its page holds up waits, and what follows it too (13 R282, 04 R107). `fuel` bounds the pages. -/
def writeVa (s : State) (sess : Nat) : Nat → DWord → List Byte → State
  | 0, _, _ => s
  | fuel + 1, va, b =>
    if b = [] then s
    else
      let n := runLength va b.length
      let s := match s.checkByte sess .engRead va with
        | .ok _ (.here a) mig =>
          let p : Piece := { home := .here a, off := 0, len := n, va := va }
          if mig ∨ s.bankBusy p ∨ s.lateWrites.any (·.1 == sess) then { s with lateWrites := s.lateWrites ++ [(sess, va, b.take n)] }
          else (s.write a (b.take n)).heatOf sess [p]
        | _ => s
      writeVa s sess fuel (va + BitVec.ofNat 64 n) (b.drop n)

/-- The writes that were held up are made where they now can. -/
def flushLate (s : State) : State :=
  s.lateWrites.foldl (fun s w => s.writeVa w.1 2 w.2.1 w.2.2) { s with lateWrites := [] }

/-- The pieces of a session's space 0x0 that the device itself reads; none where a page is not on the device. -/
def piecesVa (s : State) (sess : Nat) : Nat → DWord → Nat → Nat → Option (List Piece)
  | 0, _, _, n => if n = 0 then some [] else none
  | fuel + 1, va, off, n =>
    if n = 0 then some []
    else
      let m := runLength va n
      match s.checkByte sess .engRead va with
      | .ok w (.here a) _ => (piecesVa s sess fuel (va + BitVec.ofNat 64 m) (off + m) (n - m)).map
          ({ home := .here a, off := off, len := m, va := va, win := w } :: ·)
      | _ => none

/-- Bytes that the device itself reads, with the errors that the read meets and its heat (03 R72, 04 R104). -/
def readVa (s : State) (sess : Nat) (va : DWord) (n : Nat) : Option (List Byte) × State :=
  match s.piecesVa sess 4 va 0 n with
  | some ps =>
    let s := (s.meetPieces sess ps).heatOf sess ps
    (some (s.gather n ps []), s)
  | none => (none, s)

/-- The address of a strand's save area (05 R133). -/
def areaVa (s : State) (t : Strand) : Option DWord :=
  match s.session? t.sess, t.area with
  | some z, some k => some (z.pool + BitVec.ofNat 64 (k * areaBytes))
  | _, _ => none

/-- The length of the fixed part of a strand's save area and its matrix entries. -/
def areaLen (t : Strand) : Nat := entriesOff + 32 * t.image.streams.toList.foldl (fun n q => n + q.entries.length) 0

/-- The save area of a strand stands in memory of the device. -/
def areaHere (s : State) (t : Strand) : Bool :=
  ((s.areaVa t).bind fun va => s.piecesVa t.sess 4 va 0 (areaLen t)).isSome

/-- The fixed part of a strand's save area and its matrix entries, where they stand in memory. -/
def areaImage (s : State) (t : Strand) : Option (List Byte) × State :=
  match s.areaVa t with
  | some va => s.readVa t.sess va (areaLen t)
  | none => (none, s)

/-- The save area of a strand cannot be reached now: it lies in a page that is being exchanged or in a bank whose row operation
runs, or a write to memory of its session is held up. -/
def areaMoves (s : State) (t : Strand) : Bool :=
  ((s.areaVa t).map fun va =>
    s.migVa t.sess 4 va areaBytes || ((s.piecesVa t.sess 4 va 0 areaBytes).getD []).any s.bankBusy).getD false ||
    s.lateWrites.any (·.1 == t.sess)

/-- A detached copy has advanced a watermark of a strand that is not resident, or a binding of it has failed: its save area
follows (05 R125, 13 R279, R285). -/
def saveMarks (s : State) (age : Nat) : State :=
  match s.strand? age with
  | none => s
  | some t =>
    if t.saved ∧ t.st ≠ .resident ∧ t.st ≠ .saving ∧ t.st ≠ .done then
      match s.areaVa t with
      | some va =>
        let feeds := s.feedRecords { t.image with strand := some age }
        (s.writeVa t.sess 2 (va + BitVec.ofNat 64 (sysOff + 80))
          (regBytes 8 [t.image.sys.wmk0.toNat, t.image.sys.wmk1.toNat])).writeVa t.sess 2 (va + BitVec.ofNat 64 feedOff)
          (regBytes 16 feeds)
      | none => s
    else s

end State
end Sys2Proof.Machine
end

