-- ==== Sys2Proof/Machine/Strands.lean ====
section
/-! DEFINITION. Strands and the dispatcher's shared operations: creation (05 R114 to R116, R128, 02 R44), priorities
(05 R117), save areas (05 R120, R133), halts (05 R118, R125), what a drain waits for (06 R146, 16 R350). -/

namespace Sys2Proof.Machine.State

/-- Strands that count in the pool: ready, parked, loading or being saved (05 R114). -/
def pooled (s : State) : Nat :=
  (s.strands.filter fun t => t.st != .resident && t.st != .done).length

def poolMax : Nat := 1_048_576

/-- The registers of a strand at its start: zero but for the fixed values and g1, g2, g3 (02 R44); WMK's reset value
stands in `Sys` (06 R156). -/
def startCtx (fixed : Bool) (pc g1 g2 g3 : DWord) : Ctx :=
  { regs := { g := ((Vector.replicate 64 (0 : DWord)).setIfInBounds 1 g1 |>.setIfInBounds 2 g2 |>.setIfInBounds 3 g3) },
    sys := { status := if fixed then 1 else 0 },
    pc := pc }

/-- A new strand takes the next age and is READY (05 R116, R118). -/
def newStrand (s : State) (launch sess core prio : Nat) (index : BitVec 32) (image : Ctx) : State :=
  let t : Strand := {
    age := s.ageCounter, launch := launch, sess := sess, index := index, core := core,
    prio := prio, readyAt := s.now, image := image }
  { s with strands := s.strands ++ [t], ageCounter := s.ageCounter + 1 }

/-- Effective priority (05 R117). -/
def effective (s : State) (t : Strand) : Nat :=
  if 120 ≤ t.prio then t.prio
  else match t.st with
    | .ready =>
      Nat.max t.prio (Nat.min (Nat.min (t.prio + (s.now - t.readyAt) / Config.ageEvery) (t.prio + 8)) 119)
    | .resident => t.eff
    | _ => t.prio

/-- Save areas of a session's pool (05 R133). -/
def areaCount (t : Session) : Nat :=
  (if t.peer then t.poolSize - 0x2000_0000 else t.poolSize) / 131072

/-- The save areas of a session that are in use. -/
def usedAreas (s : State) (t : Session) : List Nat :=
  s.strands.filterMap fun r => if r.sess = t.id ∧ r.st ≠ .done then r.area else none

def areaRoom (s : State) (t : Session) : Bool := decide ((s.usedAreas t).length < areaCount t)

/-- A free save area of a session for the strand of an age; the spec says not which (DESIGN CHOICE, log entry 10). -/
def freeArea (s : State) (age : Nat) (t : Session) : Option Nat :=
  let used := s.usedAreas t
  if s.areaRoom t then firstFree (Config.freeChoice 1 age s.now) (areaCount t) (used.length + 1) used.contains
  else none

/-- A free crew id, from 1 to 65,535; the spec says not which (05 R129; DESIGN CHOICE, log entry 10). -/
def freeCrew (s : State) (what n : Nat) : Option Nat :=
  (firstFree (Config.freeChoice what n s.now) 65535 (s.crews.length + 1) fun k => s.crews.any (·.id == k + 1)).map (· + 1)

/-- Free save areas of a session: POOLFREE (21 R439). -/
def freeAreas (s : State) (t : Session) : Nat :=
  areaCount t - (s.strands.filter fun r => r.sess == t.id && r.st != .done && r.area.isSome).length

/-- A READY strand that can be dispatched: it has a save area or its pool has a free one (05 R120). -/
def canDispatch (s : State) (t : Strand) : Bool :=
  t.st == .ready && (t.area.isSome || (s.session? t.sess).any s.areaRoom)

/-- The first of two strands in dispatch order: higher effective priority, then older (05 R120, R131). -/
def outranks (s : State) (t u : Strand) : Bool :=
  s.effective u < s.effective t || (s.effective u == s.effective t && t.age < u.age)

/-- The strand of a list that comes first in dispatch order. -/
def best (s : State) : List Strand → Option Strand
  | [] => none
  | t :: r => match best s r with
    | some u => some (if s.outranks t u then t else u)
    | none => some t

/-- The READY strand of a core that the dispatcher takes next (05 R120). -/
def nextReady (s : State) (core : Nat) : Option Strand :=
  s.best (s.strands.filter fun t => t.core == core && s.canDispatch t)

/-- The strand of a core that is RESIDENT in a context. -/
def residents (s : State) (core : Nat) : List Strand :=
  s.strands.filter fun t => t.core == core && t.st == .resident

/-- A halt for save begins (05 R118, R119, R125): the context drains, the strand is SAVING, and goes on to PARKED or
READY. Only a resident strand that has not issued EXIT is halted (16 R350). What the bundle at PC has asked of peer memory
is forgotten, since the bundle has not issued. -/
def startHalt (s : State) (c x : Nat) (park : Bool) : State :=
  match (s.ctx c x).strand with
  | some a =>
    if (s.ctx c x).exits then s
    else
      let gone := farTags (s.ctx c x)
      let s : State := { s with requests := s.requests.filter fun q => !gone.contains (q.link, q.tag) }
      (s.modCtx c x fun t => { t with st := .draining, halt := some park, since := some s.now, far := [], holds := [] }).modStrand
        a fun t => { t with st := .saving }
  | none => s

/-- A context whose wait has ended: it goes on to the next wait of its bundle, or is ISSUABLE, unless it drains (05 R119). -/
def resume (t : Ctx) : Ctx :=
  if t.wait2 ≠ .none then { t with wait := t.wait2, wait2 := .none }
  else
    { t with wait := .none, stalledFor := 0, since := if t.st = .draining then t.since else none,
             st := if t.st = .draining then .draining else .issuable }

/-- A context that ran last and has become ISSUABLE issues after a switch (05 R131). -/
def switchBack (s : State) (c x : Nat) (z : State) : State :=
  if (s.ctx c x).st ≠ .issuable ∧ (z.ctx c x).st = .issuable ∧ (z.core c).running = x then
    z.modCore c fun k => { k with switching := 2 }
  else z

/-! ## What drains -/

/-- The strand has a copy command queued, buffered, running or not completed, on any channel of the core. -/
def copying (s : State) (core age : Nat) : Bool :=
  (s.core core).chans.toList.any fun h =>
    h.queue.any (·.age == age) || h.buffer.any (·.age == age) ||
    (match h.running with | some r => r.cmd.age == age | none => false) ||
    h.beats.any (·.of.cmd.age == age) || h.finishing.any (·.1.age == age)

/-- A load of the context's table queue is queued or running (18 R383). -/
def tableBusy (s : State) (c x : Nat) : Bool :=
  (s.ctx c x).tableQ != [] ||
  (match (s.core c).tload with | some t => some t.age == (s.ctx c x).strand | none => false)

/-- A matrix entry of the context is queued or runs, a routine or a reload that it started included (09 R225). -/
def matrixBusy (s : State) (c x : Nat) : Bool :=
  (s.ctx c x).streams.toList.any (·.entries != []) ||
  (match (s.core c).unit with | some r => r.ctx == x && some r.entry.age == (s.ctx c x).strand | none => false) ||
  (s.core c).reloads.any fun r => some r.age == (s.ctx c x).strand

/-- A matrix entry of the context is unfinished, queued or started (09 R233). -/
def entryBusy (s : State) (c x : Nat) : Bool :=
  (s.ctx c x).streams.toList.any (·.entries != []) ||
  (match (s.core c).unit with | some r => r.ctx == x && some r.entry.age == (s.ctx c x).strand | none => false) ||
  (s.core c).reloads.any fun r => r.cmd.isSome && some r.age == (s.ctx c x).strand

/-- The context still waits for an access to give its value (06 R142). -/
def loading (c : Ctx) : Bool :=
  c.pend.any fun p => match p.due with | .access _ => true | _ => false

/-- A feed binding of the context has not resolved (20 R430). -/
def feedPending (c : Ctx) : Bool := c.regs.feed.toList.any (·.pending)

/-- What MODE waits for (06 R146): results, rows, streams, copies, TLOADs; an FWR is accepted when it issues. -/
def drained (s : State) (c x : Nat) : Bool :=
  let t := s.ctx c x
  t.pend == [] && !s.matrixBusy c x && !s.tableBusy c x && t.claims == [] &&
    !(match t.strand with | some a => s.copying c a | none => false) && t.repush0 == [] && t.repush1 == []

/-- Every access of the strand has performed (08 R199), or also been acknowledged (08 R201, system scope). -/
def performedAll (c : Ctx) : Bool := c.accesses.all (·.posted)
def acknowledgedAll (c : Ctx) : Bool := c.accesses == []

end Sys2Proof.Machine.State
end

