-- ==== Sys2Proof/Machine/Copy.lean ====
section
/-! DEFINITION. The copy commands at issue (20 R422 to R425) and the copy channels (12 R262 to R268, R272). -/

namespace Sys2Proof.Machine

/-! ## At issue -/

namespace State

/-- A re-push list of a channel waits for room in its queue, which it takes before any held bundle does (05 R126). -/
def repushWaits (s : State) (c h : Nat) : Bool :=
  (s.core c).ctxs.toList.any fun t => t.st != .draining && (if h = 1 then t.repush1 else t.repush0) != []

/-- A copy command enters its channel's queue with the next identifier; a full queue, or a re-push list that waits for
room, holds the bundle (12 R262, 05 R126). -/
def issueCopy (s : State) (kind : CopyKind) (c : BitVec 4) (p : BitVec 2) (dst src aux : DWord) (mode : Bool)
    (sh : BitVec 4) (time : Option Nat) : State :=
  let h := if s.curSlot = 7 then 1 else 0
  let y := s.cur.sys
  if (if h = 1 then s.cur.repush1 else s.cur.repush0) ≠ [] ∨ s.repushWaits s.curCore h ∨ 16 ≤ (s.chan s.curCore h).queue.length then s.outcome .held
  else
    let tid := (if h = 1 then y.tidn1 else y.tidn0).toNat % 2 ^ 32
    let (n, s) := s.nextSeq
    let cmd : CopyCmd := {
      kind := kind, age := s.curAge, sess := s.curSess, tid := tid, dst := dst, src := src, aux := aux, mode := mode,
      shape := s.cur.rshp sh.toNat, rel := { mask := 1 <<< c.toNat, scope := p, before := n }, issueCyc := s.cyc.toNat,
      time := time }
    let next := BitVec.ofNat 64 ((tid + 1) % 2 ^ 32)
    let s := s.modChan s.curCore h fun k => { k with queue := k.queue ++ [cmd] }
    s.modCur fun x => { x with sys := if h = 1 then { x.sys with tidn1 := next } else { x.sys with tidn0 := next } }

/-- g0 to g15, as the CC format names them. -/
def cg (s : State) (n : BitVec 4) : DWord := s.cur.rg (n.setWidth 6)

end State

def execCopy (c : BitVec 4) (p : BitVec 2) (a b h : BitVec 4) (s : State) : Out :=
  .next (s.issueCopy .copy c p (s.cg a) (s.cg b) 0 false h none)
def execCopyt (c : BitVec 4) (p : BitVec 2) (a b g h : BitVec 4) (s : State) : Out :=
  .next (s.issueCopy .copyt c p (s.cg a) (s.cg b) 0 false h (some (s.cg g).toNat))
def execCopyx (c : BitVec 4) (p : BitVec 2) (m : BitVec 1) (a b g h : BitVec 4) (s : State) : Out :=
  .next (s.issueCopy .copyx c p (s.cg a) (s.cg b) (s.cg g) (m == 1) h none)
def execCopyg (c : BitVec 4) (p : BitVec 2) (a b g h : BitVec 4) (s : State) : Out :=
  .next (s.issueCopy .copyg c p (s.cg a) (s.cg b) (s.cg g) false h none)
def execCopysa (c : BitVec 4) (p : BitVec 2) (m : BitVec 1) (a b g h : BitVec 4) (s : State) : Out :=
  .next (s.issueCopy .copysa c p (s.cg a) (s.cg b) (s.cg g) (m == 1) h none)

/-! ## Runs and beats (12 R265, R266) -/

/-- A row of consecutive elements of a tile on its destination side: first element, number, nibble of the first, and
address. -/
structure Row where
  start : Nat
  cnt : Nat
  nib : Nat
  dst : DWord
  deriving DecidableEq, Repr

namespace Row
def len (r : Row) (b : Nat) : Nat := ceilDiv (r.nib * 4 + r.cnt * b) 8
end Row

/-- What a run of a started command writes: bytes, at an address. -/
structure Run where
  dst : DWord
  len : Nat
  deriving DecidableEq, Repr

namespace CopyRun

def shape (r : CopyRun) : Nat := r.cmd.shape.toNat
def tile (r : CopyRun) : Tile := Tile.make r.shape r.handle r.record r.cmd.dst r.cmd.mode

/-- The number of the runs of the element phase. -/
def elemRuns (r : CopyRun) : Nat :=
  if r.cmd.kind = .copyx then (if r.tile.put then product r.tile.ext.tail else 1)
  else product (Shape.bounds r.shape).tail

def scaleRuns (r : CopyRun) : Nat :=
  if r.cmd.kind = .copyx ∧ isBlock r.tile.dstFmt then (if r.tile.put then product r.tile.blockExt.tail else 1) else 0

def runs (r : CopyRun) : Nat := r.elemRuns + r.scaleRuns

/-- Row `j` of a COPYX: a .put writes the part of a row that lies inside the handle, a .get the dense slice. -/
def tileRow (r : CopyRun) (j : Nat) : Row :=
  let t := r.tile
  if !t.put then ⟨0, t.count, 0, t.slice⟩
  else
    let e := t.ext.headD 1
    let ks := (List.range e).filter fun k => t.inside (j * e + k)
    match ks with
    | [] => ⟨j * e, 0, 0, t.base⟩
    | k :: _ => let (p, nib) := t.handleAddr (j * e + k); ⟨j * e + k, ks.length, nib, p⟩

/-- A row put in front of the first whose destination lies above its own. -/
def insertRow (w : Row) : List Row → List Row
  | [] => [w]
  | v :: l => if w.dst ≤ v.dst then w :: v :: l else v :: insertRow w l

/-- The rows in ascending destination order (04 R111). -/
def row (r : CopyRun) (j : Nat) : Row :=
  (((List.range r.elemRuns).map r.tileRow).foldr insertRow [])[j]?.getD ⟨0, 0, 0, 0⟩

/-- Row `j` of the scale array: first block, number, address. -/
def scaleRow (r : CopyRun) (j : Nat) : Row :=
  let t := r.tile
  if !t.put then ⟨0, product t.blockExt, 0, t.soff⟩
  else
    let e := t.blockExt.headD 1
    let ks := (List.range e).filter fun k => (t.handleScale (digits t.blockExt (j * e + k))).isSome
    match ks with
    | [] => ⟨j * e, 0, 0, t.scale⟩
    | k :: _ => ⟨j * e + k, ks.length, 0, (t.handleScale (digits t.blockExt (j * e + k))).getD 0⟩

/-- Offsets of run `i` over the strides of dimensions 1 and up. -/
def offsets (r : CopyRun) (i : Nat) : Int × Nat :=
  let ds := digits (Shape.bounds r.shape).tail i
  let x := r.index.getD 0
  match r.cmd.kind with
  | .copyg => ((x : Int) * Shape.sstride r.shape 1, i * Shape.dstride r.shape 1)
  | .copysa => ((i : Int) * Shape.sstride r.shape 1, x * Shape.dstride r.shape 1)
  | _ => ((ds.mapIdx fun d (k : Nat) => (k : Int) * Shape.sstride r.shape (d + 1)).foldl (· + ·) 0,
      (ds.mapIdx fun d k => k * Shape.dstride r.shape (d + 1)).foldl (· + ·) 0)

def srcOf (r : CopyRun) (i : Nat) : DWord := r.cmd.src + BitVec.ofInt 64 (r.offsets i).1

/-- What run `i` writes. -/
def runAt (r : CopyRun) (i : Nat) : Run :=
  if r.cmd.kind = .copyx then
    if i < r.elemRuns then ⟨(r.row i).dst, (r.row i).len (codeBits r.tile.dstFmt)⟩
    else ⟨(r.scaleRow (i - r.elemRuns)).dst, (r.scaleRow (i - r.elemRuns)).cnt * scaleLen r.tile.dstFmt⟩
  else ⟨r.cmd.dst + BitVec.ofNat 64 (r.offsets i).2, Shape.bound r.shape 0⟩

/-- The first run from `i` on that writes anything. -/
def skip (r : CopyRun) : Nat → Nat → Nat
  | 0, i => i
  | n + 1, i => if (r.runAt i).len = 0 then skip r n (i + 1) else i

/-- The length of the beat at `off` of a run: up to the next aligned 256-byte boundary of the destination. -/
def beatLen (u : Run) (off : Nat) : Nat := Nat.min (u.len - off) (256 - (u.dst.toNat + off) % 256)

/-- Whether byte `x` of a row of 4-bit elements holds a nibble that is not the row's. -/
def halfByte (w : Row) (b x : Nat) : Bool :=
  b == 4 && (decide (2 * x < w.nib) || decide (w.nib + w.cnt < 2 * x + 2))

/-- What a beat of `n` bytes reads: address and length (12 R266, 20 R424). -/
def beatNeeds (r : CopyRun) (n : Nat) : List (DWord × Nat) :=
  if r.cmd.kind = .copyx then
    let t := r.tile
    let b := codeBits t.dstFmt
    if r.run < r.elemRuns then
      let w := r.row r.run
      let first := (r.off * 8 - w.nib * 4) / b
      let last := Nat.min w.cnt (ceilDiv ((r.off + n) * 8 - w.nib * 4) b)
      ((List.range (last - first)).flatMap fun k => t.needs (w.start + first + k)) ++
        ((List.range n).filter fun k => halfByte w b (r.off + k)).map fun k => (w.dst + BitVec.ofNat 64 (r.off + k), 1)
    else
      let w := r.scaleRow (r.run - r.elemRuns)
      let l := scaleLen t.dstFmt
      (List.range (ceilDiv (r.off + n) l - r.off / l)).flatMap fun k =>
        t.scaleNeeds (digits t.blockExt (w.start + r.off / l + k))
  else [(r.srcOf r.run + BitVec.ofNat 64 r.off, n)]

/-- The bytes that a beat of `n` bytes writes, from a reader of what it reads. -/
def beatBytes (r : CopyRun) (n : Nat) (get : DWord → Byte) : List Byte :=
  if r.cmd.kind = .copyx then
    let t := r.tile
    let b := codeBits t.dstFmt
    if r.run < r.elemRuns then
      let w := r.row r.run
      (List.range n).map fun k =>
        let x := r.off + k
        if b = 4 then
          let nibble (h : Nat) : Nat :=
            if w.nib ≤ h ∧ h - w.nib < w.cnt then t.dstRaw get (w.start + (h - w.nib))
            else (get (w.dst + BitVec.ofNat 64 x)).toNat / 16 ^ (h % 2) % 16
          BitVec.ofNat 8 (nibble (2 * x) + 16 * nibble (2 * x + 1))
        else BitVec.ofNat 8 (t.dstRaw get (w.start + x / (b / 8)) / 256 ^ (x % (b / 8)))
    else
      let w := r.scaleRow (r.run - r.elemRuns)
      let l := scaleLen t.dstFmt
      (List.range n).map fun k =>
        let x := r.off + k
        BitVec.ofNat 8 (t.dstScale get (digits t.blockExt (w.start + x / l)) / 256 ^ (x % l))
  else (List.range n).map fun k => get (r.srcOf r.run + BitVec.ofNat 64 (r.off + k))

end CopyRun

/-- Consecutive reads made one; reads of the same bytes are made once where they follow each other. -/
def mergeReads : List (DWord × Nat) → List (DWord × Nat)
  | [] => []
  | (p, n) :: r => match mergeReads r with
    | (q, m) :: rest =>
      if (q - p).toNat ≤ n then (p, Nat.max n ((q - p).toNat + m)) :: rest else (p, n) :: (q, m) :: rest
    | [] => [(p, n)]

/-- Buffer offsets for reads. -/
def partsOf : Nat → List (DWord × Nat) → List Part
  | _, [] => []
  | o, (p, n) :: r => (p, o, n) :: partsOf (o + n) r

/-- The byte at a pointer, from the parts that were read into a buffer. -/
def bufferByte (parts : List Part) (buf : List Byte) (p : DWord) : Byte :=
  match parts.find? fun (q, _, n) => decide ((p - q).toNat < n) with
  | some (q, o, _) => buf.getD (o + (p - q).toNat) 0
  | none => 0

namespace State

/-! ## Strands and their registers wherever they are -/

/-- A strand's context while it is RESIDENT or SAVING, else its saved image, is changed (05 R125). -/
def modHome (s : State) (age : Nat) (f : Ctx → Ctx) : State :=
  match s.strand? age with
  | none => s
  | some t =>
    if t.st = .resident ∨ t.st = .saving then
      match s.ctxOf? t.core age with
      | some x => s.modCtx t.core x f
      | none => s
    else s.modStrand age fun t => { t with image := f t.image }

/-- The accesses of a strand wherever it is: of its context, or of its saved image, where posted ones wait for their
acknowledgements (08 R199, R211). -/
def homeCtx (s : State) (age : Nat) : Option Ctx :=
  (s.strand? age).map fun t => match s.ctxOf? t.core age with
    | some x => if t.st = .loading then t.image else s.ctx t.core x
    | none => t.image

/-- The accesses that a release waits for have performed at its scope (08 R205). -/
def releasedFor (s : State) (age : Nat) (r : Release) : Bool := ((s.homeCtx age).map fun t => released t r).getD true

/-- A write of a command waits for a read that its strand issued before it (08 R205). -/
def readsFirst (s : State) (age : Nat) (r : Release) (ps : List Piece) : Bool :=
  ((s.homeCtx age).map fun t => readFirst t r.before ps).getD false

/-- The strand drains or is saved, or a checkpoint quiesces: its unstarted entries do not advance (05 R125, 03 R79). -/
def stopped (s : State) (age : Nat) : Bool :=
  s.ckpt.isSome || ((s.strand? age).map fun t => t.st != .resident && t.st != .done).getD false

/-! ## The queue and the buffer (12 R262, R263) -/

/-- A command of the channel fails or finishes: its transfer awaits completion. -/
def finishCopy (s : State) (c h : Nat) (cmd : CopyCmd) (failed : Bool) : State :=
  s.modChan c h fun k => { k with finishing := k.finishing ++ [(cmd, failed)] }

/-- The head of the queue enters the time-sorted buffer and receives its start key; a COPYT too far ahead fails. -/
def bufferEntry (s : State) (c h : Nat) : State :=
  match (s.chan c h).queue with
  | [] => s
  | cmd :: rest =>
    if 32 ≤ (s.chan c h).buffer.length ∨ s.stopped cmd.age then s
    else
      let s := s.modChan c h fun k => { k with queue := rest }
      match cmd.time with
      | some t =>
        if cmd.issueCyc + 2 ^ 32 < t then s.finishCopy c h cmd true
        else s.modChan c h fun k => { k with buffer := k.buffer ++ [{ cmd with key := t }] }
      | none => s.modChan c h fun k => { k with buffer := k.buffer ++ [{ cmd with key := s.cyc.toNat }] }

/-- The buffered command that starts next: the least key, then the lower identifier in serial order. -/
def nextCopy (now : Nat) : List CopyCmd → Option CopyCmd
  | [] => none
  | c :: r => match nextCopy now r with
    | none => if c.key ≤ now then some c else none
    | some d =>
      if now < c.key then some d
      else if c.key < d.key ∨ (c.key = d.key ∧ (d.tid + 2 ^ 32 - c.tid) % 2 ^ 32 < 2 ^ 31) then some c else some d

/-- COPY_START: the rules of the shape, the index list and the tile (12 R265, 20 R424, R425). A COPYX starts at its turn
and reads its record in that cycle, or once its release lets it (12 R263, 08 R205; DEDUCED, log entry 29). -/
def copyStart (s : State) (c h : Nat) : State :=
  let k := s.chan c h
  match k.running, nextCopy s.cyc.toNat (k.buffer.filter fun d => !s.stopped d.age) with
  | none, some cmd =>
    let drop (s : State) : State := s.modChan c h fun k => { k with buffer := k.buffer.filter (· != cmd) }
    let begin_ (s : State) (r : CopyRun) : State := (drop s).modChan c h fun k => { k with running := some r }
    let fail (s : State) : State := (drop s).finishCopy c h cmd true
    match cmd.kind with
    | .copy | .copyt =>
      if Shape.ok cmd.shape.toNat true then begin_ s { cmd := cmd, started := s.now } else fail s
    | .copyg | .copysa =>
      if Shape.ok cmd.shape.toNat true && Shape.ndim cmd.shape.toNat == 2 && cmd.aux % 4 == 0 &&
          decide (bits cmd.aux.toNat 63 60 ≤ 1) then begin_ s { cmd := cmd, started := s.now }
      else fail s
    | .copyx =>
      if !Shape.ok cmd.shape.toNat false then fail s
      else if 1 < bits cmd.aux.toNat 63 60 ∨ cmd.aux % 32 ≠ 0 ∨ 65536 ≤ cmd.src.toNat then fail s
      else match s.handles.find? fun x => x.1 == cmd.sess && x.2.1 == cmd.src.toNat with
        | none => fail s
        | some (_, _, hd) => begin_ s { cmd := cmd, started := s.now, handle := hd }
  | _, _ => s

/-! ## Barrier reports (12 R272) -/

/-- The command's transfer reports nothing further. -/
def quiet (cmd : CopyCmd) (d : CopyCmd) : CopyCmd :=
  if d.age = cmd.age ∧ d.tid = cmd.tid then { d with shape := d.shape &&& ~~~8 } else d

/-- The transfer fails where it stands (12 R268): it performs no beat that has not issued, and with `drop` none that
has not performed. -/
def failCopy (s : State) (c h : Nat) (cmd : CopyCmd) (drop : Bool) : State :=
  let same (d : CopyCmd) : Bool := d.age == cmd.age && d.tid == cmd.tid
  s.modChan c h fun k =>
    let run := (k.running.map fun r => same r.cmd).getD false
    let mark (p : CopyCmd × Bool) : CopyCmd × Bool := if same p.1 then (p.1, true) else p
    { k with
      running := if run then none else k.running
      finishing := if run then k.finishing ++ [(cmd, true)] else k.finishing.map mark
      beats := if drop then k.beats.filter fun b => !same b.of.cmd || b.posted else k.beats }

/-- The barrier of a command, as a piece of slice memory. -/
def barPiece (cmd : CopyCmd) : Piece :=
  let x := cmd.shape.toNat
  { home := .here (sliceHome (Shape.barRank x) (Shape.barOffset x)), off := 0, len := 16, win := .slice }

/-- The command reports, and its barrier cannot be reached now: its macro has yet to change to storage mode, or the write
would add a granule (08 R210, 03 R78). -/
def barWaits (s : State) (cmd : CopyCmd) : Bool :=
  let x := cmd.shape.toNat
  Shape.brep x && decide (Shape.barRank x < s.ncores) && !(s.arr (Shape.barRank x) (arrIndex (Shape.barOffset x))).view &&
    (s.switching (barPiece cmd) || s.granuleHold [barPiece cmd])

/-- An update of the barrier of a command; one that may not be made fails the transfer, which reports no more. -/
def reportBar (s : State) (c h : Nat) (cmd : CopyCmd) (f : Nat → Nat) : State :=
  let x := cmd.shape.toNat
  let rank := Shape.barRank x
  let i := arrIndex (Shape.barOffset x)
  if !Shape.brep x then s
  else if s.ncores ≤ rank ∨ (s.arr rank i).view ∨ s.foreign cmd.sess .engWrite rank i then
    (s.failCopy c h cmd true).modChan c h fun k =>
      let hush (b : Beat) : Beat := { b with of := { b.of with cmd := quiet cmd b.of.cmd } }
      { k with finishing := k.finishing.map (fun p => (quiet cmd p.1, p.2)), beats := k.beats.map hush }
  else
    let p := sliceHome rank (Shape.barOffset x)
    let s := s.meetPieces cmd.sess [barPiece cmd]
    (s.writeNat p 16 (f (s.readNat p 16))).claimArrays cmd.sess [barPiece cmd]

/-! ## Beats (12 R264, R266, R268) -/

/-- The 32-byte record of an engine fault, and its EVENT (12 R268). -/
def engineFault (s : State) (sess c chan tid : Nat) (va : DWord) : State :=
  let b := toBytes 1 sess ++ toBytes 1 c ++ toBytes 1 chan ++ toBytes 1 0 ++ toBytes 4 tid ++ toBytes 8 va.toNat ++
    toBytes 8 s.cyc.toNat ++ toBytes 8 0
  s.event (((s.session? sess).map (·.port)).getD 1) 4 0 0 b

/-- A failed check of a beat: a translation fault suspends the command, any other fails it. -/
def beatDenied (s : State) (c h : Nat) (r : CopyRun) (d : Denied) : State :=
  if d.code = 0x06 then
    (s.modChan c h fun k => { k with running := some { r with suspended := some (s.now, d.eva) } }).engineFault
      r.cmd.sess c h r.cmd.tid d.eva
  else s.failCopy c h r.cmd false

def setRun (s : State) (c h : Nat) (r : CopyRun) : State := s.modChan c h fun k => { k with running := some r }

/-- The index of the row in hand (12 R266): read in ascending order. `none`: the beat does not issue now. -/
def rowIndex (s : State) (c h : Nat) (r : CopyRun) : State × Option CopyRun :=
  if (r.cmd.kind = .copyg ∨ r.cmd.kind = .copysa) ∧ r.index.isNone then
    let (ps, _, bad) := s.checkAccess r.cmd.sess .engRead (r.cmd.aux + BitVec.ofNat 64 (4 * r.run)) 4
    match bad with
    | some d => (s.beatDenied c h r d, none)
    | none =>
      if ps.any s.pieceWaits then (s, none)
      else match s.engineRead r.cmd.sess 4 r.src ps with
        | (.wait q, s) => (s.setRun c h { r with src := q }, none)
        | (.failed, s) => (s.failCopy c h r.cmd false, none)
        | (.bytes b, s) => (s.claimArrays r.cmd.sess ps, some { r with src := {}, index := some (ofBytes b) })
  else (s, some r)

/-- The tile record and the geometry (20 R424): read once, when the command has started and its release lets it. -/
def tileRecord (s : State) (c h : Nat) (r : CopyRun) : State × Option CopyRun :=
  if r.cmd.kind = .copyx ∧ r.record = [] then
    let (ps, _, bad) := s.checkAccess r.cmd.sess .engRead r.cmd.aux 32
    if bad.isSome then (s.failCopy c h r.cmd false, none)
    else if ps.any s.pieceWaits then (s, none)
    else match s.engineRead r.cmd.sess 32 r.src ps with
      | (.wait q, s) => (s.setRun c h { r with src := q }, none)
      | (.failed, s) => (s.failCopy c h r.cmd false, none)
      | (.bytes b, s) =>
        let r := { r with src := {}, record := b }
        if r.tile.ok r.shape r.handle then (s.claimArrays r.cmd.sess ps, some r)
        else (s.failCopy c h r.cmd false, none)
  else (s, some r)

/-- COPYSA's destinations, and its alignment rules (12 R266). -/
def addsOk (r : CopyRun) (dst : List Piece) : Bool :=
  r.cmd.kind != .copysa ||
    (let n := if r.cmd.mode then 2 else 4
     Shape.bound r.shape 0 % n == 0 && (r.srcOf r.run).toNat % n == 0 && (r.runAt r.run).dst.toNat % n == 0 &&
       dst.all fun p => match p.home with
         | .here a => decide (a < Config.hbmBytes) || (decide (capBase ≤ a) && decide (a < capBase + Config.capBytes))
         | _ => false)

/-- A beat reads bytes beyond the device that an earlier beat of the channel has yet to write there (12 R266). -/
def beatBefore (s : State) (c h : Nat) (src : List Piece) : Bool :=
  (s.chan c h).beats.any fun b => !b.posted && b.dst.any fun p => (farOf p.home).isSome && src.any (overlaps p)

/-- BEAT_ISSUE: the next beat of the running command, checked under 04 R85, its source and destination. A beat that waits
for granules goes when a checkpoint quiesces, and the command suspends behind it (03 R78, R79). -/
def beatIssue (s : State) (c h : Nat) : State :=
  match (s.chan c h).running with
  | none => s
  | some r0 =>
    if (s.ckpt.isSome ∧ !r0.held) ∨ r0.suspended.isSome ∨ ¬ s.releasedFor r0.cmd.age r0.cmd.rel then s
    else match s.tileRecord c h r0 with
      | (s, none) => s
      | (s, some r1) =>
        if s.now < r1.started + 8 ∨ (r1.lastBeat ≠ 0 ∧ s.now < r1.lastBeat + 2) then (if r1 = r0 then s else s.setRun c h r1)
        else match s.rowIndex c h r1 with
        | (s, none) => s
        | (s, some r2) =>
          let i := r2.skip (r2.runs - r2.run) r2.run
          let r := if i = r2.run then r2 else { r2 with run := i, off := 0 }
          if r.runs ≤ r.run then
            (s.modChan c h fun k => { k with running := none }).finishCopy c h r.cmd false
          else
            let u := r.runAt r.run
            let n := CopyRun.beatLen u r.off
            let (src, _, bad) := s.checkPartsFor r.cmd.sess .engRead false (partsOf 0 (mergeReads (r.beatNeeds n)))
            let (dst, _, bad') := s.checkPartsFor r.cmd.sess .engWrite false [(u.dst + BitVec.ofNat 64 r.off, 0, n)]
            let bad := match bad, bad' with
              | some x, some y => some (if x.rank ≤ y.rank then x else y)
              | some x, none => some x
              | none, y => y
            match bad with
            | some d => s.beatDenied c h r d
            | none =>
              if s.granuleHold dst then s.setRun c h { r with held := true }
              else if (src ++ dst).any s.pieceWaits ∨ s.beatBefore c h (cutPieces src) then s.setRun c h r
              else if !addsOk r dst then s.failCopy c h r.cmd false
              else
                let src := cutPieces src
                let (ask, s) := if src.all (fun p => (farOf p.home).isNone) then (({} : Src), s)
                  else let (ts, s) := s.askAll r.cmd.sess .engine src; ({ asked := true, tags := ts }, s)
                let (q, s) := s.nextSeq
                let bt : Beat := { of := r, src := src, dst := cutPieces dst, len := n, ask := ask, seq := q }
                let ends := decide (u.len ≤ r.off + n)
                let r' : CopyRun := { r with
                  run := if ends then r.run + 1 else r.run, off := if ends then 0 else r.off + n
                  index := if ends then none else r.index, lastBeat := s.now, held := false }
                let s := s.modChan c h fun k => { k with beats := k.beats ++ [bt] }
                if r'.runs ≤ r'.skip (r'.runs - r'.run) r'.run then
                  (s.modChan c h fun k => { k with running := none }).finishCopy c h r.cmd false
                else s.setRun c h r'

/-- The elements of a COPYSA beat added to the old ones (12 R266). -/
def addElems (bf : Bool) (old new : List Byte) : List Byte :=
  let f := if bf then bf16F else f32F
  let n := if bf then 2 else 4
  (List.range (new.length / n)).flatMap fun k =>
    let x := field old (n * k) n
    let y := field new (n * k) n
    toBytes n ((faddV .rne (f.decode x) (f.decode y)).put f .rne 0 false).1

/-- A beat leaves the channel and is reported (12 R272). -/
def beatDone (s : State) (c h : Nat) (b : Beat) : State :=
  (s.modChan c h fun k => { k with beats := k.beats.erase b }).reportBar c h b.of.cmd fun x => Bar.report x b.len

/-- BEAT_COMPLETE: a beat whose posted writes are acknowledged is done; else the first beat that has not performed
performs, where its source has come (12 R266, R267). -/
def beatComplete (s : State) (c h : Nat) : State :=
  let k := s.chan c h
  match k.beats.find? fun b => b.posted && b.acks.all fun q => s.acknowledged q.1 q.2 with
  | some b => if s.barWaits b.of.cmd then s else s.beatDone c h b
  | none => match k.beats.find? (!·.posted) with
    | none => s
    | some b =>
      let cmd := b.of.cmd
      if b.ask.asked ∧ !s.answered b.src b.ask.tags then s
      else if (b.ask.asked ∧ (s.refusedAt b.src b.ask.tags).isSome) ∨ (b.src ++ b.dst).any (s.foreignPiece cmd.sess) then
        (s.dropRequests b.src b.ask.tags).failCopy c h cmd true
      else if ¬ s.roomFor b.dst ∨ (b.src ++ b.dst).any (s.pieceWaitsAt b.seq) ∨
          (b.src ++ b.dst).any (s.portTaken cmd.sess) ∨ s.barWaits cmd ∨ s.readsFirst cmd.age cmd.rel b.dst then s
      else
        let s := s.meetPieces cmd.sess (if cmd.kind = .copysa then b.src ++ b.dst else b.src)
        let parts := partsOf 0 (mergeReads (b.of.beatNeeds b.len))
        let buf := s.gather (spanOf b.src) b.src b.ask.tags
        let new := b.of.beatBytes b.len (bufferByte parts buf)
        let new := if cmd.kind = .copysa then addElems cmd.mode (s.gather b.len b.dst []) new else new
        let s := s.dropRequests b.src b.ask.tags
        let (s, acks) := s.storePieces cmd.sess b.dst fun p => (new.drop p.off).take p.len
        let s := (s.claimArrays cmd.sess (b.src ++ b.dst)).heatOf cmd.sess (b.src ++ b.dst)
        if acks = [] then s.beatDone c h b
        else s.modChan c h fun k =>
          let post (d : Beat) : Beat := if d = b then { d with posted := true, acks := acks } else d
          { k with beats := k.beats.map post }

/-! ## Completion (12 R267) -/

/-- The watermark advances over completed identifiers. `fuel` bounds them. -/
def advance : Nat → Nat → DWord → DWord → List DoneXfer → DWord × List DoneXfer
  | 0, _, w, _, l => (w, l)
  | n + 1, h, w, tidn, l =>
    let next := (w.toNat + 1) % 2 ^ 32
    if next = tidn.toNat % 2 ^ 32 then (w, l)
    else match l.find? fun d => d.chan == h && d.tid == next with
      | none => (w, l)
      | some d =>
        let fail := bit w.toNat 32 == 1 || d.failed
        advance n h (BitVec.ofNat 64 (next + (if fail then 2 ^ 32 else 0))) tidn (l.erase d)

def completeXfer (c : Ctx) (h tid : Nat) (failed : Bool) : Ctx :=
  let l := c.doneXfers ++ [{ chan := h, tid := tid, failed := failed }]
  let y := c.sys
  if h = 1 then
    let (w, l) := advance l.length h y.wmk1 y.tidn1 l
    { c with doneXfers := l, sys := { y with wmk1 := w } }
  else
    let (w, l) := advance l.length h y.wmk0 y.tidn0 l
    { c with doneXfers := l, sys := { y with wmk0 := w } }

/-- TRANSFER_COMPLETE: the first transfer whose beats have all gone completes; a failed one poisons its barrier. -/
def transferDone (s : State) (c h : Nat) : State :=
  let k := s.chan c h
  let out (p : CopyCmd × Bool) : Bool := k.beats.all fun b => b.of.cmd.age != p.1.age || b.of.cmd.tid != p.1.tid
  match k.finishing.find? out with
  | none => s
  | some (cmd, failed) =>
    if failed ∧ s.barWaits cmd then s
    else
    let s := if failed then s.reportBar c h cmd Bar.poison else s
    let s := s.modChan c h fun k => { k with finishing := k.finishing.filter fun p => p.1.age != cmd.age || p.1.tid != cmd.tid }
    (s.modHome cmd.age fun x => completeXfer x h cmd.tid failed).saveMarks cmd.age

/-- The suspended commands of a session whose fault an operation decides: they resume, or fail (12 R269). -/
def resolveCopies (s : State) (sess : Nat) (f : DWord → Option Bool) : State :=
  (List.range 128).foldl (fun s c => (List.range 2).foldl (fun s h =>
    match (s.chan c h).running with
    | some r => match r.suspended with
      | some (_, va) =>
        if r.cmd.sess = sess then match f va with
          | some true => s.setRun c h { r with suspended := none }
          | some false => s.failCopy c h r.cmd false
          | none => s
        else s
      | none => s
    | none => s) s) s

end State

/-! ## Events of a channel: core and channel stand in the event's argument -/

def execBufferEntry (s : State) : Out := .next (s.bufferEntry s.arg.core s.arg.chan)
def execCopyStart (s : State) : Out := .next (s.copyStart s.arg.core s.arg.chan)
def execBeatIssue (s : State) : Out := .next (s.beatIssue s.arg.core s.arg.chan)
def execBeatComplete (s : State) : Out := .next (s.beatComplete s.arg.core s.arg.chan)
def execTransferComplete (s : State) : Out := .next (s.transferDone s.arg.core s.arg.chan)

end Sys2Proof.Machine
end

