-- ==== Sys2Proof/Machine/Scalar.lean ====
section
/-! DEFINITION. Scalar integer instructions (16 R331 to R339), latencies of 06 R145. -/

namespace Sys2Proof.Machine

/-- A scalar integer result from two operands, in latency `lat`. -/
def intOp (pn : BitVec 1) (pk : BitVec 3) (d : BitVec 6) (lat : Nat) (x : Ctx → DWord) (s : State) : Out :=
  scalar pn pk s fun s => s.putG d (x s.cur) lat

/-! ## Results (16 R331 to R335) -/

def shlR (a b : DWord) : DWord := if 64 ≤ b.toNat then 0 else a <<< b.toNat
def shrR (a b : DWord) : DWord := if 64 ≤ b.toNat then 0 else a >>> b.toNat
def sarR (a b : DWord) : DWord := a.sshiftRight (Nat.min b.toNat 64)
def rotlR (a b : DWord) : DWord := a.rotateLeft (b.toNat % 64)
def mulhR (a b : DWord) : DWord := BitVec.ofInt 64 (a.toInt * b.toInt / 2 ^ 64)
def mulhuR (a b : DWord) : DWord := BitVec.ofNat 64 (a.toNat * b.toNat / 2 ^ 64)
/-- Division truncates toward zero; its corners are 16 R333's. -/
def divR (a b : DWord) : DWord :=
  if b = 0 then BitVec.allOnes 64 else BitVec.ofInt 64 (a.toInt.tdiv b.toInt)
def divuR (a b : DWord) : DWord := if b = 0 then BitVec.allOnes 64 else BitVec.ofNat 64 (a.toNat / b.toNat)
def remR (a b : DWord) : DWord := if b = 0 then a else BitVec.ofInt 64 (a.toInt.tmod b.toInt)
def remuR (a b : DWord) : DWord := if b = 0 then a else BitVec.ofNat 64 (a.toNat % b.toNat)

/-- Zero bits above the highest one bit of `w` bits. -/
def clzN (w x : Nat) : Nat := if x = 0 then w else w - 1 - Nat.log2 x
/-- Zero bits below the lowest one bit of `w` bits. -/
def ctzN : Nat → Nat → Nat
  | 0, _ => 0
  | w + 1, x => if x % 2 = 1 then 0 else 1 + ctzN w (x / 2)
def popcN : Nat → Nat → Nat
  | 0, _ => 0
  | w + 1, x => x % 2 + popcN w (x / 2)
def brevN : Nat → Nat → Nat
  | 0, _ => 0
  | w + 1, x => x % 2 * 2 ^ w + brevN w (x / 2)
/-- The bytes of an `n`-byte value reversed. -/
def bswapN (n x : Nat) : Nat := ofBytes (toBytes n x).reverse

/-- EXTF (16 R335). -/
def extfR (a b : DWord) : DWord :=
  let p := bits b.toNat 5 0
  let w := Nat.min (bits b.toNat 14 8) (64 - p)
  let f := a.toNat / 2 ^ p % 2 ^ w
  if w = 0 then 0
  else if bit b.toNat 15 = 1 ∧ 2 ^ (w - 1) ≤ f then BitVec.ofInt 64 ((f : Int) - (2 ^ w : Nat))
  else BitVec.ofNat 64 f

/-- INSF (16 R335). -/
def insfR (a b : DWord) : DWord :=
  let p := bits b.toNat 5 0
  let w := Nat.min (Nat.min (bits b.toNat 14 8) (64 - p)) 32
  let v := b.toNat / 2 ^ 32 % 2 ^ w
  BitVec.ofNat 64 (a.toNat - a.toNat / 2 ^ p % 2 ^ w * 2 ^ p + v * 2 ^ p)

def minS (a b : DWord) : DWord := if a.slt b then a else b
def maxS (a b : DWord) : DWord := if a.slt b then b else a
def minU (a b : DWord) : DWord := if a.ult b then a else b
def maxU (a b : DWord) : DWord := if a.ult b then b else a

/-! ## Meanings -/

/-- NOP: no effect, no read port, no claim (15 R309). -/
def execNop (s : State) : Out := .next s

def execAdd (pn : BitVec 1) (pk : BitVec 3) (d a b : BitVec 6) (s : State) : Out :=
  intOp pn pk d 1 (fun c => c.rg a + c.rg b) s
def execSub (pn : BitVec 1) (pk : BitVec 3) (d a b : BitVec 6) (s : State) : Out :=
  intOp pn pk d 1 (fun c => c.rg a - c.rg b) s
def execAnd (pn : BitVec 1) (pk : BitVec 3) (d a b : BitVec 6) (s : State) : Out :=
  intOp pn pk d 1 (fun c => c.rg a &&& c.rg b) s
def execOr (pn : BitVec 1) (pk : BitVec 3) (d a b : BitVec 6) (s : State) : Out :=
  intOp pn pk d 1 (fun c => c.rg a ||| c.rg b) s
def execXor (pn : BitVec 1) (pk : BitVec 3) (d a b : BitVec 6) (s : State) : Out :=
  intOp pn pk d 1 (fun c => c.rg a ^^^ c.rg b) s
def execAndn (pn : BitVec 1) (pk : BitVec 3) (d a b : BitVec 6) (s : State) : Out :=
  intOp pn pk d 1 (fun c => c.rg a &&& ~~~c.rg b) s
/-- SEL: gd ← a when k[fn] is 1, else b (16 R336). -/
def execSel (pn : BitVec 1) (pk : BitVec 3) (d a b : BitVec 6) (f : BitVec 3) (s : State) : Out :=
  intOp pn pk d 1 (fun c => if c.rk f then c.rg a else c.rg b) s
def execShl (pn : BitVec 1) (pk : BitVec 3) (d a b : BitVec 6) (s : State) : Out :=
  intOp pn pk d 1 (fun c => shlR (c.rg a) (c.rg b)) s
def execShr (pn : BitVec 1) (pk : BitVec 3) (d a b : BitVec 6) (s : State) : Out :=
  intOp pn pk d 1 (fun c => shrR (c.rg a) (c.rg b)) s
def execSar (pn : BitVec 1) (pk : BitVec 3) (d a b : BitVec 6) (s : State) : Out :=
  intOp pn pk d 1 (fun c => sarR (c.rg a) (c.rg b)) s
def execRotl (pn : BitVec 1) (pk : BitVec 3) (d a b : BitVec 6) (s : State) : Out :=
  intOp pn pk d 1 (fun c => rotlR (c.rg a) (c.rg b)) s
def execMin (pn : BitVec 1) (pk : BitVec 3) (d a b : BitVec 6) (s : State) : Out :=
  intOp pn pk d 1 (fun c => minS (c.rg a) (c.rg b)) s
def execMax (pn : BitVec 1) (pk : BitVec 3) (d a b : BitVec 6) (s : State) : Out :=
  intOp pn pk d 1 (fun c => maxS (c.rg a) (c.rg b)) s
def execMinu (pn : BitVec 1) (pk : BitVec 3) (d a b : BitVec 6) (s : State) : Out :=
  intOp pn pk d 1 (fun c => minU (c.rg a) (c.rg b)) s
def execMaxu (pn : BitVec 1) (pk : BitVec 3) (d a b : BitVec 6) (s : State) : Out :=
  intOp pn pk d 1 (fun c => maxU (c.rg a) (c.rg b)) s
def execMul (pn : BitVec 1) (pk : BitVec 3) (d a b : BitVec 6) (s : State) : Out :=
  intOp pn pk d 3 (fun c => c.rg a * c.rg b) s
def execMulh (pn : BitVec 1) (pk : BitVec 3) (d a b : BitVec 6) (s : State) : Out :=
  intOp pn pk d 3 (fun c => mulhR (c.rg a) (c.rg b)) s
def execMulhu (pn : BitVec 1) (pk : BitVec 3) (d a b : BitVec 6) (s : State) : Out :=
  intOp pn pk d 3 (fun c => mulhuR (c.rg a) (c.rg b)) s
def execDiv (pn : BitVec 1) (pk : BitVec 3) (d a b : BitVec 6) (s : State) : Out :=
  intOp pn pk d 20 (fun c => divR (c.rg a) (c.rg b)) s
def execDivu (pn : BitVec 1) (pk : BitVec 3) (d a b : BitVec 6) (s : State) : Out :=
  intOp pn pk d 20 (fun c => divuR (c.rg a) (c.rg b)) s
def execRem (pn : BitVec 1) (pk : BitVec 3) (d a b : BitVec 6) (s : State) : Out :=
  intOp pn pk d 20 (fun c => remR (c.rg a) (c.rg b)) s
def execRemu (pn : BitVec 1) (pk : BitVec 3) (d a b : BitVec 6) (s : State) : Out :=
  intOp pn pk d 20 (fun c => remuR (c.rg a) (c.rg b)) s
def execClz (pn : BitVec 1) (pk : BitVec 3) (d a : BitVec 6) (s : State) : Out :=
  intOp pn pk d 1 (fun c => BitVec.ofNat 64 (clzN 64 (c.rg a).toNat)) s
def execCtz (pn : BitVec 1) (pk : BitVec 3) (d a : BitVec 6) (s : State) : Out :=
  intOp pn pk d 1 (fun c => BitVec.ofNat 64 (ctzN 64 (c.rg a).toNat)) s
def execPopc (pn : BitVec 1) (pk : BitVec 3) (d a : BitVec 6) (s : State) : Out :=
  intOp pn pk d 1 (fun c => BitVec.ofNat 64 (popcN 64 (c.rg a).toNat)) s
def execBrev (pn : BitVec 1) (pk : BitVec 3) (d a : BitVec 6) (s : State) : Out :=
  intOp pn pk d 1 (fun c => BitVec.ofNat 64 (brevN 64 (c.rg a).toNat)) s
def execBswap (pn : BitVec 1) (pk : BitVec 3) (d a : BitVec 6) (s : State) : Out :=
  intOp pn pk d 1 (fun c => BitVec.ofNat 64 (bswapN 8 (c.rg a).toNat)) s
def execExtf (pn : BitVec 1) (pk : BitVec 3) (d a b : BitVec 6) (s : State) : Out :=
  intOp pn pk d 1 (fun c => extfR (c.rg a) (c.rg b)) s
def execInsf (pn : BitVec 1) (pk : BitVec 3) (d a b : BitVec 6) (s : State) : Out :=
  intOp pn pk d 1 (fun c => insfR (c.rg a) (c.rg b)) s

/-! Immediate forms (16 R332): a signed immediate, extended by EXT; the shifts take an unsigned one. -/

def execAddi (pn : BitVec 1) (pk : BitVec 3) (d a : BitVec 6) (i : BitVec 9) (s : State) : Out :=
  intOp pn pk d 1 (fun c => c.rg a + immS s i) s
def execAndi (pn : BitVec 1) (pk : BitVec 3) (d a : BitVec 6) (i : BitVec 9) (s : State) : Out :=
  intOp pn pk d 1 (fun c => c.rg a &&& immS s i) s
def execOri (pn : BitVec 1) (pk : BitVec 3) (d a : BitVec 6) (i : BitVec 9) (s : State) : Out :=
  intOp pn pk d 1 (fun c => c.rg a ||| immS s i) s
def execXori (pn : BitVec 1) (pk : BitVec 3) (d a : BitVec 6) (i : BitVec 9) (s : State) : Out :=
  intOp pn pk d 1 (fun c => c.rg a ^^^ immS s i) s
def execShli (pn : BitVec 1) (pk : BitVec 3) (d a : BitVec 6) (i : BitVec 9) (s : State) : Out :=
  intOp pn pk d 1 (fun c => shlR (c.rg a) (i.zeroExtend 64)) s
def execShri (pn : BitVec 1) (pk : BitVec 3) (d a : BitVec 6) (i : BitVec 9) (s : State) : Out :=
  intOp pn pk d 1 (fun c => shrR (c.rg a) (i.zeroExtend 64)) s
def execSari (pn : BitVec 1) (pk : BitVec 3) (d a : BitVec 6) (i : BitVec 9) (s : State) : Out :=
  intOp pn pk d 1 (fun c => sarR (c.rg a) (i.zeroExtend 64)) s
/-- LI: the immediate (16 R337). -/
def execLi (pn : BitVec 1) (pk : BitVec 3) (d : BitVec 6) (i : BitVec 15) (s : State) : Out :=
  intOp pn pk d 1 (fun _ => immS s i) s
/-- LIH: the immediate × 2^24 (16 R337). -/
def execLih (pn : BitVec 1) (pk : BitVec 3) (d : BitVec 6) (i : BitVec 15) (s : State) : Out :=
  intOp pn pk d 1 (fun _ => immS s i <<< 24) s

/-! Compare and condition logic (16 R338, R339). -/

def execCmp (pn : BitVec 1) (pk d c : BitVec 3) (a b : BitVec 6) (s : State) : Out :=
  scalar pn pk s fun s => s.putK d (cond c (s.cur.rg a) (s.cur.rg b)) 1
def execCmpi (pn : BitVec 1) (pk d c : BitVec 3) (a : BitVec 6) (i : BitVec 9) (s : State) : Out :=
  scalar pn pk s fun s => s.putK d (cond c (s.cur.rg a) (immS s i)) 1
def execKop (pn : BitVec 1) (pk d a b f : BitVec 3) (s : State) : Out :=
  scalar pn pk s fun s => s.putK d (kopFn f (s.cur.rk a) (s.cur.rk b)) 1

/-- EXT: no effect of its own; its partner's immediate is extended (15 R312). -/
def execExt (_x : BitVec 25) (s : State) : Out := .next s

end Sys2Proof.Machine
end

