-- ==== Sys2Proof/Machine/Vector.lean ====
section
/-! DEFINITION. Vector instructions (17 R360 to R378), latencies of 17 R362. -/

namespace Sys2Proof.Machine

/-- A vector result in `lat`: byte j of vd takes the result's where bit j of q[q] is 1 (06 R137). -/
def vecOp (q : BitVec 3) (d : BitVec 6) (lat : Nat) (x : Ctx → Line) (s : State) : Out :=
  .next (s.putLine d.toNat (x s.cur) (s.cur.rq q) lat)

/-- Element-wise results of two sources, of one, and of two and the old destination. -/
def map2 (w : Nat) (f : Nat → Nat → Nat) (a b : Line) : Line := ofElems w (List.zipWith f (elems w a) (elems w b))
def map1 (w : Nat) (f : Nat → Nat) (a : Line) : Line := ofElems w ((elems w a).map f)
def map3 (w : Nat) (f : Nat → Nat → Nat → Nat) (a b d : Line) : Line :=
  ofElems w (List.zipWith (fun x (p : Nat × Nat) => f x p.1 p.2) (elems w a) ((elems w b).zip (elems w d)))

/-! ## Element results (17 R363, R365); the results are taken modulo 2^W by `ofElems` -/

/-- An element as a signed or unsigned integer. -/
def elemInt (w : Nat) (u : BitVec 1) (x : Nat) : Int := if u = 1 then (x : Int) else signed w x
/-- An integer clamped to the range of an element. -/
def satElem (w : Nat) (u : BitVec 1) (x : Int) : Nat :=
  unsigned w (satTo (intLo (u != 1) w) (intHi (u != 1) w) x).1
def vmulhE (w : Nat) (u : BitVec 1) (a b : Nat) : Nat := unsigned w (elemInt w u a * elemInt w u b / (2 ^ w : Nat))
def vminE (w : Nat) (u : BitVec 1) (a b : Nat) : Nat := if elemInt w u a < elemInt w u b then a else b
def vmaxE (w : Nat) (u : BitVec 1) (a b : Nat) : Nat := if elemInt w u a < elemInt w u b then b else a
def vabsE (w a : Nat) : Nat := unsigned w (signed w a).natAbs
def vnegE (w a : Nat) : Nat := unsigned w (-(a : Int))
def vshlE (w a n : Nat) : Nat := if w ≤ n then 0 else a * 2 ^ n
def vshrE (w a n : Nat) : Nat := if w ≤ n then 0 else a / 2 ^ n
def vsarE (w a n : Nat) : Nat := unsigned w (signed w a / (2 ^ (Nat.min n w) : Nat))
/-- The sum of four products of bytes, added to the old destination. -/
def vdot4E (u : BitVec 1) (a b d : Nat) : Nat :=
  unsigned 32 ((d : Int) + ([0, 1, 2, 3].map fun k =>
    elemInt 8 u (bits a (8 * k + 7) (8 * k)) * elemInt 8 u (bits b (8 * k + 7) (8 * k))).sum)

def vecInt2 (q : BitVec 3) (e : BitVec 2) (d a b : BitVec 6) (lat : Nat) (f : Nat → Nat → Nat → Nat) (s : State) : Out :=
  vecOp q d lat (fun c => map2 (ewidth e) (f (ewidth e)) (c.rv a) (c.rv b)) s
def vecInt1 (q : BitVec 3) (e : BitVec 2) (d a : BitVec 6) (f : Nat → Nat → Nat) (s : State) : Out :=
  vecOp q d 2 (fun c => map1 (ewidth e) (f (ewidth e)) (c.rv a)) s

def execVadd (q : BitVec 3) (e : BitVec 2) (d a b : BitVec 6) (s : State) : Out :=
  vecInt2 q e d a b 2 (fun _ x y => x + y) s
def execVsub (q : BitVec 3) (e : BitVec 2) (d a b : BitVec 6) (s : State) : Out :=
  vecInt2 q e d a b 2 (fun w x y => x + (2 ^ w - y)) s
def execVadds (q : BitVec 3) (e : BitVec 2) (d a b : BitVec 6) (u : BitVec 1) (s : State) : Out :=
  vecInt2 q e d a b 2 (fun w x y => satElem w u (elemInt w u x + elemInt w u y)) s
def execVsubs (q : BitVec 3) (e : BitVec 2) (d a b : BitVec 6) (u : BitVec 1) (s : State) : Out :=
  vecInt2 q e d a b 2 (fun w x y => satElem w u (elemInt w u x - elemInt w u y)) s
def execVmul (q : BitVec 3) (e : BitVec 2) (d a b : BitVec 6) (s : State) : Out :=
  vecInt2 q e d a b 5 (fun _ x y => x * y) s
def execVmulh (q : BitVec 3) (e : BitVec 2) (d a b : BitVec 6) (u : BitVec 1) (s : State) : Out :=
  vecInt2 q e d a b 5 (fun w x y => vmulhE w u x y) s
def execVdot4 (q : BitVec 3) (d a b : BitVec 6) (u : BitVec 1) (s : State) : Out :=
  vecOp q d 5 (fun c => map3 32 (vdot4E u) (c.rv a) (c.rv b) (c.rv d)) s
def execVmin (q : BitVec 3) (e : BitVec 2) (d a b : BitVec 6) (u : BitVec 1) (s : State) : Out :=
  vecInt2 q e d a b 2 (fun w x y => vminE w u x y) s
def execVmax (q : BitVec 3) (e : BitVec 2) (d a b : BitVec 6) (u : BitVec 1) (s : State) : Out :=
  vecInt2 q e d a b 2 (fun w x y => vmaxE w u x y) s
def execVabs (q : BitVec 3) (e : BitVec 2) (d a : BitVec 6) (s : State) : Out := vecInt1 q e d a vabsE s
def execVneg (q : BitVec 3) (e : BitVec 2) (d a : BitVec 6) (s : State) : Out := vecInt1 q e d a vnegE s
def execVpopc (q : BitVec 3) (e : BitVec 2) (d a : BitVec 6) (s : State) : Out := vecInt1 q e d a popcN s
def execVclz (q : BitVec 3) (e : BitVec 2) (d a : BitVec 6) (s : State) : Out := vecInt1 q e d a clzN s

/-! Logic on all bytes (17 R364). -/

def execVand (q : BitVec 3) (d a b : BitVec 6) (s : State) : Out := vecOp q d 2 (fun c => c.rv a &&& c.rv b) s
def execVor (q : BitVec 3) (d a b : BitVec 6) (s : State) : Out := vecOp q d 2 (fun c => c.rv a ||| c.rv b) s
def execVxor (q : BitVec 3) (d a b : BitVec 6) (s : State) : Out := vecOp q d 2 (fun c => c.rv a ^^^ c.rv b) s
def execVandn (q : BitVec 3) (d a b : BitVec 6) (s : State) : Out := vecOp q d 2 (fun c => c.rv a &&& ~~~c.rv b) s

/-! Shifts (17 R365). -/

def execVshl (q : BitVec 3) (e : BitVec 2) (d a b : BitVec 6) (s : State) : Out := vecInt2 q e d a b 2 vshlE s
def execVshr (q : BitVec 3) (e : BitVec 2) (d a b : BitVec 6) (s : State) : Out := vecInt2 q e d a b 2 vshrE s
def execVsar (q : BitVec 3) (e : BitVec 2) (d a b : BitVec 6) (s : State) : Out := vecInt2 q e d a b 2 vsarE s
def execVshli (q : BitVec 3) (e : BitVec 2) (d a : BitVec 6) (i : BitVec 8) (s : State) : Out :=
  vecInt1 q e d a (fun w x => vshlE w x i.toNat) s
def execVshri (q : BitVec 3) (e : BitVec 2) (d a : BitVec 6) (i : BitVec 8) (s : State) : Out :=
  vecInt1 q e d a (fun w x => vshrE w x i.toNat) s

/-! Compare, select, predicates (17 R366 to R368). -/

def execVcmp (q : BitVec 3) (e : BitVec 2) (c d : BitVec 3) (a b : BitVec 6) (s : State) : Out :=
  let w := ewidth e
  let l := List.zipWith (fun x y => cond c (BitVec.ofNat w x) (BitVec.ofNat w y)) (elems w (s.cur.rv a)) (elems w (s.cur.rv b))
  .next (s.putQ d (lanesOf w l) (s.cur.rq q) 2)

/-- VSEL: the q field selects and merges nothing. -/
def execVsel (q : BitVec 3) (d a b : BitVec 6) (s : State) : Out :=
  .next (s.putLine d.toNat (Ctx.mergeBytes (s.cur.rv b) (s.cur.rv a) (s.cur.rq q)) (BitVec.allOnes 256) 2)

def execQop (d a b : BitVec 3) (f : BitVec 2) (s : State) : Out :=
  let x := s.cur.rq a
  let y := s.cur.rq b
  let r := match f.toNat with | 0 => x &&& y | 1 => x ||| y | 2 => x ^^^ y | _ => x &&& ~~~y
  .next (s.putQ d r (BitVec.allOnes 256) 2)

/-- QFROMG: a mask of the first U(a) bytes. -/
def execQfromg (d : BitVec 3) (a : BitVec 6) (s : State) : Out :=
  .next (s.putQ d (BitVec.ofNat 256 (2 ^ Nat.min (s.cur.rg a).toNat 256 - 1)) (BitVec.allOnes 256) 2)

/-! ## Floating point (17 R369) -/

/-- The floating type of et. -/
def vtype (e : BitVec 2) : FFmt :=
  match e.toNat with | 0 => f16F | 1 => bf16F | 2 => f32F | _ => f64F

/-- A vector rounding code. -/
def Ctx.vecMode (c : Ctx) (f : BitVec 2) : RMode :=
  match f.toNat with | 0 => c.rm0 | 1 => .rne | 2 => .rtz | _ => .sto

/-- Per element: the draw, then the result of `f` on the values of va, vb and the old vd. -/
def fpElems (f : FFmt) (mode : RMode) (ftz : Bool) (g : FVal → FVal → FVal → FRes) :
    List Nat → List Nat → List Nat → List Nat → List (Nat × BitVec 5)
  | ds, a :: as, b :: bs, d :: rs =>
    (g (f.read ftz a) (f.read ftz b) (f.read ftz d)).put f mode (ds.headD 0) ftz :: fpElems f mode ftz g ds.tail as bs rs
  | _, _, _, _ => []

def vecFp (q : BitVec 3) (e : BitVec 2) (d a b : BitVec 6) (fn : BitVec 2) (lat : Nat)
    (g : RMode → FVal → FVal → FVal → FRes) (s : State) : Out :=
  let f := vtype e
  let c := s.cur
  let mode := c.vecMode fn
  let (ds, t) := s.drawsFor mode (2048 / f.w)
  let r := fpElems f mode c.ftz (g mode) ds (elems f.w (c.rv a)) (elems f.w (c.rv b)) (elems f.w (c.rv d))
  .next (t.putLine d.toNat (ofElems f.w (r.map (·.1))) (c.rq q) lat (orFlags (enabled f.w (c.rq q)) (r.map (·.2))))

def execVfadd (q : BitVec 3) (e : BitVec 2) (d a b : BitVec 6) (f : BitVec 2) (s : State) : Out :=
  vecFp q e d a b f 4 (fun m x y _ => faddV m x y) s
def execVfsub (q : BitVec 3) (e : BitVec 2) (d a b : BitVec 6) (f : BitVec 2) (s : State) : Out :=
  vecFp q e d a b f 4 (fun m x y _ => faddV m x y.neg) s
def execVfmul (q : BitVec 3) (e : BitVec 2) (d a b : BitVec 6) (f : BitVec 2) (s : State) : Out :=
  vecFp q e d a b f 5 (fun _ x y _ => fmulV x y) s
def execVfma (q : BitVec 3) (e : BitVec 2) (d a b : BitVec 6) (f : BitVec 2) (s : State) : Out :=
  vecFp q e d a b f 5 (fun m x y z => ffmaV m x y z) s
def execVfnma (q : BitVec 3) (e : BitVec 2) (d a b : BitVec 6) (f : BitVec 2) (s : State) : Out :=
  vecFp q e d a b f 5 (fun m x y z => ffmaV m x.neg y z) s

def vecMinMax (q : BitVec 3) (e : BitVec 2) (d a b : BitVec 6) (wantMax : Bool) (s : State) : Out :=
  let f := vtype e
  let c := s.cur
  let r := List.zipWith (fminmax f c.ftz wantMax) (elems f.w (c.rv a)) (elems f.w (c.rv b))
  .next (s.putLine d.toNat (ofElems f.w (r.map (·.1))) (c.rq q) 4 (orFlags (enabled f.w (c.rq q)) (r.map (·.2))))

def execVfmin (q : BitVec 3) (e : BitVec 2) (d a b : BitVec 6) (s : State) : Out := vecMinMax q e d a b false s
def execVfmax (q : BitVec 3) (e : BitVec 2) (d a b : BitVec 6) (s : State) : Out := vecMinMax q e d a b true s

def execVfcmp (q : BitVec 3) (e : BitVec 2) (c d : BitVec 3) (a b : BitVec 6) (s : State) : Out :=
  let f := vtype e
  let r := List.zipWith (fun x y =>
    let u := f.read s.cur.ftz x
    let v := f.read s.cur.ftz y
    (fcond c (fordV u v), if fcondInvalid c (u.isNan || v.isNan) (u.isSnan || v.isSnan) then fInvalid else 0))
    (elems f.w (s.cur.rv a)) (elems f.w (s.cur.rv b))
  .next (s.putQ d (lanesOf f.w (r.map (·.1))) (s.cur.rq q) 4 (orFlags (enabled f.w (s.cur.rq q)) (r.map (·.2))))

/-! ## Conversions (17 R370, R371) -/

def cvtMode1 (c : Ctx) (r : BitVec 2) : RMode := c.vecMode r
def cvtMode2 (r : BitVec 1) : RMode := if r = 0 then .rdn else .rup

/-- Per element a conversion with its draw. -/
def cvtElems (x y : EFmt) (mode : RMode) (ftz : Bool) : List Nat → List Nat → List (Nat × BitVec 5)
  | ds, a :: as => convert y x mode (ds.headD 0) ftz a :: cvtElems x y mode ftz ds.tail as
  | _, [] => []

/-- VCVT to format code `x` from `y`: as many elements as the wider holds; the bytes above them are zero. -/
def vcvt (q : BitVec 3) (mode : RMode) (d a : BitVec 6) (x y : BitVec 4) (s : State) : Out :=
  match codeFmt x.toNat, codeFmt y.toNat with
  | some dst, some src =>
    let c := s.cur
    let n := 2048 / Nat.max src.width dst.width
    let (ds, t) := if drawsPer src dst then s.drawsFor mode n else ([], s)
    let r := cvtElems dst src mode c.ftz ds ((elems src.width (c.rv a)).take n)
    .next (t.putLine d.toNat (ofElems dst.width (r.map (·.1))) (c.rq q) 4
      (orFlags (enabled dst.width (c.rq q)) (r.map (·.2))))
  | _, _ => .next (s.trap 0x0B)

def execVcvt1 (q : BitVec 3) (r : BitVec 2) (d a : BitVec 6) (x y : BitVec 4) (s : State) : Out :=
  vcvt q (cvtMode1 s.cur r) d a x y s
def execVcvt2 (q : BitVec 3) (r : BitVec 1) (d a : BitVec 6) (x y : BitVec 4) (s : State) : Out :=
  vcvt q (cvtMode2 r) d a x y s

/-- Per element a VCVTEF with its draw. -/
def efElems (x n : FFmt) (mode : RMode) (ftz : Bool) : List Nat → List Nat → List (Nat × Nat × BitVec 5)
  | ds, a :: as => convertEF x n mode (ds.headD 0) ftz a :: efElems x n mode ftz ds.tail as
  | _, [] => []

/-- VCVTEF: the narrowed values in vd, the residuals in vd + 1. An element enables its flags by the bytes of
either destination that it occupies. -/
def vcvtef (q : BitVec 3) (mode : RMode) (d a : BitVec 6) (x y : BitVec 4) (s : State) : Out :=
  match codeFmt x.toNat, codeFmt y.toNat with
  | some (.flt n), some (.flt src) =>
    if n.w < src.w then
      let c := s.cur
      let (ds, t) := s.drawsFor mode (2048 / src.w)
      let r := efElems src n mode c.ftz ds (elems src.w (c.rv a))
      let en := List.zipWith (· || ·) (enabled n.w (c.rq q)) (enabled src.w (c.rq q))
      let fl := orFlags en (r.map (·.2.2))
      .next ((t.putLine d.toNat (ofElems n.w (r.map (·.1))) (c.rq q) 4 fl).putLine (d.toNat + 1)
        (ofElems src.w (r.map (·.2.1))) (c.rq q) 4)
    else .next (s.trap 0x0B)
  | _, _ => .next (s.trap 0x0B)

def execVcvtef1 (q : BitVec 3) (r : BitVec 2) (d a : BitVec 6) (x y : BitVec 4) (s : State) : Out :=
  vcvtef q (cvtMode1 s.cur r) d a x y s
def execVcvtef2 (q : BitVec 3) (r : BitVec 1) (d a : BitVec 6) (x y : BitVec 4) (s : State) : Out :=
  vcvtef q (cvtMode2 r) d a x y s

/-! ## Reductions and scans (17 R372, R373) -/

/-- The fixed tree: element i meets element i + h, h halving. `fuel` bounds the halvings. -/
def tree (op : Nat → Nat → Nat × BitVec 5) : Nat → List Nat → BitVec 5 → Nat × BitVec 5
  | 0, l, fl => (l.headD 0, fl)
  | k + 1, l, fl =>
    let h := l.length / 2
    let r := List.zipWith op (l.take h) (l.drop h)
    tree op k (r.map (·.1)) (r.foldl (fun f x => f ||| x.2) fl)

/-- The prefix by doubling distances. -/
def scanTree (op : Nat → Nat → Nat × BitVec 5) : Nat → Nat → List Nat → BitVec 5 → List Nat × BitVec 5
  | 0, _, l, fl => (l, fl)
  | k + 1, d, l, fl =>
    let r := List.zipWith op (l.drop d) l
    scanTree op k (2 * d) (l.take d ++ r.map (·.1)) (r.foldl (fun f x => f ||| x.2) fl)

/-- Op of a sum and of a greater or lesser (17 R372): fn 0 integer or signed, 1 unsigned, 2 floating. -/
def sumOp (ftz : Bool) (e f : BitVec 2) (x y : Nat) : Nat × BitVec 5 :=
  if f = 2 then
    let t := vtype e
    (faddV .rne (t.read ftz x) (t.read ftz y)).put t .rne 0 ftz
  else ((x + y) % 2 ^ ewidth e, 0)

def extOp (ftz wantMax : Bool) (e f : BitVec 2) (x y : Nat) : Nat × BitVec 5 :=
  if f = 2 then fminmax (vtype e) ftz wantMax x y
  else
    let u : BitVec 1 := if f = 1 then 1 else 0
    (if wantMax then vmaxE (ewidth e) u x y else vminE (ewidth e) u x y, 0)

/-- The element width under an integer or a floating function. -/
def rwidth (e f : BitVec 2) : Nat := if f = 2 then (vtype e).w else ewidth e

def vreduce (q : BitVec 3) (d a : BitVec 6) (w : Nat) (op : Nat → Nat → Nat × BitVec 5) (s : State) : Out :=
  let n := 2048 / w
  let r := tree op (Nat.log2 n) (elems w (s.cur.rv a)) 0
  .next (s.putLine d.toNat (ofElems w (List.replicate n r.1)) (s.cur.rq q) 8 r.2)

def execVsum (q : BitVec 3) (e : BitVec 2) (d a : BitVec 6) (f : BitVec 2) (s : State) : Out :=
  vreduce q d a (rwidth e f) (sumOp s.cur.ftz e f) s
def execVrmax (q : BitVec 3) (e : BitVec 2) (d a : BitVec 6) (f : BitVec 2) (s : State) : Out :=
  vreduce q d a (rwidth e f) (extOp s.cur.ftz true e f) s
def execVrmin (q : BitVec 3) (e : BitVec 2) (d a : BitVec 6) (f : BitVec 2) (s : State) : Out :=
  vreduce q d a (rwidth e f) (extOp s.cur.ftz false e f) s

def execVscan (q : BitVec 3) (e : BitVec 2) (d a : BitVec 6) (f : BitVec 2) (s : State) : Out :=
  let w := rwidth e f
  let r := scanTree (sumOp s.cur.ftz e f) (Nat.log2 (2048 / w)) 1 (elems w (s.cur.rv a)) 0
  .next (s.putLine d.toNat (ofElems w r.1) (s.cur.rq q) 10 r.2)

/-! ## Permutation and moves (17 R374 to R377) -/

/-- Element i of the result is element `f i` of the source. -/
def pick (w : Nat) (f : Nat → Nat) (a : Line) : Line :=
  let x := a.toNat
  ofElems w ((List.range (2048 / w)).map fun i => x / 2 ^ (w * f i) % 2 ^ w)

def execVperm (q : BitVec 3) (e : BitVec 2) (d a b : BitVec 6) (s : State) : Out :=
  vecOp q d 4 (fun c =>
    let w := ewidth e
    let ix := c.rv b
    pick w (fun i => ix.toNat / 2 ^ (w * i) % 2 ^ w % (2048 / w)) (c.rv a)) s
def execVshuf (q : BitVec 3) (e : BitVec 2) (d a : BitVec 6) (i : BitVec 8) (s : State) : Out :=
  vecOp q d 3 (fun c => pick (ewidth e) (fun k => k ^^^ (i.toNat % (2048 / ewidth e))) (c.rv a)) s
def execVslide (q : BitVec 3) (e : BitVec 2) (d a : BitVec 6) (i : BitVec 8) (s : State) : Out :=
  vecOp q d 2 (fun c =>
    let n := 2048 / ewidth e
    pick (ewidth e) (fun k => (k + n - i.toNat % n) % n) (c.rv a)) s
def execVbcast (q : BitVec 3) (e : BitVec 2) (d a : BitVec 6) (s : State) : Out :=
  vecOp q d 2 (fun c => ofElems (ewidth e) (List.replicate (2048 / ewidth e) (c.rg a).toNat)) s
/-- VEXTR: an element to gd, which keeps its value where the element's lowest byte is disabled. -/
def execVextr (q : BitVec 3) (e : BitVec 2) (d a : BitVec 6) (i : BitVec 8) (s : State) : Out :=
  let w := ewidth e
  let x := (s.cur.rv a).toNat / 2 ^ (w * i.toNat) % 2 ^ w
  let on := (s.cur.rq q).getLsbD (i.toNat * elemBytes e)
  .next (s.push { dest := .g d.toNat, data := BitVec.ofNat 2048 x, mask := if on then 1 else 0, byLane := !on,
                  due := s.dueIn 3 })
def execVmovi (q : BitVec 3) (e : BitVec 2) (d : BitVec 6) (i : BitVec 8) (s : State) : Out :=
  vecOp q d 2 (fun _ => ofElems (ewidth e) (List.replicate (2048 / ewidth e) i.toNat)) s
def execVmov (q : BitVec 3) (d a : BitVec 6) (s : State) : Out := vecOp q d 2 (fun c => c.rv a) s
def execVtget (q : BitVec 3) (d t : BitVec 6) (l : BitVec 4) (s : State) : Out :=
  vecOp q d 2 (fun c => c.line (Ctx.tileLine t.toNat l.toNat)) s
def execVtset (q : BitVec 3) (t a : BitVec 6) (l : BitVec 4) (s : State) : Out :=
  .next (s.putLine (Ctx.tileLine t.toNat l.toNat) (s.cur.rv a) (s.cur.rq q) 2)
/-- VRDACC: accumulator row `a`, bit for bit in the layout of 09 R228. -/
def execVrdacc (q : BitVec 3) (d a : BitVec 6) (s : State) : Out := vecOp q d 4 (fun c => c.acc a.toNat) s

end Sys2Proof.Machine
end

