-- ==== Sys2Proof/Machine/Bank.lean ====
section
/-! DEFINITION. Feed registers, bank units and their routine set (13 R274 to R289, 20 R430, R431, 21 R440 to R445). -/

namespace Sys2Proof.Machine

/-! ## Lanes -/

namespace Lane
/-- Lane `i` of a 512-bit value (13 R274). -/
def get (x : BitVec 512) (i : Nat) : Nat := x.toNat / 2 ^ (32 * i) % 2 ^ 32
def all (x : BitVec 512) : List Nat := (List.range 16).map (get x)
def of (l : List Nat) : BitVec 512 := BitVec.ofNat 512 (l.foldr (fun v r => v % 2 ^ 32 + 2 ^ 32 * r) 0)
/-- The lanes whose bit is 1 take the new value (13 R288). -/
def merge (z : BitVec 16) (old new : BitVec 512) : BitVec 512 :=
  of ((List.range 16).map fun i => if z.getLsbD i then get new i else get old i)
def set (x : BitVec 512) (i v : Nat) : BitVec 512 := of ((List.range 16).map fun k => if k = i then v else get x k)
def map2 (f : Nat → Nat → Nat) (a b : BitVec 512) : BitVec 512 := of (List.zipWith f (all a) (all b))
end Lane

namespace BankSlot
/-- Codes 0 to 7 name w0 to w7, 8 to 15 a0 to a7 (21 R440). -/
def reg (b : BankSlot) (n : BitVec 4) : BitVec 512 :=
  if n.toNat < 8 then b.w[n.toNat]?.getD 0 else b.a[n.toNat - 8]?.getD 0
def setReg (b : BankSlot) (n : BitVec 4) (x : BitVec 512) : BankSlot :=
  if n.toNat < 8 then { b with w := b.w.setIfInBounds n.toNat x } else { b with a := b.a.setIfInBounds (n.toNat - 8) x }
/-- z0 reads all ones, and writes to it are discarded (13 R274). -/
def mask (b : BankSlot) (n : BitVec 2) : BitVec 16 := if n = 0 then 0xFFFF else b.z[n.toNat]?.getD 0
def setMask (b : BankSlot) (n : BitVec 2) (x : BitVec 16) : BankSlot :=
  if n = 0 then b else { b with z := b.z.setIfInBounds n.toNat x }
def put (b : BankSlot) (zm : BitVec 2) (n : BitVec 4) (x : BitVec 512) : BankSlot :=
  b.setReg n (Lane.merge (b.mask zm) (b.reg n) x)
def next (b : BankSlot) : BankSlot := { b with rc := b.rc + 1 }
end BankSlot

namespace State

def unit (s : State) (ch : Nat) : BankUnit := (s.units.find? (·.chan == ch)).getD { chan := ch }
def setUnit (s : State) (u : BankUnit) : State :=
  if s.units.any (·.chan == u.chan) then { s with units := s.units.map fun v => if v.chan = u.chan then u else v }
  else { s with units := s.units ++ [u] }
def modUnit (s : State) (ch : Nat) (f : BankUnit → BankUnit) : State := s.setUnit (f (s.unit ch))
def slot? (u : BankUnit) (k : Nat) : Option BankSlot := (u.slots.find? (·.1 == k)).map (·.2)
def modSlot (s : State) (ch k : Nat) (f : BankSlot → BankSlot) : State :=
  s.modUnit ch fun u => { u with slots := u.slots.map fun (i, b) => if i = k then (i, f b) else (i, b) }
/-- A binding's slot on a unit. -/
def bound? (u : BankUnit) (age feed : Nat) : Option (Nat × BankSlot) :=
  u.slots.find? fun (_, b) => b.age == age && b.feed == feed && !b.dying

/-- Every binding slot of a unit is taken. -/
def unitFull (u : BankUnit) : Bool := (List.range 4).all fun k => u.slots.any (·.1 == k)

/-- A free binding slot of a unit, from a free choice (13 R277; DESIGN CHOICE, log entry 10). -/
def freeSlot (u : BankUnit) (r : Nat) : Option Nat := firstFree r 4 4 fun k => u.slots.any (·.1 == k)

/-- A feed record of a strand; the save area of one that is away follows (13 R279, R285). -/
def modFeed (s : State) (age f : Nat) (g : Feed → Feed) : State :=
  (s.modHome age fun c => c.setFeed f (g (c.feed f))).saveMarks age

end State

/-! ## Targets and images (20 R430, 13 R275, 21 R442) -/

namespace Target
def kind (g : DWord) : Nat := bits g.toNat 1 0
def stack (g : DWord) : Nat := bits g.toNat 5 2
def pch (g : DWord) : Nat := bits g.toNat 11 6
def ok (g : DWord) : Bool :=
  kind g != 3 && bits g.toNat 63 12 == 0 && (decide (stack g < 12) || (kind g == 2 && stack g == 15)) &&
    (kind g != 2 || pch g == 0)
def stackNums (g : DWord) : List Nat := if stack g = 15 then List.range 12 else [stack g]
/-- The channels of the target, ascending. -/
def chans (g : DWord) : List Nat :=
  if kind g = 1 then [stack g * 64 + pch g] else (stackNums g).flatMap fun k => (List.range 64).map (k * 64 + ·)
end Target

/-- The header of an image: LEN and ID, where its Reserved bits are zero and LEN is in range (13 R275). -/
def imageLen (h : Nat) : Nat := bits h 8 0
def imageId (h : Nat) : Nat := bits h 31 16
def imageOk (h : Nat) : Bool :=
  decide (1 ≤ imageLen h) && decide (imageLen h ≤ 256) && bits h 15 9 == 0 && bits h 127 32 == 0

def isColumn : Instr → Bool
  | .bld .. | .bst .. => true
  | _ => false

/-- The first BLOOP after index `i` in store order, or the end (21 R445). -/
def skipTo (code : List Instr) (i : Nat) : Nat :=
  match ((code.drop (i + 1)).findIdx? fun j => match j with | .bloop .. => true | _ => false) with
  | some k => i + 1 + k
  | none => code.length

/-- The gap rule of 21 R442 from index `i`, `n` instructions after a column access. -/
def gapOk (code : List Instr) : Nat → Nat → Nat → Bool
  | 0, _, _ => false
  | k + 1, n, i =>
    match code[i]? with
    | none => true
    | some j => match j with
      | .bld .. | .bst .. | .bend => true
      | .bloop _ m => decide (n < 2) && gapOk code k (n + 1) (i + 1) && gapOk code k (n + 1) (i - m.toNat - 1)
      | .bskip => decide (n < 2) && gapOk code k (n + 1) (i + 1) && gapOk code k (n + 1) (skipTo code i)
      | _ => decide (n < 2) && gapOk code k (n + 1) (i + 1)

/-- The rules that refuse a routine (21 R442). -/
def routineOk (ws : List Word) : Bool :=
  let code := ws.filterMap fun w => (decode .bank w).toOption
  code.length == ws.length &&
    (code.mapIdx fun i j => match j with | .bloop _ m => decide (m.toNat + 1 ≤ i) | _ => true).all id &&
    (code.mapIdx fun i j => !isColumn j || gapOk code 4 0 (i + 1)).all id

/-- Frames that a routine of `n` instructions takes (13 R276). -/
def framesOf (n : Nat) : Nat := if n ≤ 64 then 1 else if n ≤ 128 then 2 else 4

namespace State

/-! ## The routine store of a unit (13 R276) -/

/-- A slot uses the routine, or an instance of a wave binding that is still to start on the unit will (DESIGN CHOICE, log
entry 68). -/
def usedBy (s : State) (u : BankUnit) (r : BankRoutine) : Bool :=
  (u.slots.any fun (_, b) => b.frame == r.frame) ||
    s.waves.any fun w => w.stack == u.chan / 64 && w.routine == r.id && w.sess == r.sess &&
      (decide (w.next ≤ u.chan % 64) || w.owed.contains (u.chan % 64))

/-- The lowest run of free frames aligned to its length. -/
def freeRun (u : BankUnit) (n : Nat) : Option Nat :=
  [0, 1, 2, 3].find? fun f => f % n == 0 && decide (f + n ≤ 4) &&
    u.routines.all fun r => decide (f + n ≤ r.frame) || decide (r.frame + r.frames ≤ f)

/-- Frames for a routine, evicting unused ones one at a time, the least recently bound first. `fuel` bounds them. -/
def makeRoom (used : BankRoutine → Bool) (n : Nat) : Nat → BankUnit → BankUnit × Option Nat
  | 0, u => (u, freeRun u n)
  | k + 1, u =>
    match freeRun u n with
    | some f => (u, some f)
    | none =>
      let idle := u.routines.filter (!used ·)
      match idle.find? fun r => idle.all fun q => decide (r.lastBound ≤ q.lastBound) with
      | some r => makeRoom used n k { u with routines := u.routines.filter (· != r) }
      | none => (u, none)

/-- The routine's first frame on a unit: the resident one of the same ID and session, or fresh frames that the words
are written to. -/
def loadRoutine (s : State) (ch sess id : Nat) (ws : List Word) : State × Option Nat :=
  let u := s.unit ch
  let u := { u with clock := u.clock + 1 }
  match u.routines.find? fun r => r.id == id && r.sess == sess with
  | some r =>
    let fresh (q : BankRoutine) : BankRoutine := if q = r then { q with lastBound := u.clock } else q
    (s.setUnit { u with routines := u.routines.map fresh }, some r.frame)
  | none =>
    let n := framesOf ws.length
    match makeRoom (s.usedBy u) n 4 u with
    | (u, none) => (s.setUnit u, none)
    | (u, some f) =>
      let r : BankRoutine := ⟨f, n, id, sess, ws.length, u.clock⟩
      ((s.setUnit { u with routines := u.routines ++ [r] }).write (bankStoreHome ch (f * 64))
        (ws.flatMap fun w => toBytes 4 w.toNat), some f)

/-- A new instance on a free slot of a unit (13 R274). -/
def startInstance (s : State) (ch age feed sess frame len : Nat) (arg : DWord) (wave : Bool) : State × Option Nat :=
  match freeSlot (s.unit ch) (Config.freeChoice 2 (age * 8 + feed) (s.now * 1024 + ch)) with
  | none => (s, none)
  | some k =>
    let w0 := Lane.of [bits arg.toNat 31 0, bits arg.toNat 63 32, ch]
    let b : BankSlot := { age := age, feed := feed, sess := sess, frame := frame, len := len, wave := wave }
    let b := { b with w := b.w.setIfInBounds 0 w0 }
    (s.modUnit ch fun u => { u with slots := u.slots ++ [(k, b)] }, some k)

end State

/-! ## FBIND, FWR, FRD (20 R430, R431, 13 R277, R278) -/

/-- FBIND: the old binding is released, the record is written; BINDING_RESOLVE resolves it. -/
def execFbind (f : BitVec 3) (t : BitVec 4) (a b g : BitVec 6) (s : State) : Out :=
  let target := s.cur.rg a
  let rec_ : Feed := {
    tag := t, wave := Target.kind target == 2, stack := BitVec.ofNat 4 (Target.stack target)
    pch := BitVec.ofNat 6 (Target.pch target), pending := Target.kind target != 0 || !Target.ok target
    image := s.cur.rg b, arg := s.cur.rg g, target := target, relBefore := s.seq }
  .next ((s.releaseFeed s.curAge (some f.toNat)).modCur fun c => c.setFeed f.toNat rec_)

namespace State

/-- The checks of FWR and FRD, and the hold while the binding is pending. `dry`: FRD of a binding whose output is
empty. -/
def feedOp (s : State) (f : BitVec 3) (t : BitVec 4) (dry : Bool) (k : State → Feed → State) : State :=
  let r := s.cur.feed f.toNat
  if r.pending then s.outcome .held
  else if r.state = 0 ∨ r.state = 2 ∨ r.tag ≠ t ∨ (r.state = 3 ∧ dry) then s.trapWith 0x15 0 r.faddr
  else k s r

/-- The unit whose result a binding's FRD pops next: its head result, or nothing yet (13 R278). Instances of a wave
are asked in ascending channel order; one that has ended with nothing left is passed over. -/
def headResult (s : State) (age feed : Nat) : List Nat → Option (Nat × Nat × DWord)
  | [] => none
  | ch :: r => match bound? (s.unit ch) age feed with
    | none => none
    | some (k, b) => match b.output with
      | x :: _ => some (ch, k, x)
      | [] => if b.ended then headResult s age feed r else none

end State

def execFwr (f : BitVec 3) (t : BitVec 4) (a : BitVec 6) (s : State) : Out :=
  let v := s.cur.rg a
  .next (s.feedOp f t false fun s r =>
    if r.wave then
      if 16 ≤ r.list.length then s.modCur fun c => c.setFeed f.toNat { r with state := 3 }
      else s.modCur fun c => c.setFeed f.toNat { r with list := r.list ++ [(v, s.seq)] }
    else
      let ch := r.stack.toNat * 64 + r.pch.toNat
      match State.bound? (s.unit ch) s.curAge f.toNat with
      | none => s
      | some (k, b) =>
        if 16 ≤ b.input.length then s.outcome .held
        else s.modSlot ch k fun b => { b with input := b.input ++ [(v, s.seq)] })

def execFrd (f : BitVec 3) (t : BitVec 4) (a : BitVec 6) (s : State) : Out :=
  let chs := Target.chans (s.cur.feed f.toNat).target
  let hd := s.headResult s.curAge f.toNat chs
  let dry := chs.all fun ch => ((State.bound? (s.unit ch) s.curAge f.toNat).map fun p => p.2.output == []).getD true
  .next (s.feedOp f t dry fun s _ =>
    match hd with
    | none => s.outcome (.blocked false)
    | some (ch, k, x) => (s.modSlot ch k fun b => { b with output := b.output.tail }).putG a x 2)

/-! ## BINDING_RESOLVE (13 R276, R277) -/

namespace State

def refuse (s : State) (age f : Nat) : State := s.modFeed age f fun r => { r with state := 2, pending := false, src := {} }

/-- The routine is in every unit of the target: the binding takes its slots. -/
def bindAll (s : State) (age f sess id : Nat) (ws : List Word) : State :=
  let r := s.feedOf age f
  let chs := Target.chans r.target
  if Target.kind r.target = 1 ∧ chs.any (fun ch => unitFull (s.unit ch)) then s.refuse age f
  else
    let (s, frames) := chs.foldl (fun (s, l) ch => let (s, o) := s.loadRoutine ch sess id ws; (s, l ++ [(ch, o)])) (s, [])
    if frames.any (·.2.isNone) then s.refuse age f
    else match Target.kind r.target, frames with
      | 1, (ch, some fr) :: _ =>
        let len := ((s.unit ch).routines.find? (·.frame == fr)).elim 0 (·.len)
        let (s, k) := s.startInstance ch age f sess fr len r.arg false
        s.modFeed age f fun r => { r with state := 1, pending := false, slot := BitVec.ofNat 2 (k.getD 0), src := {} }
      | _, _ =>
        let ws := (Target.stackNums r.target).map fun k => ({
          age := age, feed := f, stack := k, sess := sess, arg := r.arg, routine := id } : Wave)
        { s with waves := s.waves ++ ws }.modFeed age f fun r => { r with state := 1, pending := false, src := {} }

/-- A read of the image for a binding: a failed check refuses it. -/
def imageRead (s : State) (age f sess off n : Nat) (k : State → List Byte → State) : State :=
  let r := s.feedOf age f
  let (ps, _, bad) := s.checkRange sess .engRead (n / 256 + 2) (r.image + BitVec.ofNat 64 off) 0 n
  if bad.isSome then s.refuse age f
  else if ps.any s.pieceWaits then s
  else match s.engineRead sess n r.src ps with
    | (.wait q, s) => s.modFeed age f fun r => { r with src := q }
    | (.failed, s) => s.refuse age f
    | (.bytes b, s) => k ((s.claimArrays sess ps).modFeed age f fun r => { r with src := {} }) b

/-- BINDING_RESOLVE: once the release of the feed's old binding is over, the image is read, if it has to be, and the binding
takes its slots or is refused. -/
def bindingResolve (s : State) (c x f : Nat) : State :=
  match (s.ctx c x).strand with
  | none => s
  | some age =>
    let r := (s.ctx c x).feed f
    let sess := ((s.strand? age).map (·.sess)).getD 0
    let stopping : Bool := s.units.any fun u => u.slots.any fun p => p.2.dying && p.2.age == age && p.2.feed == f
    if !r.pending ∨ stopping ∨ ¬ released (s.ctx c x) { mask := 0xFFFF, scope := 1, before := r.relBefore } then s
    else if !Target.ok r.target ∨ 1 < bits r.image.toNat 63 60 ∨ r.image % 64 ≠ 0 then s.refuse age f
    else
      let body (s : State) (h : Nat) : State :=
        if !imageOk h then s.refuse age f
        else if (Target.chans r.target).all fun ch =>
            (s.unit ch).routines.any fun q => q.id == imageId h && q.sess == sess then
          s.bindAll age f sess (imageId h) []
        else s.imageRead age f sess 16 (4 * imageLen h) fun s b =>
          let ws := (List.range (imageLen h)).map fun i => BitVec.ofNat 32 (field b (4 * i) 4)
          if routineOk ws then s.bindAll age f sess (imageId h) ws else s.refuse age f
      match r.hdr with
      | some h => body s h
      | none => s.imageRead age f sess 0 16 fun s b =>
          body (s.modFeed age f fun r => { r with hdr := some (ofBytes b) }) (ofBytes b)

/-! ## Waves (13 R286) -/

/-- An instance of a wave starts, or waits for a free slot. -/
def waveInstance (s : State) (w : Wave) (p : Nat) : State × Bool :=
  let ch := w.stack * 64 + p
  match (s.unit ch).routines.find? fun r => r.id == w.routine && r.sess == w.sess with
  | none => (s, true)
  | some r =>
    let (s, k) := s.startInstance ch w.age w.feed w.sess r.frame r.len w.arg true
    (s, k.isSome)

/-- Every instance of the wave in progress has reached BEND. -/
def waveOver (s : State) (w : Wave) : Bool :=
  w.owed == [] && w.members.all fun p =>
    match bound? (s.unit (w.stack * 64 + p)) w.age w.feed with | some (_, b) => b.ended | none => true

/-- What a stack's wave can do now: an owed instance finds a slot, or the next wave starts. -/
def waveStep (s : State) (w : Wave) : Option (State × Wave) :=
  match w.owed.find? fun p => !unitFull (s.unit (w.stack * 64 + p)) with
  | some p => some ((s.waveInstance w p).1, { w with owed := w.owed.filter (· != p) })
  | none =>
    if s.waveOver w ∧ w.next < 64 then
      let l := s.stackLimit[w.stack]?.getD 64
      let ps := (List.range (Nat.min l (64 - w.next))).map (w.next + ·)
      let (s, owed) := ps.foldl (fun (s, o) p => let (s, ok) := s.waveInstance w p; (s, if ok then o else o ++ [p])) (s, [])
      some (s, { w with next := w.next + ps.length, members := ps, owed := owed })
    else none

/-- WAVE_START: the first wave that can go on does. -/
def waveStart (s : State) : State :=
  match s.waves.findSome? fun w => (s.waveStep w).map fun r => (w, r) with
  | none => s
  | some (w, s', w') => { s' with waves := s'.waves.map fun v => if v = w then w' else v }

/-! ## The instructions of a unit: the unit in hand is `curChan`'s, the slot its running one (21 R443 to R445) -/

/-- The running slot of the unit in hand, with its number. -/
def runSlot (s : State) : Option (Nat × BankSlot) :=
  let u := s.unit s.curChan
  u.cur.bind fun k => (slot? u k).map fun b => (k, b)

/-- A row boundary: the row operation ends, with the guaranteed slot that it held, and the unit chooses again; a released
instance stops (13 R280, R281, R284). -/
def boundary (s : State) : State :=
  s.modUnit s.curChan fun u =>
    { u with
      rowOp := none, closeAt := none, guaranteed := u.guaranteed.filter fun g => u.cur != some g.1
      lastSlot := u.cur.getD u.lastSlot, cur := none
      slots := u.slots.filter fun (_, b) => !b.dying }

/-- The instance ends: its slot and its output stay until the release (21 R445). -/
def endInstance (s : State) (k : Nat) : State := (s.modSlot s.curChan k fun b => { b with ended := true }).boundary

/-- A failed check of a column access: the binding is FAILED, with FADDR (13 R285, 21 R444); a released one is no longer
its feed's. -/
def failInstance (s : State) (k : Nat) (b : BankSlot) (faddr : DWord) : State :=
  (if b.dying then s else s.modFeed b.age b.feed fun r => { r with state := 3, faddr := faddr }).endInstance k

/-- An effect on the running slot, which then goes to the next instruction. -/
def bankStep (s : State) (f : BankSlot → BankSlot) : State :=
  match s.runSlot with
  | none => s
  | some (k, _) => s.modSlot s.curChan k fun b => (f b).next

/-- The unit address of a column access, and its pointer (21 R444). -/
def columnU (b : BankSlot) (a : BitVec 4) (m : BitVec 10) : Nat :=
  unsigned 32 ((Lane.get (b.reg a) 0 : Int) + m.toInt)
def columnPtr (ch u : Nat) : DWord :=
  BitVec.ofNat 64 (2 * 2 ^ 60 + ch / 64 * 2 ^ 36 + ch % 64 * 2 ^ 30 + bits u 23 20 * 2 ^ 26 + bits u 19 4 * 2 ^ 10 +
    bits u 3 0 * 64)
def columnPa (ch u : Nat) : Nat := bankPa (ch / 64) (ch % 64) (bits u 23 20) (bits u 19 4) (bits u 3 0 * 64)

/-- Check(U): 04 R93 for the binding's session, the rows and the page-table area (13 R285). -/
def columnOk (s : State) (ch u sess : Nat) (why : Purpose) : Bool :=
  bits u 31 24 == 0 && (match s.checkByte sess why (columnPtr ch u) with | .no _ _ => false | _ => true)

/-- A column access of the running slot (13 R281): in its row operation it performs `act`; where the row operation is
another's, or has made its 16 accesses, it ends first; else the access waits for ROW_OPERATION_START. -/
def column (s : State) (a : BitVec 4) (m : BitVec 10) (why : Purpose) (act : State → Nat → BankSlot → State) : State :=
  match s.runSlot with
  | none => s
  | some (k, b) =>
    let u := columnU b a m
    if !s.columnOk s.curChan u b.sess why then s.failInstance k b (columnPtr s.curChan u)
    else match (s.unit s.curChan).rowOp with
      | some (bank, row, n) =>
        if bank = bits u 23 20 ∧ row = bits u 19 4 ∧ n < 16 then
          act (s.modUnit s.curChan fun v => { v with rowOp := some (bank, row, n + 1) }) k b
        else s.boundary
      | none => s

/-- The next operand of an instance, once it is there: the operand and the slot without it (13 R278, R286). -/
def operand (s : State) (b : BankSlot) : Option (DWord × BankSlot) :=
  let ok (n : Nat) : Bool := s.releasedFor b.age { mask := 0xFFFF, scope := 1, before := n }
  if b.wave then
    match (s.feedOf b.age b.feed).list[b.taken]? with
    | some (v, n) => if ok n then some (v, { b with taken := b.taken + 1 }) else none
    | none => none
  else match b.input with
    | (v, n) :: r => if ok n then some (v, { b with input := r }) else none
    | [] => none

end State

def execBnop (s : State) : Out := .next (s.bankStep id)

/-- INC: the address register's lane 0 rises by one (21 R444). -/
def bump1 (b : BankSlot) (a : BitVec 4) (i : BitVec 1) : BankSlot :=
  if i = 1 then b.setReg a (Lane.set (b.reg a) 0 (Lane.get (b.reg a) 0 + 1)) else b

/-- A column as a piece of the bank-linear window: its access counts for heat (04 R104). -/
def columnPiece (ch u : Nat) : Piece :=
  { home := .here (State.columnPa ch u), off := 0, len := 64, va := State.columnPtr ch u }

def execBld (z : BitVec 2) (d a : BitVec 4) (i : BitVec 1) (m : BitVec 10) (s : State) : Out :=
  .next (s.column a m .read fun s k b =>
    let pa := State.columnPa s.curChan (State.columnU b a m)
    let s := (s.meet pa 64).heatOf b.sess [columnPiece s.curChan (State.columnU b a m)]
    let x := BitVec.ofNat 512 (s.readNat pa 64)
    s.modSlot s.curChan k fun b => (bump1 (b.put z d x) a i).next)

def execBst (z : BitVec 2) (a r : BitVec 4) (i : BitVec 1) (m : BitVec 10) (s : State) : Out :=
  .next (s.column a m .write fun s k b =>
    let x := b.reg r
    let bs : List (Option Byte) := (toBytes 64 x.toNat).mapIdx fun j v =>
      if (b.mask z).getLsbD (j / 4) then some v else none
    ((s.writeMasked (State.columnPa s.curChan (State.columnU b a m)) bs).heatOf b.sess
      [columnPiece s.curChan (State.columnU b a m)]).modSlot s.curChan k fun b => (bump1 b a i).next)

/-- BPOP: on an empty input the instance reaches a row boundary and waits (13 R281). -/
def execBpop (z : BitVec 2) (d : BitVec 4) (t : BitVec 1) (s : State) : Out :=
  .next (match s.runSlot with
    | none => s
    | some (k, b) => match s.operand b with
      | none => s.boundary
      | some (v, b') =>
        let lo := bits v.toNat 31 0
        let x := Lane.of ((List.range 16).map fun i => if t = 0 ∧ i % 2 = 1 then bits v.toNat 63 32 else lo)
        s.modSlot s.curChan k fun _ => (b'.put z d x).next)

def execBpush (a : BitVec 4) (p : BitVec 3) (s : State) : Out :=
  .next (match s.runSlot with
    | none => s
    | some (k, b) =>
      if 16 ≤ b.output.length then s.boundary
      else
        let v := BitVec.ofNat 64 (Lane.get (b.reg a) (2 * p.toNat) + Lane.get (b.reg a) (2 * p.toNat + 1) * 2 ^ 32)
        s.modSlot s.curChan k fun b => { b with output := b.output ++ [v] }.next)

/-- An f32 result of the unit: RNE, no flags (21 R443). -/
def f32Put (r : FRes) : Nat := (r.put f32F .rne 0 false).1
def bankAdd (t : BitVec 1) (x y : Nat) : Nat :=
  if t = 0 then (x + y) % 2 ^ 32 else f32Put (faddV .rne (f32F.decode x) (f32F.decode y))
def bankMul (t : BitVec 1) (x y : Nat) : Nat :=
  if t = 0 then x * y % 2 ^ 32 else f32Put (fmulV (f32F.decode x) (f32F.decode y))
def bankFma (t : BitVec 1) (x y c : Nat) : Nat :=
  if t = 0 then (x * y + c) % 2 ^ 32 else f32Put (ffmaV .rne (f32F.decode x) (f32F.decode y) (f32F.decode c))

def execBadd (z : BitVec 2) (d a b : BitVec 4) (t : BitVec 1) (s : State) : Out :=
  .next (s.bankStep fun k => k.put z d (Lane.map2 (bankAdd t) (k.reg a) (k.reg b)))
def execBmul (z : BitVec 2) (d a b : BitVec 4) (t : BitVec 1) (s : State) : Out :=
  .next (s.bankStep fun k => k.put z d (Lane.map2 (bankMul t) (k.reg a) (k.reg b)))
def execBfma (z : BitVec 2) (d a b : BitVec 4) (t : BitVec 1) (s : State) : Out :=
  .next (s.bankStep fun k => k.put z d (Lane.of (List.zipWith (fun x (p : Nat × Nat) => bankFma t x p.1 p.2)
    (Lane.all (k.reg a)) ((Lane.all (k.reg b)).zip (Lane.all (k.reg d))))))

/-- BCMP's conditions (21 R441). -/
def bankCond (c : BitVec 3) (x y : Nat) : Bool :=
  if c.toNat < 6 then cond c (BitVec.ofNat 32 x) (BitVec.ofNat 32 y)
  else fcond (if c = 6 then 2 else 3) (fordV (f32F.decode x) (f32F.decode y))

def execBcmp (z d : BitVec 2) (a b : BitVec 4) (c : BitVec 3) (s : State) : Out :=
  .next (s.bankStep fun k =>
    let r := List.zipWith (bankCond c) (Lane.all (k.reg a)) (Lane.all (k.reg b))
    let x : BitVec 16 := BitVec.ofNat 16 (r.foldr (fun v n => v.toNat + 2 * n) 0)
    k.setMask d ((x &&& k.mask z) ||| (k.mask d &&& ~~~k.mask z)))

def execBsel (z : BitVec 2) (d a b : BitVec 4) (s : State) : Out :=
  .next (s.bankStep fun k => k.setReg d (Lane.merge (k.mask z) (k.reg b) (k.reg a)))

/-- BACC: the tree of 17 R372 over the masked lanes, then one more addition. -/
def execBacc (z : BitVec 2) (d a : BitVec 4) (t : BitVec 1) (s : State) : Out :=
  .next (s.bankStep fun k =>
    let l := (Lane.all (k.reg a)).mapIdx fun i v => if (k.mask z).getLsbD i then v else 0
    let r := (tree (fun x y => (bankAdd t x y, 0)) 4 l 0).1
    k.setReg d (Lane.set (k.reg d) 0 (bankAdd t (Lane.get (k.reg d) 0) r)))

namespace State

/-- The word at an index of an instance's routine (13 R276). -/
def bankWord (s : State) (ch : Nat) (b : BankSlot) (i : Nat) : Word :=
  BitVec.ofNat 32 (s.readNat (bankStoreHome ch (b.frame * 64 + i)) 4)

/-- The index at which a skip goes on: the first BLOOP after it, or the end (21 R445). -/
def skipIndex (s : State) (ch : Nat) (b : BankSlot) : Nat :=
  match ((List.range (b.len - b.rc - 1)).map (b.rc + 1 + ·)).find? fun i =>
    match decode .bank (s.bankWord ch b i) with | .ok (.bloop _ _) => true | _ => false with
  | some i => i
  | none => b.len

end State

/-- BSKIP (13 R289, 21 R445). -/
def execBskip (s : State) : Out :=
  .next (match s.runSlot with
    | none => s
    | some (k, b) =>
      let have' := if b.skn = 0 then (s.operand b).map fun (v, b) => { b with skw := BitVec.ofNat 32 v.toNat, skn := 32 }
        else some b
      match have' with
      | none => s.boundary
      | some b =>
        let bit0 := b.skw.getLsbD 0
        let b := { b with skw := b.skw >>> 1, skn := b.skn - 1 }
        let dest := s.skipIndex s.curChan b
        if bit0 then s.modSlot s.curChan k fun _ => b.next
        else if dest < b.len then s.modSlot s.curChan k fun _ => { b with rc := dest }
        else (s.modSlot s.curChan k fun _ => b).endInstance k)

def execBloop (a : BitVec 4) (m : BitVec 10) (s : State) : Out :=
  .next (match s.runSlot with
    | none => s
    | some (k, _) => s.modSlot s.curChan k fun b =>
        let v := Lane.get (b.reg a) 0
        if v = 0 then b.next
        else
          let b := b.setReg a (Lane.set (b.reg a) 0 (v - 1))
          if v = 1 then b.next else { b with rc := b.rc - (m.toNat + 1) })

def execBend (s : State) : Out :=
  .next (match s.runSlot with
    | none => s
    | some (k, _) => s.endInstance k)

/-! ## Events of a unit: its channel stands in the event's argument `n` -/

namespace State

/-- The instruction a slot does next; past its routine's end it is BEND. -/
def nextBank (s : State) (ch : Nat) (b : BankSlot) : Instr :=
  if b.len ≤ b.rc then .bend
  else match decode .bank (s.bankWord ch b b.rc) with
    | .ok i => i
    | .error _ => .bend

/-- A BSKIP next whose bit is 0, with no BLOOP behind it: it ends the instance (21 R445). -/
def skipEnds (s : State) (ch : Nat) (b : BankSlot) : Bool :=
  let z := if b.skn = 0 then (s.operand b).map fun p => { p.2 with skw := BitVec.ofNat 32 p.1.toNat } else some b
  z.elim false fun b => !b.skw.getLsbD 0 && decide (b.len ≤ s.skipIndex ch b)

/-- The bank and row that a slot's next instruction wants, where it is a column access that passes its check. -/
def wanted (s : State) (ch : Nat) (b : BankSlot) : Option (Nat × Nat × Bool) :=
  let col (a : BitVec 4) (m : BitVec 10) (why : Purpose) : Option (Nat × Nat × Bool) :=
    let u := columnU b a m
    if s.columnOk ch u b.sess why then some (bits u 23 20, bits u 19 4, why == .write) else none
  match s.nextBank ch b with
  | .bld _ _ a _ m => col a m .read
  | .bst _ a _ _ m => col a m .write
  | _ => none

/-- A slot can go on: it has not ended and waits for no operand and no room (13 R283). -/
def slotReady (s : State) (ch : Nat) (b : BankSlot) : Bool :=
  !b.ended && (match s.nextBank ch b with
    | .bpop .. => (s.operand b).isSome
    | .bskip => b.skn != 0 || (s.operand b).isSome
    | .bpush .. => decide (b.output.length < 16)
    | _ => true)

/-- OP of a request: a Reserved one reads as zero (00 R6), a read. -/
def requestOp (m : List Byte) : Nat := if field m 0 1 ≤ 2 then field m 0 1 else 0

/-- The bytes that a request reaches. -/
def requestSpan (m : List Byte) : Nat × Nat :=
  (field m 8 8, if requestOp m = 2 then atomSize (BitVec.ofNat 3 (field m 2 1)) (field m 3 1 % 2 == 1) else field m 16 2)

/-- What an ordinary access that has not performed reaches. -/
def keyPieces (s : State) (k : BankKey) : List Piece :=
  match k with
  | .access c x id => (((s.ctx c x).accesses.find? fun a => a.id == id && !a.posted).map (·.pieces)).getD []
  | .beat c h q => (((s.chan c h).beats.find? fun b => b.seq == q && !b.posted).map fun b => b.src ++ b.dst).getD []
  | .request l => ((s.inbound.find? (·.1 == l)).map fun r =>
      let (a, n) := requestSpan r.2
      [({ home := .here a, off := 0, len := n } : Piece)]).getD []

/-- The parts of pieces in the banks of HBM4: channel, bank, bytes (04 R91). -/
def bankParts (ps : List Piece) : List (Nat × Nat × Nat) :=
  ps.flatMap fun p => match p.home with
    | .here a =>
      if a < Config.hbmBytes then
        (List.range (ceilDiv (a % 256 + p.len) 256)).map fun k =>
          let lo := Nat.max a (a / 256 * 256 + 256 * k)
          let q := paBank lo
          (q.1, q.2.1, Nat.min (a + p.len) (a / 256 * 256 + 256 * k + 256) - lo)
      else []
    | _ => []

def sameBank (x y : Nat × Nat × Nat) : Bool := x.1 == y.1 && x.2.1 == y.2.1

/-- The access has come to the controllers of its banks: its turn has come, and neither an exchange nor a switch nor a reply is
waited for. -/
def atBanks (s : State) (k : BankKey) : Bool :=
  bankParts (s.keyPieces k) != [] && (match k with
    | .access c x id => ((s.ctx c x).accesses.find? (·.id == id)).elim false fun a =>
        inOrder (s.ctx c x) a && (a.pieces.all fun p => !p.mig && !s.switchingAt a.id p) &&
          (a.act != .load || a.pieces.all (fun p => (farOf p.home).isNone) || a.src.asked) &&
          (!a.src.asked || s.answered a.pieces a.src.tags)
    | .beat c h q => ((s.chan c h).beats.find? (·.seq == q)).elim false fun b =>
        ((b.src ++ b.dst).all fun p => !p.mig && !s.switchingAt b.seq p) && (!b.ask.asked || s.answered b.src b.ask.tags)
    | .request _ => true)

/-- The ordinary accesses of the device. -/
def ordinaries (s : State) : List BankKey :=
  ((List.range 128).flatMap fun c =>
    ((List.range 4).flatMap fun x => (s.ctx c x).accesses.map fun a => BankKey.access c x a.id) ++
      (List.range 2).flatMap fun h => (s.chan c h).beats.map fun b => BankKey.beat c h b.seq) ++
    (s.inbound.map (·.1)).eraseDups.map .request

/-- The queues of the banks at the end of a cycle (13 R282): what has come in this cycle stands behind what waits. -/
def queueBanks (s : State) : State :=
  { s with
    bankQueue := s.bankQueue.filter s.atBanks ++ (s.ordinaries.filter fun k => !s.bankQueue.contains k && s.atBanks k)
    bankHeld := s.bankHeld.filter fun h => decide (s.now + 1 < h.2.2) }

/-- An ordinary access was queued to the bank at the end of the last cycle (13 R282, 26 R472). -/
def bankQueued (s : State) (ch bank : Nat) : Bool := s.bankQueue.any fun k => (s.keyPieces k).any (pieceInBank ch bank)

/-- An ordinary access occupies the bank (26 R472). -/
def bankTaken (s : State) (ch bank : Nat) : Bool :=
  s.bankHeld.any fun h => h.1 == ch && h.2.1 == bank && decide (s.now < h.2.2)

/-- The banks let an ordinary access start now: it had come by the end of the last cycle, no other occupies one of its banks, and
none that came before it waits there. One that also reaches memory beyond the device is not held to this (log entry 2). -/
def bankTurnOf (s : State) (k : BankKey) : Bool :=
  let ps := s.keyPieces k
  let mine := bankParts ps
  mine == [] || ps.any (fun p => (farOf p.home).isSome) ||
    (s.bankQueue.contains k && !mine.any (fun p => s.bankTaken p.1 p.2.1) &&
      (s.bankQueue.takeWhile (· != k)).all fun j => !(bankParts (s.keyPieces j)).any fun p => mine.any (sameBank p))

/-- An ordinary access has started: each of its banks is occupied for 14 cycles to activate, 2 for each 64 bytes and 7 to precharge
(26 R472). -/
def occupyBanks (s : State) (k : BankKey) (ps : List Piece) : State :=
  let mine := bankParts ps
  let cols (p : Nat × Nat × Nat) : Nat := (mine.filter (sameBank p)).foldl (fun n q => n + ceilDiv q.2.2 64) 0
  { s with
    bankQueue := s.bankQueue.filter (· != k)
    bankHeld := s.bankHeld ++ mine.map fun p => (p.1, p.2.1, s.now + 14 + 2 * cols p + 7) }

/-- The first byte of a row, as a piece. -/
def rowPiece (ch bank row : Nat) : Piece := { home := .here (bankPa (ch / 64) (ch % 64) bank row 0), off := 0, len := 64 }

/-- The slot in hand suspends (13 R283): what its row operation waits for is remembered. -/
def suspendSlot (s : State) (ch k : Nat) (held : Bool) : State :=
  (s.modSlot ch k fun b => { b with held := held, waitingSince := some (b.waitingSince.getD s.now) }).modUnit ch fun u =>
    { u with cur := none, lastSlot := k }

/-- ROW_OPERATION_START (13 R282): the bank is idle, and no ordinary access is queued to it or the row operation holds
the guaranteed slot; else the slot suspends. One that would add a granule waits for a checkpoint to quiesce, and then
goes (03 R78). -/
def rowStart (s : State) (ch : Nat) : State :=
  let u := s.unit ch
  match u.cur.bind fun k => (slot? u k).map fun b => (k, b) with
  | none => s
  | some (k, b) => match s.wanted ch b with
    | none => s
    | some (bank, row, w) =>
      if u.rowOp.isSome ∨ s.now < u.stepAt ∨ (s.ckpt.isSome ∧ !b.held ∧ u.guaranteed ≠ some (k, bank)) then s
      else if w ∧ s.granuleHold [rowPiece ch bank row] then
        (s.suspendSlot ch k true).modUnit ch fun u => { u with guaranteed := u.guaranteed.filter (·.1 != k) }
      else if s.bankTaken ch bank ∨ (s.bankQueued ch bank ∧ u.guaranteed ≠ some (k, bank)) then s.suspendSlot ch k b.held
      else (s.modSlot ch k fun b => { b with held := false, waitingSince := none }).modUnit ch fun u =>
        { u with rowOp := some (bank, row, 0), opFrom := s.now, closeAt := none }

/-- ROW_BOUNDARY (13 R283): with no row operation running and no slot in hand, the unit takes the slot that the controller
has guaranteed, or the next ready slot in round-robin order; while a checkpoint quiesces, only one that has waited for
it or that holds the guaranteed slot, whose bank nothing else may use (13 R284). -/
def rowBoundary (s : State) (ch : Nat) : State :=
  let u := s.unit ch
  let ready (k : Nat) : Bool := ((slot? u k).map fun b => s.slotReady ch b && (s.ckpt.isNone || b.held || u.guaranteed.any (·.1 == k))).getD false
  if u.rowOp.isSome ∨ u.cur.isSome then s
  else match (u.guaranteed.map (·.1)).filter ready with
    | some k => s.setUnit { u with cur := some k }
    | none => match (List.range 4).find? fun i => ready ((u.lastSlot + 1 + i) % 4) with
      | some i => s.setUnit { u with cur := some ((u.lastSlot + 1 + i) % 4) }
      | none => s

/-- GUARANTEED_SLOT (13 R284): for the slot whose row operation has waited 4,400 cycles for its bank; none is given while a
checkpoint quiesces (03 R79). -/
def guarantee (s : State) (ch : Nat) : State :=
  let u := s.unit ch
  let late (p : Nat × BankSlot) : Option (Nat × Nat) :=
    match p.2.waitingSince, s.wanted ch p.2 with
    | some t, some (bank, _, _) => if t + 4400 ≤ s.now ∧ !p.2.held then some (p.1, bank) else none
    | _, _ => none
  if u.guaranteed.isSome ∨ s.ckpt.isSome then s
  else match u.slots.findSome? late with
    | some g => s.setUnit { u with guaranteed := some g }
    | none => s

/-- The instruction in hand ends the row operation (13 R281): it names another row or bank, 16 columns are used, it waits for an
operand or for room, or the instance ends. -/
def endsRow (s : State) (ch : Nat) (b : BankSlot) (bank row n : Nat) : Bool :=
  decide (16 ≤ n) || (match s.nextBank ch b with
    | .bld .. | .bst .. => (match s.wanted ch b with | some (x, y, _) => x != bank || y != row | none => true)
    | .bpop .. => (s.operand b).isNone
    | .bpush .. => decide (16 ≤ b.output.length)
    | .bskip => !s.slotReady ch b || s.skipEnds ch b
    | .bend => true
    | _ => false)

/-- The cycle in which a row operation of `n` column accesses ends: 14 to activate, 2 for each, 7 to precharge (13 R281). -/
def rowLength (n : Nat) : Nat := 14 + 2 * n + 7

end State

def execBindingResolve (s : State) : Out := .next (s.bindingResolve s.arg.core s.arg.ctx s.arg.idx)
def execRowOperationStart (s : State) : Out := .next (s.rowStart s.arg.n)
def execRowBoundary (s : State) : Out := .next (s.rowBoundary s.arg.n)
def execGuaranteedSlot (s : State) : Out := .next (s.guarantee s.arg.n)
def execWaveStart (s : State) : Out := .next s.waveStart

end Sys2Proof.Machine
end

