-- ==== Sys2Proof/Machine/Control.lean ====
section
/-! DEFINITION. Control transfer, strand life, crews, register moves and MODE (16 R345 to R359). -/

namespace Sys2Proof.Machine

namespace State

/-- A taken transfer: the next bundle is the target's, 2 cycles are lost, and every active level of the loop buffer
whose body does not hold the target closes (06 R145, R148). In a handler the levels are idle (06 R150). -/
def jump (s : State) (target : DWord) : State :=
  s.modCur fun c => { c with
    nextPc := some target
    stall := transferStall
    loops := if c.hnd then c.loops
      else c.loops.filter fun l => decide (l.start ≤ target) && decide (target ≤ l.last) }

/-- LOOP and LOOPI (06 R147, 16 R347): the body runs from the next bundle to the end bundle. -/
def openLoop (s : State) (len : BitVec 6) (count : BitVec 32) : State :=
  let c := s.cur
  let start := c.pc + 32
  let last := c.pc + 32 * (BitVec.ofNat 64 len.toNat + 1)
  if c.hnd ∨ 4 ≤ c.loops.length ∨ c.loops.any (fun l => decide (start < l.start) || decide (l.last < last)) then
    s.trap 0x10
  else
    let s := s.putR (.lc c.loops.length) (count.setWidth 2048) 1
    s.modCur fun c =>
      if count = 0 then { c with nextPc := some (last + 32) }
      else { c with loops := c.loops ++ [{ depth := c.loops.length, start := start, last := last }] }

/-- A system register as MFS reads it, before its bundle writes any (06 R136, R153, 21 R439). -/
def sysReg (s : State) (n : Nat) : DWord :=
  let y := (s.cur.before.map (·.sys)).getD s.cur.sys
  match n with
  | 0x000 => y.status ||| (if s.isSystem s.curSess then 0x20 else 0)
  | 0x001 => y.cause
  | 0x002 => y.epc
  | 0x003 => y.eva
  | 0x004 => y.tvec
  | 0x008 => BitVec.ofNat 64 s.curSess
  | 0x009 => ((s.curStrand.map Strand.index).getD 0).setWidth 64
  | 0x00A => BitVec.ofNat 64 s.curCore
  | 0x00B => BitVec.ofNat 64 s.ncores
  | 0x00C => s.cyc
  | 0x010 => y.fpflags
  | 0x011 => y.fpctl
  | 0x012 => y.rseed0
  | 0x013 => y.rseed1
  | 0x018 => y.wmk0
  | 0x019 => y.wmk1
  | 0x01A => y.tidn0
  | 0x01B => y.tidn1
  | 0x01C => y.fmtix
  | 0x100 => (s.core s.curCore).ecccnt.setWidth 64
  | 0x101 => (s.core s.curCore).retrycnt.setWidth 64
  | 0x102 => BitVec.ofNat 64 ((s.core s.curCore).bucket + (s.core s.curCore).refill * 2 ^ 17)
  | 0x103 => BitVec.ofNat 64 (((s.session? s.curSess).map s.freeAreas).getD 0)
  | _ => 0

end State

/-- MixSeed (07 R172): the two seed halves from the value, the session and the strand index. -/
def mixSeed (v : DWord) (sess : Nat) (index : BitVec 32) : DWord × DWord :=
  let x : DWord := (BitVec.ofNat 64 sess <<< 32) ||| index.setWidth 64
  let step (p : DWord × DWord) : DWord × DWord := ((rngStep p.1 p.2).1, (rngStep p.1 p.2).2.1)
  step (step (step (step
    (v ^^^ (x * 0x9E37_79B9_7F4A_7C15), v.rotateLeft 32 ^^^ x ^^^ 0xD1B5_4A32_D192_ED03))))

/-! ## Control transfer -/

/-- B: to the bundle's address + 32 × off21 (16 R345). -/
def execB (pn : BitVec 1) (pk : BitVec 3) (i : BitVec 21) (s : State) : Out :=
  scalar pn pk s fun s => s.jump (s.cur.pc + 32 * immS s i)

/-- CALL: the link goes to g63 (16 R345). -/
def execCall (pn : BitVec 1) (pk : BitVec 3) (i : BitVec 21) (s : State) : Out :=
  scalar pn pk s fun s => (s.putG 63 (s.cur.pc + 32) 1).jump (s.cur.pc + 32 * immS s i)

/-- CALLR: a misaligned target raises ALIGN with EVA the target (16 R346). -/
def execCallr (pn : BitVec 1) (pk : BitVec 3) (d a : BitVec 6) (s : State) : Out :=
  scalar pn pk s fun s =>
    if s.cur.rg a % 32 ≠ 0 then s.trapWith 0x0C 0 (s.cur.rg a)
    else (s.putG d (s.cur.pc + 32) 1).jump (s.cur.rg a)

def execJr (pn : BitVec 1) (pk : BitVec 3) (a : BitVec 6) (s : State) : Out :=
  scalar pn pk s fun s =>
    if s.cur.rg a % 32 ≠ 0 then s.trapWith 0x0C 0 (s.cur.rg a) else s.jump (s.cur.rg a)

def execLoop (pn : BitVec 1) (pk : BitVec 3) (l a : BitVec 6) (s : State) : Out :=
  scalar pn pk s fun s => s.openLoop l ((s.cur.rg a).setWidth 32)

def execLoopi (pn : BitVec 1) (pk : BitVec 3) (l : BitVec 6) (i : BitVec 15) (s : State) : Out :=
  scalar pn pk s fun s => s.openLoop l ((immU s i).setWidth 32)

/-- BRK (16 R348). -/
def execBrk (pn : BitVec 1) (pk : BitVec 3) (s : State) : Out := scalar pn pk s fun s => s.trap 0x12

/-- TRAP (16 R348). -/
def execTrap (pn : BitVec 1) (pk : BitVec 3) (s : State) : Out := scalar pn pk s fun s => s.trap 0x13

/-! ## Strand life -/

/-- YIELD: the halt begins when a READY strand of the core has an effective priority at least this one's
(05 R118, 16 R349). -/
def execYield (pn : BitVec 1) (pk : BitVec 3) (s : State) : Out :=
  scalar pn pk s fun s =>
    match s.curStrand with
    | some t =>
      if s.strands.any fun u => u.core == s.curCore && u.st == .ready && decide (s.effective t ≤ s.effective u) then
        s.startHalt s.curCore s.curCtx false
      else s
    | none => s

/-- EXIT: the strand issues nothing further; it leaves its crew when its bundle has issued, and STRAND_DONE ends it
(16 R350). -/
def execExit (pn : BitVec 1) (pk : BitVec 3) (s : State) : Out :=
  scalar pn pk s fun s =>
    (s.modCur fun c => c.addWait .exit).modStrand s.curAge fun t => { t with ended := true }

/-- SPAWN (05 R128, 16 R351). -/
def execSpawn (pn : BitVec 1) (pk : BitVec 3) (d a b : BitVec 6) (s : State) : Out :=
  scalar pn pk s fun s =>
    match s.curStrand with
    | none => s.putG d (BitVec.allOnes 64) 48
    | some t =>
      match s.launch? t.launch with
      | none => s.putG d (BitVec.allOnes 64) 48
      | some l =>
        if State.poolMax ≤ s.pooled ∨ 0xFFFF_FFFF < l.nextIndex then s.putG d (BitVec.allOnes 64) 48
        else
          let count := BitVec.ofNat 64 (ofBytes ((l.body.drop 16).take 2) + 1)
          let img := State.startCtx s.cur.fixed (s.cur.rg a) (s.cur.rg b) count 0
          let r := s.newStrand t.launch t.sess s.curCore t.prio (BitVec.ofNat 32 l.nextIndex) img
          let r := r.modLaunch l.id fun l => { l with nextIndex := l.nextIndex + 1, created := l.created + 1 }
          r.putG d (BitVec.ofNat 64 l.nextIndex) 48

/-! ## Crews (05 R129) -/

/-- CNEW: a free id, or 0 when no id is free; a member of a crew traps (16 R352). -/
def execCnew (pn : BitVec 1) (pk : BitVec 3) (d : BitVec 6) (s : State) : Out :=
  scalar pn pk s fun s =>
    if (s.crewOf? s.curAge).isSome then s.trap 0x0D
    else match s.freeCrew 0 s.curAge with
      | some k =>
        State.putG { s with crews := s.crews ++ [{ id := k, sess := s.curSess, members := [s.curAge] }] } d (BitVec.ofNat 64 k) 48
      | none => s.putG d 0 48

/-- CJOIN (16 R353). -/
def execCjoin (pn : BitVec 1) (pk : BitVec 3) (a : BitVec 6) (s : State) : Out :=
  scalar pn pk s fun s =>
    let id := (s.cur.rg a).toNat
    if (s.crewOf? s.curAge).isSome ∨ ¬ s.crews.any (fun k => k.id == id && k.sess == s.curSess) then s.trap 0x0D
    else { s with crews := s.crews.map fun k =>
      if k.id = id then { k with members := k.members ++ [s.curAge] } else k }

/-- CLEAVE (16 R353). -/
def execCleave (pn : BitVec 1) (pk : BitVec 3) (s : State) : Out :=
  scalar pn pk s fun s => s.leaveCrew s.curAge

namespace State

/-- The crew of the strand in hand as its bundle found it, with the open episode of then: no slot sees what its own bundle does
(06 R136). -/
def barCrew (s : State) : Option (Crew × Nat) :=
  match s.cur.before with
  | some b => b.crew.bind fun (id, e) => (s.crews.find? (·.id == id)).map fun k => (k, e)
  | none => (s.crewOf? s.curAge).map fun k => (k, k.episode)

end State

/-- CBAR (16 R354, R355): the strand arrives once its accesses have performed at system scope, and blocks until the
episode that it arrived in completes. Two CBARs of a bundle arrive together (20 R414). -/
def execCbar (pn : BitVec 1) (pk : BitVec 3) (s : State) : Out :=
  scalar pn pk s fun s =>
    if s.cur.parkMet ∨ s.cur.met.contains s.curSlot then s
    else match s.barCrew with
      | none => s
      | some (k, e0) =>
        match s.cur.arrivedIn with
        | some (_, e) => if e < k.episode then s else s.blockOn (.cbar k.id e)
        | none =>
          if !State.acknowledgedAll s.cur then s.outcome (.blocked false)
          else if e0 < k.episode then s
          else
            let k' := State.closeEpisode { k with arrived := k.arrived ++ [s.curAge] }
            let s := { s with crews := s.crews.map fun j => if j.id = k.id then k' else j }
            if k.episode < k'.episode then s
            else State.blockOn (s.modCur fun c => { c with arrivedIn := some (k.id, k.episode) }) (.cbar k.id k.episode)

/-! ## Register moves -/

/-- A privileged register number in a session without SYSTEM (06 R150, 21 R439). -/
def sysPriv (s : State) (i : BitVec 9) : Bool := decide (0x100 ≤ i.toNat) && !s.isSystem s.curSess

def execMfs (pn : BitVec 1) (pk : BitVec 3) (d : BitVec 6) (i : BitVec 9) (s : State) : Out :=
  if sysPriv s i then .next (s.trap 0x03)
  else scalar pn pk s fun s => s.putG d (s.sysReg i.toNat) 2

/-- MTS (16 R357): with MIX, MixSeed of the value goes to both seed halves; KILL ends a session (21 R439). -/
def execMts (pn : BitVec 1) (pk : BitVec 3) (m : BitVec 1) (a : BitVec 6) (i : BitVec 9) (s : State) : Out :=
  if sysPriv s i then .next (s.trap 0x03)
  else scalar pn pk s fun s =>
    if i = 0x108 then s.killSession ((s.cur.rg a).toNat % 64)
    else if m = 1 then
      let p := mixSeed (s.cur.rg a) s.curSess ((s.curStrand.map Strand.index).getD 0)
      (s.putR (.sys 0x012) (p.1.setWidth 2048) 1).putR (.sys 0x013) (p.2.setWidth 2048) 1
    else s.putR (.sys i.toNat) ((s.cur.rg a).setWidth 2048) 1

/-- The register that a target of MPUT and MGET names (15 R317). -/
def targetDest (i : BitVec 9) : Dest :=
  if i.toNat < 8 then .m i.toNat
  else if i.toNat < 0x100 then .fmt (i.toNat - 0x10)
  else .shp (i.toNat - 0x100)

def readTarget (c : Ctx) (i : BitVec 9) : DWord :=
  match targetDest i with
  | .m n => c.rm n
  | .fmt n => c.rfmt n
  | .shp n => (c.rshp (n / 16)).extractLsb' (n % 16 * 64) 64
  | _ => 0

def execMput (pn : BitVec 1) (pk : BitVec 3) (a : BitVec 6) (i : BitVec 9) (s : State) : Out :=
  scalar pn pk s fun s => s.putR (targetDest i) ((s.cur.rg a).setWidth 2048) 1

def execMget (pn : BitVec 1) (pk : BitVec 3) (d : BitVec 6) (i : BitVec 9) (s : State) : Out :=
  scalar pn pk s fun s => s.putG d (readTarget s.cur i) 2

/-- MODE: the context waits with MODE as its next bundle; MODE_COMPLETE changes the region (06 R146). To scoreboard
while locked it raises HAZARD (09 R238). -/
def execMode (f : BitVec 1) (s : State) : Out :=
  .next (if s.cur.locked ∧ f = 0 then s.trap 0x11
    else s.modCur fun c => { c with wait := .mode (f == 1), nextPc := some c.pc })

end Sys2Proof.Machine
end

