-- ==== Sys2Proof/Machine/Digest.lean ====
section
/-! DEFINITION. The digest and the keyed functions that 03 R66 to R70 and R79 name: SHA-384 (FIPS 180-4), HMAC-SHA-384 and
the counter-mode KDF of NIST SP 800-108 (PRESUMED, log entry 62). Messages and digests are lists of bytes; the words of
SHA-384 are big-endian. -/

namespace Sys2Proof.Machine

/-- The round constants: the first 64 bits of the fractions of the cube roots of the first 80 primes. -/
def shaK1 : List DWord :=
  [0x428a_2f98_d728_ae22, 0x7137_4491_23ef_65cd, 0xb5c0_fbcf_ec4d_3b2f, 0xe9b5_dba5_8189_dbbc,
   0x3956_c25b_f348_b538, 0x59f1_11f1_b605_d019, 0x923f_82a4_af19_4f9b, 0xab1c_5ed5_da6d_8118,
   0xd807_aa98_a303_0242, 0x1283_5b01_4570_6fbe, 0x2431_85be_4ee4_b28c, 0x550c_7dc3_d5ff_b4e2,
   0x72be_5d74_f27b_896f, 0x80de_b1fe_3b16_96b1, 0x9bdc_06a7_25c7_1235, 0xc19b_f174_cf69_2694,
   0xe49b_69c1_9ef1_4ad2, 0xefbe_4786_384f_25e3, 0x0fc1_9dc6_8b8c_d5b5, 0x240c_a1cc_77ac_9c65,
   0x2de9_2c6f_592b_0275, 0x4a74_84aa_6ea6_e483, 0x5cb0_a9dc_bd41_fbd4, 0x76f9_88da_8311_53b5,
   0x983e_5152_ee66_dfab, 0xa831_c66d_2db4_3210, 0xb003_27c8_98fb_213f, 0xbf59_7fc7_beef_0ee4,
   0xc6e0_0bf3_3da8_8fc2, 0xd5a7_9147_930a_a725, 0x06ca_6351_e003_826f, 0x1429_2967_0a0e_6e70,
   0x27b7_0a85_46d2_2ffc, 0x2e1b_2138_5c26_c926, 0x4d2c_6dfc_5ac4_2aed, 0x5338_0d13_9d95_b3df,
   0x650a_7354_8baf_63de, 0x766a_0abb_3c77_b2a8, 0x81c2_c92e_47ed_aee6, 0x9272_2c85_1482_353b]
def shaK2 : List DWord :=
  [0xa2bf_e8a1_4cf1_0364, 0xa81a_664b_bc42_3001, 0xc24b_8b70_d0f8_9791, 0xc76c_51a3_0654_be30,
   0xd192_e819_d6ef_5218, 0xd699_0624_5565_a910, 0xf40e_3585_5771_202a, 0x106a_a070_32bb_d1b8,
   0x19a4_c116_b8d2_d0c8, 0x1e37_6c08_5141_ab53, 0x2748_774c_df8e_eb99, 0x34b0_bcb5_e19b_48a8,
   0x391c_0cb3_c5c9_5a63, 0x4ed8_aa4a_e341_8acb, 0x5b9c_ca4f_7763_e373, 0x682e_6ff3_d6b2_b8a3,
   0x748f_82ee_5def_b2fc, 0x78a5_636f_4317_2f60, 0x84c8_7814_a1f0_ab72, 0x8cc7_0208_1a64_39ec,
   0x90be_fffa_2363_1e28, 0xa450_6ceb_de82_bde9, 0xbef9_a3f7_b2c6_7915, 0xc671_78f2_e372_532b,
   0xca27_3ece_ea26_619c, 0xd186_b8c7_21c0_c207, 0xeada_7dd6_cde0_eb1e, 0xf57d_4f7f_ee6e_d178,
   0x06f0_67aa_7217_6fba, 0x0a63_7dc5_a2c8_98a6, 0x113f_9804_bef9_0dae, 0x1b71_0b35_131c_471b,
   0x28db_77f5_2304_7d84, 0x32ca_ab7b_40c7_2493, 0x3c9e_be0a_15c9_bebc, 0x431d_67c4_9c10_0d4c,
   0x4cc5_d4be_cb3e_42b6, 0x597f_299c_fc65_7e2a, 0x5fcb_6fab_3ad6_faec, 0x6c44_198c_4a47_5817]
def shaK : List DWord := shaK1 ++ shaK2

/-- The first chaining value of SHA-384: the fractions of the square roots of the ninth to the sixteenth prime. -/
def sha384Start : List DWord :=
  [0xcbbb_9d5d_c105_9ed8, 0x629a_292a_367c_d507, 0x9159_015a_3070_dd17, 0x152f_ecd8_f70e_5939,
   0x6733_2667_ffc0_0b31, 0x8eb4_4a87_6858_1511, 0xdb0c_2e0d_64f9_8fa7, 0x47b5_481d_befa_4fa4]

/-- A number as `n` big-endian bytes, and back. -/
def toBytesBE (n x : Nat) : List Byte := (toBytes n x).reverse
def ofBytesBE (b : List Byte) : Nat := ofBytes b.reverse

def rotr (x : DWord) (n : Nat) : DWord := x.rotateRight n

/-- The message schedule: each further word from the 16 before it, newest first. -/
def shaWords : Nat → List DWord → List DWord
  | 0, w => w
  | n + 1, w =>
    let x := w.getD 14 0
    let y := w.getD 1 0
    let s0 := rotr x 1 ^^^ rotr x 8 ^^^ (x >>> 7)
    let s1 := rotr y 19 ^^^ rotr y 61 ^^^ (y >>> 6)
    shaWords n ((s1 + w.getD 6 0 + s0 + w.getD 15 0) :: w)

/-- One round on the eight working variables. -/
def shaRound (v : List DWord) (kw : DWord × DWord) : List DWord :=
  match v with
  | [a, b, c, d, e, f, g, h] =>
    let t1 := h + (rotr e 14 ^^^ rotr e 18 ^^^ rotr e 41) + ((e &&& f) ^^^ (~~~e &&& g)) + kw.1 + kw.2
    let t2 := (rotr a 28 ^^^ rotr a 34 ^^^ rotr a 39) + ((a &&& b) ^^^ (a &&& c) ^^^ (b &&& c))
    [t1 + t2, a, b, c, d + t1, e, f, g]
  | _ => v

/-- One block of 128 bytes. -/
def shaBlock (v : List DWord) (block : List Byte) : List DWord :=
  let w := (List.range 16).map fun i => BitVec.ofNat 64 (ofBytesBE ((block.drop (8 * i)).take 8))
  let kw := shaK.zip (shaWords 64 w.reverse).reverse
  (v.zip (kw.foldl shaRound v)).map fun (x, y) => x + y

/-- The blocks of a padded message. `fuel` bounds them. -/
def shaBlocks : Nat → List DWord → List Byte → List DWord
  | 0, v, _ => v
  | n + 1, v, m => if m = [] then v else shaBlocks n (shaBlock v (m.take 128)) (m.drop 128)

def sha384 (m : List Byte) : List Byte :=
  let n := m.length
  let p := m ++ [0x80] ++ List.replicate ((239 - n % 128) % 128) 0 ++ toBytesBE 16 (8 * n)
  ((shaBlocks (p.length / 128) sha384Start p).flatMap fun w => toBytesBE 8 w.toNat).take 48

def hmac384 (key m : List Byte) : List Byte :=
  let k := if 128 < key.length then sha384 key else key
  let k := k ++ List.replicate (128 - k.length) 0
  sha384 (k.map (· ^^^ 0x5C) ++ sha384 (k.map (· ^^^ 0x36) ++ m))

/-- `n` bytes of the counter-mode KDF under a label, with an empty context. -/
def kdf384 (key label : List Byte) (n : Nat) : List Byte :=
  ((List.range (ceilDiv n 48)).flatMap fun i =>
    hmac384 key (toBytesBE 4 (i + 1) ++ label ++ [0] ++ toBytesBE 4 (8 * n))).take n

/-- The bytes of the labels RSA and SLH (03 R69). -/
def labelRsa : List Byte := [0x52, 0x53, 0x41]
def labelSlh : List Byte := [0x53, 0x4C, 0x48]

end Sys2Proof.Machine
end

