-- ==== Sys2Proof/Machine/Transcend.lean ====
section
/-! DEFINITION. The function unit: RCP, RSQ, EXP2, LOG2, SINPI, COSPI of one element (18 R386 to R389), the
interpolation of 11 R258 and the built-in tables of 11 R259. Irrational values are computed in fixed point with over
a hundred spare bits, and given with a lowest bit that says something was cut off (UNVERIFIED, log entry 11). -/

namespace Sys2Proof.Machine

/-! ## Fixed-point series, `f` fraction bits -/

/-- `⌊√x⌋`, deciding bit `n - 1` first. -/
def isqrt : Nat → Nat → Nat → Nat
  | 0, _, r => r
  | n + 1, x, r => isqrt n x (if (r + 2 ^ n) * (r + 2 ^ n) ≤ x then r + 2 ^ n else r)

/-- Σ 1 ÷ (i × 2^i): ln 2. -/
def ln2Sum (f : Nat) : Nat → Nat → Nat
  | 0, _ => 0
  | n + 1, i => 2 ^ f / (i * 2 ^ i) + ln2Sum f n (i + 1)

/-- Σ (−1)^i ÷ ((2i + 1) × k^(2i + 1)): arctan (1 ÷ k); `p` is 2^f ÷ k^(2i + 1). -/
def atanSum (k : Nat) : Nat → Nat → Nat → Int
  | 0, _, _ => 0
  | n + 1, i, p => (if i % 2 = 0 then (1 : Int) else -1) * (p / (2 * i + 1) : Nat) + atanSum k n (i + 1) (p / (k * k))

/-- Σ x^i ÷ i!: e^x; `t` is the term. -/
def expSum (f x : Nat) : Nat → Nat → Nat → Nat
  | 0, _, _ => 0
  | n + 1, i, t => t + expSum f x n (i + 1) (t * x / 2 ^ f / (i + 1))

/-- Σ (−1)^i x^(2i + 1) ÷ (2i + 1)!: sin x; `t` is the term. -/
def sinSum (f x : Nat) : Nat → Nat → Nat → Int
  | 0, _, _ => 0
  | n + 1, i, t =>
    (if i % 2 = 0 then (1 : Int) else -1) * t + sinSum f x n (i + 1) (t * x / 2 ^ f * x / 2 ^ f / ((2 * i + 2) * (2 * i + 3)))

/-- The bits of log2 y for y in [1, 2), highest first, by squaring. -/
def log2Bits (f : Nat) : Nat → Nat → Nat → Nat
  | 0, _, r => r
  | n + 1, y, r =>
    let z := y * y / 2 ^ f
    if 2 ^ (f + 1) ≤ z then log2Bits f n (z / 2) (2 * r + 1) else log2Bits f n z (2 * r)

def fbits : Nat := 320
def ln2C : Nat := ln2Sum fbits 320 1
/-- π = 16 arctan (1 ÷ 5) − 4 arctan (1 ÷ 239). -/
def piC : Nat := (16 * atanSum 5 80 0 (2 ^ fbits / 5) - 4 * atanSum 239 30 0 (2 ^ fbits / 239)).toNat

/-- A value known to be `m × 2^-f` and a little, as an exact value with a sticky bit. -/
def stuck (neg : Bool) (m f : Nat) : FRes := .fin neg (2 * m + 1) (-(f : Int) - 1)

/-! ## Built-in tables (11 R259) -/

/-- An f32 value rounded to nearest. -/
def toF32 (r : FRes) : Nat := (r.put f32F .rne 0 false).1

/-- Slot 60: 2^(k ÷ 4,096). -/
def exp2Entry (k : Nat) : Nat :=
  if k = 0 then 0x3F80_0000
  else toF32 (stuck false (expSum fbits (ln2C * k / 4096) 80 0 (2 ^ fbits)) fbits)
/-- Slot 61: log2 (1 + k ÷ 4,096). -/
def log2Entry (k : Nat) : Nat :=
  if k = 0 then 0
  else toF32 (stuck false (log2Bits fbits 128 (2 ^ fbits + k * 2 ^ fbits / 4096) 0) 128)
/-- Slot 62: 1 ÷ (1 + e^(8 − k ÷ 256)). -/
def sigmoidEntry (k : Nat) : Nat :=
  let one := 2 ^ fbits
  if k ≤ 2048 then
    let e := expSum fbits ((2048 - k) * one / 256) 120 0 one
    if k = 2048 then 0x3F00_0000 else toF32 (stuck false (one * one / (one + e)) fbits)
  else
    let e := expSum fbits ((k - 2048) * one / 256) 120 0 one
    toF32 (stuck false (one * e / (one + e)) fbits)
/-- Slot 63: the product of two signed nibbles. -/
def nibbleEntry (k : Nat) : Nat := if k < 256 then unsigned 8 (signed 4 k * signed 4 (k / 16)) else 0

/-- Entry `k` of a built-in table. -/
def builtinEntry (slot k : Nat) : Nat :=
  match slot with
  | 60 => exp2Entry k
  | 61 => log2Entry k
  | 62 => sigmoidEntry k
  | _ => nibbleEntry k

/-- The descriptor of a built-in table (11 R252, R259): BUILTIN, KIND, EW, SH, X0, YEND. -/
def builtinDesc (slot : Nat) : BitVec 128 :=
  let interp (sh x0 yend : Nat) : BitVec 128 := BitVec.ofNat 128 (0x80 + 3 + 2 * 16 + sh * 2 ^ 32 + x0 * 2 ^ 64 + yend * 2 ^ 96)
  match slot with
  | 60 => interp 12 0 0x4000_0000
  | 61 => interp 12 0x3F80_0000 0x3F80_0000
  | 62 => interp 8 0xC100_0000 (sigmoidEntry 4096)
  | _ => 0x82

/-! ## Interpolation (11 R258) -/

/-- lo + (num ÷ 2^p) × (hi − lo), exact; a NaN entry gives NaN, an infinite one NaN and INVALID unless it is the one
that f = 0 selects. -/
def interpolate (lo hi : FVal) (num p : Nat) : FRes :=
  if num = 0 then
    match lo with
    | .nan _ => match hi with | .inf _ => .nan true | _ => .nan false
    | .inf n => match hi with | .nan _ => .nan false | .inf _ => .nan true | _ => .inf n
    | .fin n m e => match hi with
      | .nan _ => .nan false
      | .inf _ => .nan true
      | .fin _ _ _ => .fin n m e
  else match lo, hi with
    | .nan _, .inf _ | .inf _, .nan _ => .nan true
    | .nan _, _ | _, .nan _ => .nan false
    | .fin n1 m1 e1, .fin n2 m2 e2 =>
      let r := addFin .rne n1 (m1 * (2 ^ p - num)) (e1 - p) n2 (m2 * num) (e2 - p)
      .fin r.1 r.2.1 r.2.2
    | _, _ => .nan true

/-- The end of a domain selects an entry as it is. -/
def selected (y : FVal) : FRes :=
  match y with
  | .nan _ => .nan false
  | .inf n => .inf n
  | .fin n m e => .fin n m e

/-- Interp(u) for u = m × 2^e ≥ 0 below `n`: the entries are given by `entry`, and the one past the last by `yend`. -/
def interpAt (entry : Nat → FVal) (yend : FVal) (n m : Nat) (e : Int) : FRes :=
  let p := (-e).toNat
  let u := m * 2 ^ e.toNat
  let k := u / 2 ^ p
  interpolate (entry k) (if k + 1 < n then entry (k + 1) else yend) (u % 2 ^ p) p

/-! ## The functions, of one element of format `f` -/

/-- The canonical NaN for a NaN operand, INVALID only where it is signalling (18 R386). -/
def nanOf (f : FFmt) (snan : Bool) : Nat × BitVec 5 := (f.nan, if snan then fInvalid else 0)
def fnRound (f : FFmt) (r : FRes) : Nat × BitVec 5 := r.put f .rne 0 false
def infOf (f : FFmt) (neg : Bool) : Nat := f.withSign neg (f.inf.getD f.nan)

def fnRcp (f : FFmt) (x : Nat) : Nat × BitVec 5 :=
  match f.decode x with
  | .nan b => nanOf f b
  | .inf n => (f.withSign n 0, 0)
  | .fin n m e =>
    if m = 0 then (infOf f n, fDivZero)
    else
      let k := Nat.log2 m + 80
      let q := 2 ^ k / m
      fnRound f (.fin n (2 * q + (if 2 ^ k % m = 0 then 0 else 1)) (-e - k - 1))

def fnRsq (f : FFmt) (x : Nat) : Nat × BitVec 5 :=
  match f.decode x with
  | .nan b => nanOf f b
  | .inf n => if n then (f.nan, fInvalid) else (0, 0)
  | .fin n m e =>
    if m = 0 then (infOf f n, fDivZero)
    else if n then (f.nan, fInvalid)
    else
      let m := if e % 2 = 0 then m else 2 * m
      let h : Int := e / 2
      let k := Nat.log2 m + 80
      let q := isqrt 200 (2 ^ (2 * k) / m) 0
      fnRound f (.fin false (2 * q + (if q * q * m = 2 ^ (2 * k) then 0 else 1)) (-h - k - 1))

def f32Entry (g : Nat → Nat) (k : Nat) : FVal := f32F.decode (g k)

/-- A result times 2^k. -/
def FRes.scale (k : Int) : FRes → FRes
  | .fin n m e => .fin n m (e + k)
  | r => r

/-- EXP2 (18 R388). The exponent is cut at ±2,000, far beyond overflow and underflow. -/
def fnExp2 (f : FFmt) (x : Nat) : Nat × BitVec 5 :=
  match f.decode x with
  | .nan b => nanOf f b
  | .inf n => if n then (0, 0) else (infOf f false, 0)
  | .fin n m e =>
    let p := (-e).toNat
    let a : Int := m * 2 ^ e.toNat
    let v := if n then -a else a
    let k := v / (2 ^ p : Nat)
    let r := (v % (2 ^ p : Nat)).toNat
    let k := max (-2000) (min 2000 k)
    fnRound f ((interpAt (f32Entry exp2Entry) (f32F.decode 0x4000_0000) 4096 r (12 - (p : Int))).scale k)

/-- LOG2 (18 R388). -/
def fnLog2 (f : FFmt) (x : Nat) : Nat × BitVec 5 :=
  match f.decode x with
  | .nan b => nanOf f b
  | .inf n => if n then (f.nan, fInvalid) else (infOf f false, 0)
  | .fin n m e =>
    if m = 0 then (infOf f true, fDivZero)
    else if n then (f.nan, fInvalid)
    else
      let l := Nat.log2 m
      let ex : Int := (l : Int) + e
      match interpAt (f32Entry log2Entry) (f32F.decode 0x3F80_0000) 4096 (m - 2 ^ l) (12 - (l : Int)) with
      | .fin yn ym ye =>
        let r := addFin .rne yn ym ye (decide (ex < 0)) ex.natAbs 0
        if r.2.1 = 0 then (0, 0) else fnRound f (.fin r.1 r.2.1 r.2.2)
      | r => fnRound f r

/-- |sin| of π × r ÷ 2^p for a residue r of a half turn (0 ≤ r < 2^p), exact at 0 and at the quarter turn. -/
def sinPiMag (neg : Bool) (r p : Nat) : FRes :=
  let r := if 2 ^ p < 2 * r then 2 ^ p - r else r
  if r = 0 then .fin neg 0 0
  else if 2 * r = 2 ^ p then .fin neg 1 0
  else
    let f := Nat.min (p + 128) fbits
    let t := piC / 2 ^ (fbits - f) * r / 2 ^ p
    stuck neg (sinSum f t 40 0 t).toNat f

/-- sin (π × v ÷ 2^p) for an integer v ≥ 0, 1 ≤ p. -/
def sinPiOf (v p : Nat) : FRes :=
  let r := v % 2 ^ (p + 1)
  sinPiMag (decide (2 ^ p ≤ r)) (r % 2 ^ p) p

/-- SINPI (18 R389): odd; an exact zero has the sign of x. -/
def fnSinpi (f : FFmt) (x : Nat) : Nat × BitVec 5 :=
  match f.decode x with
  | .nan b => nanOf f b
  | .inf _ => (f.nan, fInvalid)
  | .fin n m e =>
    match sinPiOf (m * 2 ^ (e + 1).toNat) (Nat.max 1 (-e).toNat) with
    | .fin s y ey => if y = 0 then (f.withSign n 0, 0) else fnRound f (.fin (s != n) y ey)
    | r => fnRound f r

/-- COSPI: sin (π (|x| + 1/2)); an exact zero is +0. -/
def fnCospi (f : FFmt) (x : Nat) : Nat × BitVec 5 :=
  match f.decode x with
  | .nan b => nanOf f b
  | .inf _ => (f.nan, fInvalid)
  | .fin _ m e =>
    let p := Nat.max 1 (-e).toNat
    match sinPiOf (m * 2 ^ (e + 1).toNat + 2 ^ (p - 1)) p with
    | .fin s y ey => if y = 0 then (0, 0) else fnRound f (.fin s y ey)
    | r => fnRound f r

end Sys2Proof.Machine
end

