-- ==== Sys2Proof/Machine/XUnit.lean ====
section
/-! DEFINITION. The X slot: table queries, TLOAD and TINFO, the special functions and VRAND (11 R251 to R258,
18 R379 to R390). -/

namespace Sys2Proof.Machine

/-! ## Descriptors (11 R252) -/

namespace Desc
def kind (d : BitVec 128) : Nat := bits d.toNat 1 0
def span (d : BitVec 128) : Nat := 2 ^ bits d.toNat 3 2
def ew (d : BitVec 128) : Nat := bits d.toNat 5 4
def busy (d : BitVec 128) : Bool := d.getLsbD 6
def owned (d : BitVec 128) : Bool := d.getLsbD 14
def owner (d : BitVec 128) : Nat := bits d.toNat 13 8
def sh (d : BitVec 128) : Int := signed 8 (bits d.toNat 39 32)
def x0 (d : BitVec 128) : Nat := bits d.toNat 95 64
def yend (d : BitVec 128) : Nat := bits d.toNat 127 96
/-- Entries of the table (11 R252). -/
def count (d : BitVec 128) : Nat := span d * 16384 / 2 ^ ew d
end Desc

namespace State

/-- The descriptor of a slot of a core. -/
def tdesc (s : State) (c slot : Nat) : BitVec 128 :=
  if 60 ≤ slot then builtinDesc slot else ((s.core c).tslots[slot]?.map (·.desc)).getD 0

/-- BUSY (18 R383): a queued TLOAD names the slot, the strands whose queue is saved included, or a load whose span
holds it has started. -/
def slotBusy (s : State) (c slot : Nat) : Bool :=
  Desc.busy (s.tdesc c slot) ||
  (s.core c).ctxs.toList.any (fun x => x.tableQ.any (·.slot.toNat == slot)) ||
  s.strands.any (fun t => t.core == c && t.st != .done && t.image.tableQ.any (·.slot.toNat == slot)) ||
  (match (s.core c).tload with | some r => r.slot.toNat == slot | none => false)

/-- A slot owned by a session other than `sess` (11 R253). -/
def slotForeign (s : State) (c slot sess : Nat) : Bool :=
  Desc.owned (s.tdesc c slot) && Desc.owner (s.tdesc c slot) != sess

/-- Entry `i` of the table whose first slot is `slot` (11 R254). -/
def tableEntry (s : State) (c slot i : Nat) : Nat :=
  if 60 ≤ slot then builtinEntry slot i
  else
    let n := 2 ^ Desc.ew (s.tdesc c slot)
    s.readNat (tableHome c slot + i * n) n

/-- What `f` puts to land is table work in flight until it does (03 R73), and its read meets the errors of the entries of a
table of `n` slots (11 R261). -/
def tableWork (s : State) (slot n : Nat) (f : State → State) : State :=
  let k := s.cur.pend.length
  let table (p : Pend) : Pend := { p with table := true }
  ((f s).modCur fun c => { c with pend := c.pend.take k ++ (c.pend.drop k).map table }).meet (tableHome s.curCore slot) (16384 * n)

/-- The checks and the hold of a query or TINFO (11 R255, 18 R385), and then its effect. -/
def tableUse (s : State) (tb : BitVec 6) (good : BitVec 128 → Bool) (f : State → BitVec 128 → State) : State :=
  let d := s.tdesc s.curCore tb.toNat
  if s.slotBusy s.curCore tb.toNat then s.outcome .held
  else if s.slotForeign s.curCore tb.toNat s.curSess ∨ Desc.kind d = 0 then s.trap 0x14
  else if !good d then s.trap 0x0B
  else f s d

/-- A query. -/
def query (s : State) (tb : BitVec 6) (good : BitVec 128 → Bool) (f : State → BitVec 128 → State) : State :=
  s.tableUse tb good fun s d => s.tableWork tb.toNat (Desc.span d) fun s => f s d

end State

/-! ## Queries -/

/-- TQ: lanes of the wider of the entry and the index (11 R256). -/
def execTq (q : BitVec 3) (d a t : BitVec 6) (e : BitVec 2) (w : BitVec 1) (s : State) : Out :=
  .next (s.query t (fun x => Desc.kind x == 1 && Desc.ew x == e.toNat) fun s x =>
    let iw := 8 * (w.toNat + 1)
    let l := Nat.max (8 * 2 ^ e.toNat) iw
    let r := (elems l (s.cur.rv a)).map fun v => s.tableEntry s.curCore t.toNat (v % 2 ^ iw % Desc.count x)
    s.putLine d.toNat (ofElems l r) (s.cur.rq q) 6)

/-- TQP: 512 pairs of nibbles of va, va + 1 (11 R257). -/
def execTqp (q : BitVec 3) (d a t : BitVec 6) (s : State) : Out :=
  .next (s.query t (fun x => Desc.kind x == 2) fun s _ =>
    let r := List.zipWith (fun x y => s.tableEntry s.curCore t.toNat (y * 16 + x))
      (elems 4 (s.cur.rv a)) (elems 4 (s.cur.rv (a + 1)))
    (s.putLine d.toNat (ofElems 8 (r.take 256)) (s.cur.rq q) 6).putLine (d.toNat + 1)
      (ofElems 8 (r.drop 256)) (s.cur.rq q) 6)

/-- The lane format of code `e` (18 R379). -/
def xFmt (e : BitVec 2) : FFmt := if e = 1 then f16F else f32F

/-- One lane of TQI (11 R258). -/
def tqiLane (f : FFmt) (x : BitVec 128) (entry : Nat → FVal) (v : Nat) : Nat × BitVec 5 :=
  let yend := f32F.decode (Desc.yend x)
  match f.decode v with
  | .nan b => nanOf f b
  | .inf n => fnRound f (selected (if n then entry 0 else yend))
  | .fin n m e =>
    match f32F.decode (Desc.x0 x) with
    | .fin n0 m0 e0 =>
      let u := addFin .rne n m e (!n0) m0 e0
      let ex := u.2.2 + Desc.sh x
      if u.1 ∧ u.2.1 ≠ 0 then fnRound f (selected (entry 0))
      else if Desc.count x * 2 ^ (-ex).toNat ≤ u.2.1 * 2 ^ ex.toNat then fnRound f (selected yend)
      else fnRound f (interpAt entry yend (Desc.count x) u.2.1 ex)
    | _ => nanOf f false

/-- An element-wise function of the X slot. -/
def xMap (q : BitVec 3) (d a : BitVec 6) (f : FFmt) (lat : Nat) (g : Nat → Nat × BitVec 5) (s : State) : State :=
  let r := (elems f.w (s.cur.rv a)).map g
  s.putLine d.toNat (ofElems f.w (r.map (·.1))) (s.cur.rq q) lat (orFlags (enabled f.w (s.cur.rq q)) (r.map (·.2)))

def execTqi (q : BitVec 3) (d a t : BitVec 6) (e : BitVec 2) (s : State) : Out :=
  .next (s.query t (fun x => Desc.kind x == 3) fun s x =>
    xMap q d a (xFmt e) 8 (tqiLane (xFmt e) x fun k => f32F.decode (s.tableEntry s.curCore t.toNat k)) s)

/-! ## TLOAD and TINFO (18 R383, R385) -/

/-- TLOAD: the checks in their order, then an entry of the context's table queue; the release is of every class at
device scope (08 R205). -/
def execTload (a t : BitVec 6) (s : State) : Out :=
  let p := s.cur.rg a
  .next (
    let space := bits p.toNat 63 60
    if (ptrOf s.ncores p).isNone ∨ 1 < space then s.trapWith 0x05 0 p
    else if p % 64 ≠ 0 then s.trapWith 0x0C 0 p
    else if 60 ≤ t.toNat ∨ s.slotForeign s.curCore t.toNat s.curSess then s.trap 0x14
    else if 8 ≤ s.cur.tableQ.length then s.outcome .held
    else
      let (n, s) := s.nextSeq
      s.modCur fun c => { c with
        tableQ := c.tableQ ++ [{ ptr := p, slot := t, rel := { mask := 0xFFFF, scope := 1, before := n }, seq := n }] })

/-- TINFO: the descriptor in bytes [15:0], zero above; written whole. -/
def execTinfo (d t : BitVec 6) (s : State) : Out :=
  .next (s.tableUse t (fun _ => true) fun s x =>
    s.putLine d.toNat (x.setWidth 2048) (BitVec.allOnes 256) 4)

/-! ## Special functions (18 R386 to R389) -/

def execRcp (q : BitVec 3) (d a : BitVec 6) (e : BitVec 2) (s : State) : Out :=
  .next (xMap q d a (xFmt e) 8 (fnRcp (xFmt e)) s)
def execRsq (q : BitVec 3) (d a : BitVec 6) (e : BitVec 2) (s : State) : Out :=
  .next (xMap q d a (xFmt e) 8 (fnRsq (xFmt e)) s)
def execExp2 (q : BitVec 3) (d a : BitVec 6) (e : BitVec 2) (s : State) : Out :=
  .next (s.tableWork 60 1 (xMap q d a (xFmt e) 8 (fnExp2 (xFmt e))))
def execLog2 (q : BitVec 3) (d a : BitVec 6) (e : BitVec 2) (s : State) : Out :=
  .next (s.tableWork 61 1 (xMap q d a (xFmt e) 8 (fnLog2 (xFmt e))))
def execSinpi (q : BitVec 3) (d a : BitVec 6) (e : BitVec 2) (s : State) : Out :=
  .next (xMap q d a (xFmt e) 10 (fnSinpi (xFmt e)) s)
def execCospi (q : BitVec 3) (d a : BitVec 6) (e : BitVec 2) (s : State) : Out :=
  .next (xMap q d a (xFmt e) 10 (fnCospi (xFmt e)) s)

/-! ## VRAND (18 R390) -/

/-- The 2,048 bits B: output j in bytes 8j to 8j + 7. -/
def randBits (os : List DWord) : Line := ofElems 64 (os.map (·.toNat))

/-- k × 2^-frac as an encoding, exact. -/
def randFrac (f : FFmt) (frac k : Nat) : Nat := fnRound f (.fin false k (-(frac : Int))) |>.1

def execVrand (q : BitVec 3) (d : BitVec 6) (e : BitVec 2) (s : State) : Out :=
  let (os, a, b) := rngSteps 32 s.cur.sys.rseed0 s.cur.sys.rseed1
  let s := s.modCur fun c => { c with sys := { c.sys with rseed0 := a, rseed1 := b } }
  let x := randBits os
  let r := match e.toNat with
    | 0 => x
    | 1 => ofElems 16 ((elems 16 x).map fun v => randFrac f16F 10 (v % 1024))
    | _ => ofElems 32 ((elems 32 x).map fun v => randFrac f32F 24 (v % 16777216))
  .next (s.putLine d.toNat r (s.cur.rq q) 2)

end Sys2Proof.Machine
end

