-- ==== Sys2Proof/Machine/TableLoad.lean ====
section
/-! DEFINITION. The table loader (11 R253, R254, 18 R383, R384), the refresh of the tiers (11 R261) and the timeout of
suspended commands (12 R268). -/

namespace Sys2Proof.Machine

/-- The descriptor of a slot that a session owns and that holds no table. -/
def emptyOwned (sess : Nat) : BitVec 128 := BitVec.ofNat 128 (sess % 64 * 256 + 0x4000)

/-- A header keeps 11 R252: only KIND, SPAN, EW, SH, X0 and YEND may be nonzero. -/
def headerOk (d : BitVec 128) : Bool :=
  let x := d.toNat
  bits x 31 6 == 0 && bits x 63 40 == 0 && Desc.kind d != 0 && bits x 3 2 != 3 && bits x 5 4 != 3 &&
    (match Desc.kind d with
     | 1 => true
     | 2 => bits x 5 2 == 0
     | _ => bits x 5 4 == 2 && (match f32F.decode (Desc.x0 d) with | .fin _ _ _ => true | _ => false))

namespace State

def modSlots (s : State) (c : Nat) (f : Nat → BitVec 128 → BitVec 128) : State :=
  s.modCore c fun k => { k with tslots := k.tslots.mapFinIdx fun i d _ => { desc := f i d.desc } }

/-- The header allows the load at slot `tb` for a session (18 R384). -/
def loadOk (s : State) (c tb sess : Nat) (d : BitVec 128) : Bool :=
  let n := Desc.span d
  headerOk d && tb % n == 0 && decide (tb + n ≤ 60) &&
    (List.range n).all fun k => !s.slotForeign c (tb + k) sess

/-- The span of the load: its slots owned and empty, BUSY as given (11 R254). -/
def spanEmpty (s : State) (c tb sess n : Nat) (busy : Bool) : State :=
  s.modSlots c fun i d => if tb ≤ i ∧ i < tb + n then emptyOwned sess ||| (if busy then 0x40 else 0) else d

/-- Other tables of the session that overlap the span become empty and stay owned. -/
def emptyOverlaps (s : State) (c tb sess n : Nat) : State :=
  let meets (i : Nat) (d : BitVec 128) : Bool :=
    Desc.kind d != 0 && decide (i < tb + n) && decide (tb < i + Desc.span d)
  s.modSlots c fun i d => if meets i d then emptyOwned sess else d

def setLoad (s : State) (c : Nat) (r : Option TLoadRun) : State := s.modCore c fun k => { k with tload := r }

/-- A load that fails: before its header has been accepted it changes no slot, after that its span is empty. -/
def failLoad (s : State) (c : Nat) (r : TLoadRun) : State :=
  let s := s.setLoad c none
  match r.hdr with
  | none => s
  | some d => s.spanEmpty c r.slot.toNat r.sess (Desc.span d) false

/-- A failed check of the loader's reads: a translation fault suspends the load (11 R254). -/
def loadDenied (s : State) (c : Nat) (r : TLoadRun) (d : Denied) : State :=
  if d.code = 0x06 then
    (s.setLoad c (some { r with suspended := some (s.now, d.eva) })).engineFault r.sess c 2 0 d.eva
  else s.failLoad c r

/-- A read of the loader, `n` bytes at an offset of its image: waits and failures are dealt with; `k` gets the bytes. -/
def loaderRead (s : State) (c : Nat) (r : TLoadRun) (off n : Nat) (k : State → List Byte → State) : State :=
  let (ps, _, bad) := s.checkRange r.sess .engRead (n / 256 + 2) (r.ptr + BitVec.ofNat 64 off) 0 n
  match bad with
  | some d => s.loadDenied c r d
  | none =>
    if ps.any s.pieceWaits then s
    else match s.engineRead r.sess n r.src ps with
      | (.wait q, s) => s.setLoad c (some { r with src := q })
      | (.failed, s) => s.failLoad c r
      | (.bytes b, s) => k (s.claimArrays r.sess ps) b

/-- The earliest-issued entry of the core's table queues: context and entry (18 R383). -/
def nextLoad (s : State) (c : Nat) : Option (Nat × TQEntry) :=
  (List.range 4).foldl (fun best x =>
    let t := s.ctx c x
    match t.tableQ with
    | [] => best
    | e :: _ =>
      if t.st == .draining || t.st == .loading then best
      else match best with
        | some (y, d) => if e.seq < d.seq then some (x, e) else some (y, d)
        | none => some (x, e)) none

/-- The header is read and checked; BUSY is set on the span, whose overlapping tables are emptied (11 R254). Queries
issued earlier have read their entries, since a query reads when it issues. -/
def loadHeader (s : State) (c : Nat) (r : TLoadRun) : State :=
  s.loaderRead c r 0 16 fun s b =>
    let d := BitVec.ofNat 128 (ofBytes b)
    if s.loadOk c r.slot.toNat r.sess d then
      ((s.emptyOverlaps c r.slot.toNat r.sess (Desc.span d)).spanEmpty c r.slot.toNat r.sess (Desc.span d) true).setLoad c
        (some { r with hdr := some d, src := {}, started := s.now })
    else s.failLoad c r

/-- The loader reads once what its command's release waits for has performed (08 R205, 18 R384). -/
def loadBegin (s : State) (c : Nat) (r : TLoadRun) : State :=
  if r.hdr.isNone ∧ r.suspended.isNone ∧ s.releasedFor r.age r.rel then s.loadHeader c r else s

/-- TLOAD_START. -/
def tloadStart (s : State) (c : Nat) : State :=
  match (s.core c).tload with
  | some r => s.loadBegin c r
  | none => match s.nextLoad c with
    | none => s
    | some (x, e) =>
      let age := (s.ctx c x).strand.getD 0
      let r : TLoadRun := { ctx := x, age := age, sess := ((s.strandOf c x).map (·.sess)).getD 0, slot := e.slot, ptr := e.ptr, rel := e.rel }
      ((s.modCtx c x fun t => { t with tableQ := t.tableQ.tail }).setLoad c (some r)).loadBegin c r

/-- The entry bytes that a load may read now: those of the 64-byte reads of its image before the one that a check refuses, all
that are left where none is refused (11 R254, 12 R269). -/
def loadRun (s : State) (r : TLoadRun) (n : Nat) : Nat :=
  let p := r.ptr + BitVec.ofNat 64 (16 + r.pos)
  match (s.checkRange r.sess .engRead (n / 256 + 2) p 0 n).2.2 with
  | some d => (16 + r.pos + (d.eva - p).toNat) / 64 * 64 - (16 + r.pos)
  | none => n

/-- TLOAD_COMPLETE: the entries are read, the replicas and the descriptor written, BUSY cleared; at least 257, 513 or
1,025 cycles after the start (18 R383). What lies before a faulting read is written, and the load resumes at that read. -/
def tloadComplete (s : State) (c : Nat) : State :=
  match (s.core c).tload with
  | none => s
  | some r => match r.hdr with
    | none => s
    | some d =>
      let n := Desc.span d
      if r.suspended.isSome ∨ s.now < r.started + 256 * n + 1 then s
      else
        let left := n * 16384 - r.pos
        let k := s.loadRun r left
        let part : Bool := decide (0 < k) && decide (k < left)
        s.loaderRead c r (16 + r.pos) (if part then k else left) fun s b =>
          let s := s.write (tableHome c r.slot.toNat + r.pos) b
          if part then s.setLoad c (some { r with src := {}, pos := r.pos + k })
          else
            let desc := (d &&& ~~~0xFFC0) ||| emptyOwned r.sess
            ((s.spanEmpty c r.slot.toNat r.sess n false).modSlots c fun i e =>
              if i = r.slot.toNat then desc else e).setLoad c none

/-- The suspended loads of a session whose fault an operation decides (12 R269). -/
def resolveLoads (s : State) (sess : Nat) (f : DWord → Option Bool) : State :=
  (List.range 128).foldl (fun s c =>
    match (s.core c).tload with
    | some r => match r.suspended with
      | some (_, va) =>
        if r.sess = sess then match f va with
          | some true => s.setLoad c (some { r with suspended := none })
          | some false => s.failLoad c r
          | none => s
        else s
      | none => s
    | none => s) s

end State

def execTloadStart (s : State) : Out := .next (s.tloadStart s.arg.core)
def execTloadComplete (s : State) : Out := .next (s.tloadComplete s.arg.core)

/-- TABLE_REFRESH: it uses replicas that serve no read, and changes nothing that a query sees (11 R261). -/
def execTableRefresh (s : State) : Out := .next s

/-- COPY_FAULT_TIMEOUT: 10 ms after a fault that no MAP has resolved, the command fails (12 R268, R269). Channel 2 is
the table loader. -/
def execCopyFaultTimeout (s : State) : Out :=
  .next (
    let c := s.arg.core
    let late (t : Nat) : Bool := decide (t + Config.faultTimeout ≤ s.now)
    if s.arg.chan < 2 then
      match (s.chan c s.arg.chan).running with
      | some r => match r.suspended with
        | some (t, _) => if late t then s.failCopy c s.arg.chan r.cmd false else s
        | none => s
      | none => s
    else match (s.core c).tload with
      | some r => match r.suspended with
        | some (t, _) => if late t then s.failLoad c r else s
        | none => s
      | none => s)

end Sys2Proof.Machine
end

