-- ==== Sys2Proof/Machine/PageTables.lean ====
section
/-! DEFINITION. The device's writes of translation tables (04 R97, R98), the retirement of pages (04 R112, R113), and
the exchanges of the migration engine (04 R104 to R107). -/

namespace Sys2Proof.Machine

/-- Pages of the page-table area (04 R92). -/
def tablePages : Nat := 32768
def tablePage (i : Nat) : Nat := Config.tableArea + i * 65536

namespace State

/-! ## Table pages (04 R97) -/

def isLevel1 (s : State) (pa : Nat) : Bool := s.sessions.any fun t => t.table == pa && !t.noRoom

/-- The lowest page of the area that is free: no table of any level, and not retired. -/
def freeTable (s : State) : Option Nat :=
  ((List.range tablePages).find? fun i =>
    let p := tablePage i
    !s.tables.contains p && !s.isLevel1 p && !s.retired.contains (p / 65536)).map tablePage

/-- The free pages of the area, as far as two. -/
def freeTwo (s : State) : List Nat :=
  match s.freeTable with
  | none => []
  | some a => match { s with tables := a :: s.tables }.freeTable with
    | none => [a]
    | some b => [a, b]

def takeTable (s : State) (pa : Nat) : State := { s with tables := pa :: s.tables }.zero pa 65536
def dropTable (s : State) (pa : Nat) : State := { s with tables := s.tables.filter (· != pa) }.zero pa 65536

/-- No valid entry is left in a table page. -/
def tableEmpty (s : State) (pa : Nat) : Bool := (s.tableEntries pa).all fun e => !Pte.v e.2

/-- The eight bytes of an entry. -/
def setPte (s : State) (a e : Nat) : State := s.writeNat a 8 e

/-- The 8,192 leaves into which a 512 MiB leaf splits (04 R98). -/
def splitLeaves (e : Nat) : List Byte :=
  (List.range 8192).flatMap fun i => toBytes 8 (e + i * 65536)

/-- The level-2 table of a virtual address; a new one is taken from `free`. -/
def level2 (s : State) (table va : Nat) : Option Nat :=
  let e := s.pte table (bits va 51 42)
  if Pte.ok e false then some (Pte.ppn e * 65536) else none

def addLevel2 (s : State) (table va pa : Nat) : State :=
  (s.takeTable pa).setPte (table + 8 * bits va 51 42) (Pte.table pa)

/-- A table whose last valid entry has gone is freed, and so is the level above it. -/
def prune2 (s : State) (table va : Nat) : State :=
  match s.level2 table va with
  | some t2 => if s.tableEmpty t2 then (s.setPte (table + 8 * bits va 51 42) 0).dropTable t2 else s
  | none => s

def prune3 (s : State) (table va : Nat) : State :=
  match s.level2 table va with
  | some t2 =>
    let a2 := t2 + 8 * bits va 41 29
    let e2 := s.readNat a2 8
    if Pte.ok e2 false ∧ s.tableEmpty (Pte.ppn e2 * 65536) then
      ((s.setPte a2 0).dropTable (Pte.ppn e2 * 65536)).prune2 table va
    else s
  | none => s

/-- A 512 MiB leaf becomes a level-3 table of its pieces, on the page `pa`. -/
def split (s : State) (a2 e2 pa : Nat) : State :=
  (({ s with tables := pa :: s.tables }).write pa (splitLeaves e2)).setPte a2 (Pte.table pa)

/-- MAP of one page; `none` where it needs a table and the area is full. -/
def mapPage (s : State) (table va leaf : Nat) (big : Bool) : Option State :=
  let t2 := s.level2 table va
  let e2 := match t2 with | some t => s.readNat (t + 8 * bits va 41 29) 8 | none => 0
  let need := (if t2.isNone then 1 else 0) + (if big ∨ Pte.ok e2 false then 0 else 1)
  let free := s.freeTwo
  if free.length < need then none
  else
    let s := if t2.isNone then s.addLevel2 table va (free.headD 0) else s
    let t := t2.getD (free.headD 0)
    let a2 := t + 8 * bits va 41 29
    if big then
      let s := if Pte.ok e2 false then s.dropTable (Pte.ppn e2 * 65536) else s
      some (s.setPte a2 leaf)
    else
      let p3 := free.getD (if t2.isNone then 1 else 0) 0
      if Pte.ok e2 false then some (s.setPte (Pte.ppn e2 * 65536 + 8 * bits va 28 16) leaf)
      else
        let s := if Pte.ok e2 true then s.split a2 e2 p3 else (s.takeTable p3).setPte a2 (Pte.table p3)
        some (s.setPte (p3 + 8 * bits va 28 16) leaf)

/-- UNMAP of one page: whether it had been valid, wholly or partly; `none` where its split needs a table and the area
is full. -/
def unmapPage (s : State) (table va : Nat) (big : Bool) : Option (Bool × State) :=
  match s.level2 table va with
  | none => some (false, s)
  | some t2 =>
    let a2 := t2 + 8 * bits va 41 29
    let e2 := s.readNat a2 8
    if big then
      if Pte.ok e2 true then some (true, (s.setPte a2 0).prune2 table va)
      else if Pte.ok e2 false then
        let was := !s.tableEmpty (Pte.ppn e2 * 65536)
        some (was, ((s.setPte a2 0).dropTable (Pte.ppn e2 * 65536)).prune2 table va)
      else some (false, s)
    else if Pte.ok e2 true then
      match s.freeTable with
      | none => none
      | some p3 => some (true, (s.split a2 e2 p3).setPte (p3 + 8 * bits va 28 16) 0)
    else if Pte.ok e2 false then
      let a3 := Pte.ppn e2 * 65536 + 8 * bits va 28 16
      let was := Pte.ok (s.readNat a3 8) true
      some (was, (s.setPte a3 0).prune3 table va)
    else some (false, s)

def pageSize (big : Bool) : Nat := if big then Config.bigPageBytes else 65536

/-- A page of the capacity tier has a 4 KiB granule on the package that has failed whole (03 R74, 04 R94). -/
def onDeadPackage (s : State) (pa size : Nat) : Bool :=
  match s.deadPackage with
  | some k => decide ((k + 48 - pa / 4096 % 48) % 48 < size / 4096)
  | none => false

/-- The physical page is retired: in the tiers on the device (04 R113). -/
def isRetired (s : State) (tier pa size : Nat) : Bool :=
  let base := if tier = 0 then pa else capBase + pa
  (decide (tier ≤ 1) && s.retired.any fun r => decide (base ≤ r * 65536) && decide (r * 65536 < base + size)) ||
    (tier == 1 && onDeadPackage s pa size)

/-- The leaf that a MAP writes (04 R96): `wxmp` holds W, X, M and P. PPN takes the bits of the address that it has room for (DESIGN
CHOICE, log entry 69). -/
def leafOf (wxmp tier link pa : Nat) : Nat := 3 + wxmp * 4 + tier * 64 + link * 256 + bits pa 51 16 * 65536

/-- The leaves of a page are written anew: what exchanges have done to its window is over (08 R192, R209). -/
def unswap (s : State) (sess va size : Nat) : State :=
  { s with swapped := s.swapped.filter fun x => !(x.1 == sess && decide (va / 65536 ≤ x.2) && decide (x.2 * 65536 < va + size)) }

/-- MAP over its pages in ascending order (04 R98): the number of pages mapped. A page keeps the heat that it had when it was mapped
before (DESIGN CHOICE, log entry 69). -/
def mapPages (s : State) (sess table wxmp tier link : Nat) (big : Bool) : Nat → Nat → Nat → Nat → Nat × State
  | 0, _, _, n => (n, s)
  | k + 1, va, pa, n =>
    if s.isRetired tier pa (pageSize big) then (n, s)
    else match s.mapPage table va (leafOf wxmp tier link pa) big with
      | none => (n, s)
      | some s =>
        let rest := s.regionTier.filter fun r => !(r.1 == sess && r.2.1 == va / Config.bigPageBytes)
        let s := State.unswap { s with regionTier := (sess, va / Config.bigPageBytes, tier) :: rest } sess va (pageSize big)
        mapPages s sess table wxmp tier link big k (va + pageSize big) (pa + pageSize big) (n + 1)

/-- UNMAP over its pages (04 R98): the number that had been valid. -/
def unmapPages (s : State) (sess table : Nat) (big : Bool) : Nat → Nat → Nat → Nat × State
  | 0, _, n => (n, s)
  | k + 1, va, n =>
    match s.unmapPage table va big with
    | none => (n, s)
    | some (was, s) =>
      unmapPages (s.unswap sess va (pageSize big)) sess table big k (va + pageSize big) (if was then n + 1 else n)

/-- A level-2 or level-3 table moves to a free page, and the entry that points at it is rewritten (04 R97); `none`
where no page is free. -/
def moveTable (s : State) (pa : Nat) : Option State :=
  if !s.tables.contains pa then some s
  else match s.freeTable with
    | none => none
    | some q =>
      let s := ({ s with tables := q :: s.tables.filter (· != pa) }).write q (s.read pa 65536)
      let points (e : Nat × Nat) : Bool := Pte.ok e.2 false && Pte.ppn e.2 * 65536 == pa
      let fix (s : State) (t : Nat) : State :=
        (s.tableEntries t).foldl (fun s e => if points e then s.setPte (t + 8 * e.1) (Pte.table q) else s) s
      let tops := (s.sessions.filter (!·.noRoom)).map (·.table)
      let seconds := tops.flatMap fun t => (s.tableEntries t).filterMap fun e =>
        if e.1 < 1024 ∧ Pte.ok e.2 false then some (Pte.ppn e.2 * 65536) else none
      some ((tops ++ seconds).foldl fix s)

/-- The tables of a session that ends are free again. -/
def freeTables (s : State) (table : Nat) : State :=
  let seconds := (s.tableEntries table).filterMap fun e =>
    if e.1 < 1024 ∧ Pte.ok e.2 false then some (Pte.ppn e.2 * 65536) else none
  let thirds := seconds.flatMap fun t => (s.tableEntries t).filterMap fun e =>
    if Pte.ok e.2 false then some (Pte.ppn e.2 * 65536) else none
  { s with tables := s.tables.filter fun p => !(seconds ++ thirds).contains p }

/-! ## Retirement of a page (04 R112, R113) -/

/-- The home address of a leaf's frame, where it lies on the device. -/
def leafHome (e : Nat) : Option Nat :=
  match Pte.tier e with
  | 0 => some (Pte.ppn e * 65536)
  | 1 => some (capBase + Pte.ppn e * 65536)
  | _ => none

/-- The page with home address `a` is removed from a session's tables; whether the session mapped it. A 512 MiB leaf is
split first, and cleared whole where no page is free for that. -/
def removePage (s : State) (t : Session) (a : Nat) : Bool × State :=
  let hit (l : Nat × Bool × Nat × Nat) : Bool := match leafHome l.2.2.2 with
    | some h => decide (h ≤ a) && decide (a < h + pageSize l.2.1)
    | none => false
  let ls := (s.leaves t.table).filter hit
  (ls != [], ls.foldl (fun s l =>
    let va := l.1 + (a - (leafHome l.2.2.2).getD 0) / 65536 * 65536
    match s.unmapPage t.table va false with
    | some (_, s) => s
    | none => (s.setPte l.2.2.1 0).prune2 t.table va) s)

/-- A page retires: it leaves every table and the sessions that map it are killed. A page of the page-table area kills
the session that owns the table. -/
def retirePage (s : State) (a : Nat) : State :=
  let s : State := { s with retired := mark s.retired (a / 65536) }
  let owns (t : Session) : Bool :=
    let seconds := (s.tableEntries t.table).map fun e => Pte.ppn e.2 * 65536
    let pages := t.table :: seconds ++ seconds.flatMap fun p => (s.tableEntries p).filterMap fun e =>
      if Pte.ok e.2 false then some (Pte.ppn e.2 * 65536) else none
    pages.contains (a / 65536 * 65536)
  (s.sessions.filter (!·.noRoom)).foldl (fun s t =>
    if Config.tableArea ≤ a ∧ a < Config.hbmBytes then (if owns t then s.killSession t.id else s)
    else
      let (was, s) := s.removePage t (a / 65536 * 65536)
      if was then s.killSession t.id else s) s

/-! ## Heat and migration (04 R104 to R107) -/

def heatAt (s : State) (sess page : Nat) : Nat :=
  ((s.pageHeat.find? fun h => h.1 == sess && h.2.1 == page).map (·.2.2)).getD 0

/-- Every count is shifted right by one. -/
def decay (l : List (Nat × Nat × Nat)) : List (Nat × Nat × Nat) :=
  l.filterMap fun h => if 2 ≤ h.2.2 then some (h.1, h.2.1, h.2.2 / 2) else none

/-- A page that the engine may move: 64 KiB, M set, P clear, in HBM4 or the capacity tier; its leaf. -/
def movable (s : State) (t : Session) (va : Nat) : Option Leaf :=
  match s.walk t.table va with
  | some l => if !l.big && Pte.m l.entry && !Pte.p l.entry && decide (Pte.tier l.entry ≤ 1) && !Pte.mig l.entry then some l else none
  | none => none

def hotFrame (s : State) (e : Nat) : Bool := Pte.tier e == 0 && s.hotChannels.contains (Pte.ppn e % 768)

/-- The coldest HBM4 page of a session among those that `f` admits, with a count of at most 64; ties go to the lower
address. -/
def coldest (s : State) (t : Session) (f : Nat → Bool) : Option Nat :=
  let ok := (s.leaves t.table).filterMap fun l =>
    if !l.2.1 && Pte.m l.2.2.2 && !Pte.p l.2.2.2 && Pte.tier l.2.2.2 == 0 && f l.2.2.2 &&
      decide (s.heatAt t.id (l.1 / 65536) ≤ 64) then some (s.heatAt t.id (l.1 / 65536), l.1) else none
  (ok.find? fun p => ok.all fun q => decide (p.1 < q.1) || (p.1 == q.1 && decide (p.2 ≤ q.2))).map (·.2)

/-- The rules of an exchange of page A with page B: a promotion or a cooling (04 R105). -/
def mayExchange (s : State) (t : Session) (va vb : Nat) : Bool :=
  match s.movable t va, s.movable t vb with
  | some a, some _ =>
    let h := s.heatAt t.id (va / 65536)
    va != vb &&
    (if Pte.tier a.entry = 1 then decide (1024 ≤ h) && s.coldest t (fun _ => true) == some vb
     else s.hotFrame a.entry && decide (256 ≤ h) && s.coldest t (fun e => !s.hotFrame e) == some vb)
  | _, _ => false

/-- The piece lies in a page of space 0x0. -/
def inPage (va : Nat) (p : Piece) : Bool := bits p.va.toNat 63 60 == 0 && p.va.toNat / 65536 == va / 65536

/-- A piece of an access or beat in flight lies in the page of a session, its leaf translated and not waiting. -/
def inFlight (s : State) (sess va : Nat) : Bool :=
  let hit (p : Piece) : Bool := inPage va p && !p.mig
  (List.range 128).any fun c =>
    (List.range 4).any (fun x =>
      ((s.strandOf c x).map (·.sess)) == some sess && (s.ctx c x).accesses.any fun a => !a.posted && a.pieces.any hit) ||
    (List.range 2).any fun h => (s.chan c h).beats.any fun b =>
      b.of.cmd.sess == sess && !b.posted && (b.src ++ b.dst).any hit

/-- The pieces of a session's accesses and beats that wait for something, each as `f` makes it. -/
def mapPieces (s : State) (sess : Nat) (f : Piece → Piece) : State :=
  let acc (a : Access) : Access := { a with pieces := a.pieces.map f }
  let far (r : FarRead) : FarRead := { r with pieces := r.pieces.map f }
  let ctx (t : Ctx) : Ctx :=
    if ((t.strand.bind s.strand?).map (·.sess)) = some sess then
      { t with accesses := t.accesses.map acc, far := t.far.map far }
    else t
  let beat (b : Beat) : Beat := if b.of.cmd.sess = sess then { b with src := b.src.map f, dst := b.dst.map f } else b
  let core (k : Core) : Core := { k with
    ctxs := k.ctxs.mapFinIdx fun _ t _ => ctx t
    chans := k.chans.mapFinIdx fun _ h _ => { h with beats := h.beats.map beat } }
  { s with cores := s.cores.mapFinIdx fun _ k _ => core k }

/-- MIG of a leaf set or cleared. -/
def setMig (s : State) (l : Leaf) (on : Bool) : State :=
  s.setPte l.addr (l.entry - (if Pte.mig l.entry then 4096 else 0) + (if on then 4096 else 0))

/-- The exchange of two pages, if the rules allow it now: it begins, or waits where an access is in flight or where it would
add granules near the limit of an area (03 R78, 04 R105, R107). -/
def tryExchange (s : State) (t : Session) (va vb : Nat) : State :=
  match s.movable t va, s.movable t vb with
  | some a, some b =>
    let frame (l : Leaf) : Piece := { home := .here ((leafHome l.entry).getD 0), off := 0, len := 65536 }
    let x : Exchange := { sess := t.id, va := va, vb := vb }
    if !s.mayExchange t va vb then s
    else if s.inFlight t.id va ∨ s.inFlight t.id vb ∨ s.granuleHold [frame a, frame b] then
      { s with exchanges := s.exchanges ++ [{ x with held := true }] }
    else
      let s := (s.setMig a true).setMig b true
      { s with exchanges := s.exchanges ++ [x] }
  | _, _ => s

/-- PAGE_EXCHANGE: one exchange for each session and 16 on the device. -/
def startExchange (s : State) (sess va vb : Nat) : State :=
  match s.session? sess with
  | none => s
  | some t =>
    if s.ckpt.isSome ∨ s.exchanges.any (·.sess == sess) ∨ 16 ≤ s.exchanges.length then s else s.tryExchange t va vb

/-- The exchanges that wait try again; those that the rules no longer allow are given up. -/
def retryExchanges (s : State) : State :=
  (s.exchanges.filter (·.held)).foldl (fun s x =>
    let s : State := { s with exchanges := s.exchanges.filter (· != x) }
    match s.session? x.sess with
    | some t => s.tryExchange t x.va x.vb
    | none => s) s

/-- The two leaves name each other's frames, the most recent leaves of their regions (04 R108), and their pages' windows stay
what they were (08 R209). -/
def swapLeaves (s : State) (sess : Nat) (a b : Leaf) (va vb : Nat) : State :=
  let place (e f : Nat) : Nat :=
    bits e 5 0 + Pte.tier f * 64 + bits e 11 8 * 256 + bits e 15 13 * 8192 + Pte.ppn f * 65536 + bits e 63 52 * 2 ^ 52
  let s := (s.setPte a.addr (place a.entry b.entry)).setPte b.addr (place b.entry a.entry)
  let flip (l : List (Nat × Nat)) (v : Nat) : List (Nat × Nat) :=
    if l.contains (sess, v / 65536) then l.filter (· != (sess, v / 65536)) else (sess, v / 65536) :: l
  let newest (s : State) (v t : Nat) : State :=
    let r := v / Config.bigPageBytes
    { s with regionTier := (sess, r, t) :: s.regionTier.filter fun x => !(x.1 == sess && x.2.1 == r) }
  let s := newest (newest s va (Pte.tier b.entry)) vb (Pte.tier a.entry)
  if Pte.tier a.entry = Pte.tier b.entry then s else { s with swapped := [va, vb].foldl flip s.swapped }

/-- EXCHANGE_SWAP: the frames' bytes have been exchanged, the leaves name each other's frames, MIG clears, and what waited
goes to the new frames. -/
def endExchange (s : State) (sess : Nat) : State :=
  match s.exchanges.find? fun x => x.sess == sess && !x.held with
  | none => s
  | some x =>
    let s : State := { s with exchanges := s.exchanges.filter (· != x) }
    let go (ha hb : Option Nat) (p : Piece) : Piece :=
      let moved (h : Option Nat) : Home := match h with | some h => .here (h + p.va.toNat % 65536) | none => p.home
      if !p.mig then p
      else if inPage x.va p then { p with home := moved hb, mig := false }
      else if inPage x.vb p then { p with home := moved ha, mig := false }
      else p
    match (s.session? sess).bind (fun t => s.walk t.table x.va), (s.session? sess).bind (fun t => s.walk t.table x.vb) with
    | some a, some b =>
      let ha := (leafHome a.entry).getD 0
      let hb := (leafHome b.entry).getD 0
      let s := (s.meet ha 65536).meet hb 65536
      let ba := s.read ha 65536
      let bb := s.read hb 65536
      let s := ((s.write ha bb).write hb ba).swapLeaves sess a b x.va x.vb
      s.mapPieces sess (go (some ha) (some hb))
    | _, _ => s.mapPieces sess (go none none)

end State

/-- HEAT_DECAY (04 R104). -/
def execHeatDecay (s : State) : Out :=
  .next { s with pageHeat := State.decay s.pageHeat, regionHeat := State.decay s.regionHeat }

/-- PAGE_EXCHANGE (04 R107): the session and the two pages stand in the event's argument. -/
def execPageExchange (s : State) : Out := .next (s.startExchange s.arg.sess s.arg.addr s.arg.addr2)

end Sys2Proof.Machine
end

