-- ==== Sys2Proof/Machine/Ports.lean ====
section
/-! DEFINITION. The host ports: management registers (02 R34 to R38), the admission of command messages (02 R39 to R53,
R58, R482), and the completion ring (02 R54 to R56). -/

namespace Sys2Proof.Machine

/-! ## Command messages (02 R39, R40, R46) -/

namespace Cmd

def type (m : List Byte) : Nat := field m 0 1
def tag (m : List Byte) : DWord := BitVec.ofNat 64 (field m 8 8)
/-- Bytes of the body, from byte `lo`. -/
def arg (m : List Byte) (lo n : Nat) : Nat := field m (32 + lo) n

/-- The length of a type's message (02 R40); 0 for a type that is not listed. -/
def len : Nat → Nat
  | 1 => 160 | 2 => 64 | 3 => 64 | 4 => 64 | 5 => 168 | 6 => 40 | 7 => 40 | 8 => 64 | 9 => 64 | _ => 0

/-- The header keeps R39 and R40. -/
def headerOk (m : List Byte) : Bool :=
  len (type m) != 0 && field m 1 1 == 2 && field m 2 2 == len (type m) && m.length == len (type m) &&
    field m 4 4 == 0 && field m 16 16 == 0

/-- The fields of a body (02 R41, R46): offset, bytes, bits that a field has. The session id of MAP, UNMAP and HANDLE, which
the spec gives as a byte without a range, counts as 6 bits, like that of SESSION, so that an id of 64 or more is malformed
(DESIGN CHOICE, log entry 69). -/
def fields : Nat → List (Nat × Nat × Nat)
  | 1 => [(0, 8, 64), (8, 8, 64), (16, 2, 16), (18, 1, 6), (19, 1, 7), (20, 4, 3), (32, 32, 256), (64, 16, 128)]
  | 2 => [(0, 1, 1), (1, 1, 6), (2, 1, 1), (3, 1, 1), (8, 24, 192)]
  | 3 => [(0, 1, 6), (1, 1, 1), (8, 16, 128), (24, 4, 32), (28, 1, 2), (29, 1, 4), (30, 1, 4)]
  | 4 => [(0, 1, 6), (1, 1, 1), (8, 12, 96)]
  | 5 => [(0, 1, 6), (1, 1, 1), (2, 2, 16), (8, 128, 1024)]
  | 7 => [(0, 1, 1)]
  | 8 => [(0, 1, 8), (4, 4, 32), (8, 12, 96)]
  | 9 => [(0, 1, 8), (8, 12, 96)]
  | _ => []

/-- The Reserved bytes and bits of the body are zero. -/
def bodyClean (m : List Byte) : Bool :=
  let fs := fields (type m)
  (fs.all fun f => decide (arg m f.1 f.2.1 < 2 ^ f.2.2)) &&
    (List.range (m.length - 32)).all fun i =>
      fs.any (fun f => decide (f.1 ≤ i) && decide (i < f.1 + f.2.1)) || arg m i 1 == 0

/-- The session that a command names: LAUNCH, SESSION, MAP, UNMAP, HANDLE. -/
def sess (m : List Byte) : Nat :=
  match type m with
  | 1 => arg m 18 1
  | 2 => arg m 1 1
  | _ => arg m 0 1

def system (m : List Byte) : Bool := arg m 2 1 == 1

/-- A space 0x3 pointer of a command body is valid; port id 0 names the port of arrival (04 R83, R84). -/
def hostPtrOk (p : Nat) : Bool := bits p 63 60 == 3 && bits p 59 54 == 0 && bits p 53 52 != 3

/-- The port and address of a command body's pointer. -/
def hostPtr (port p : Nat) : Nat × Nat := (if bits p 53 52 = 0 then port else bits p 53 52, bits p 51 0)

/-- Which operation a message asks for: the events' order. Messages with an unlisted TYPE count as LAUNCH. -/
def kind (m : List Byte) : Nat :=
  match type m with
  | 2 => if arg m 0 1 = 0 then 1 else 2
  | 3 => 3
  | 4 => 4
  | 5 => if arg m 1 1 = 1 then 6 else 5
  | 6 => 7
  | 7 => 8
  | 8 => 9 + Nat.min (arg m 0 1) 4
  | 9 => 14 + Nat.min (arg m 0 1) 4
  | _ => 0

/-- The event that carries a command message. -/
def event (m : List Byte) : Instr :=
  match kind m with
  | 1 => .sessionCreate | 2 => .sessionDestroy | 3 => .map | 4 => .unmap | 5 => .handleRegister | 6 => .handleRelease
  | 7 => .checkpoint | 8 => .restore | 9 => .queryIdentity | 10 => .querySequence | 11 => .queryFaultLog
  | 12 => .queryHeatMap | 13 => .queryAttestation | 14 => .mgmtReset | 15 => .mgmtFirmwareUpdate
  | 16 => .mgmtCoreMapChange | 17 => .mgmtPowerCap | 18 => .mgmtTimeRoot | _ => .launch

/-- The dependence words that name a command: PORT and SEQ (02 R42). -/
def deps (m : List Byte) : List (Nat × Nat) :=
  ((List.range 4).map fun k => arg m (32 + 8 * k) 8).filterMap fun w => if w = 0 then none else some (bits w 63 62, bits w 61 0)

end Cmd

/-- The rules of a handle descriptor (04 R110, 02 R46). -/
def handleOk (x : Nat) : Bool :=
  let fmt := bits x 67 64
  let n := bits x 70 68
  let pad := bits x 127 96
  let nan : Bool := match fmt with
    | 0 | 14 => (f32F.decode pad).isNan
    | 1 => (bf16F.decode pad).isNan
    | 2 => (f16F.decode pad).isNan
    | 3 => (e4m3F.decode pad).isNan
    | 4 => (e5m2F.decode pad).isNan
    | _ => false
  fmt != 15 && decide (1 ≤ n) && decide (n ≤ 6) && bit x 71 == 0 && bits x 79 75 == 0 && bits x 95 80 == 0 &&
    decide (bits x 63 60 ≤ 1) && decide (bits x 703 700 ≤ 1) && decide (bits x 74 72 < n) &&
    (!isBlock fmt || pad == 0) && !nan &&
    bits x 1023 704 == 0 &&
    (List.range 6).all fun d =>
      (if d < n then bits x (128 + 32 * d + 31) (128 + 32 * d) != 0 else bits x (128 + 32 * d + 31) (128 + 32 * d) == 0) &&
      (d == 0 || decide (d < n) || bits x (320 + 64 * (d - 1) + 63) (320 + 64 * (d - 1)) == 0)

namespace State

/-! ## The journal (02 R50 to R52) -/

def entry? (s : State) (p q : Nat) : Option Journal := s.journal.find? fun j => j.port == p && j.sq == q
def modEntry (s : State) (p q : Nat) (f : Journal → Journal) : State :=
  { s with journal := s.journal.map fun j => if j.port = p ∧ j.sq = q then f j else j }

/-- An entry is in use until a checkpoint covers it and its completion is posted (02 R51). -/
def journalUsed (s : State) : Nat := (s.journal.filter fun j => !(j.covered && j.posted.isSome)).length
def journalMax : Nat := 4_194_304

/-- The journal's own view of sessions: every SESSION command accepted counts (02 R482): number, SYSTEM, table. One whose
effect a RESTORE with REPLAY 0 has undone or discarded counts no more (DESIGN CHOICE, log entry 69). -/
def journalSessions (s : State) : List (Nat × Bool × Nat) :=
  (s.journal.filter fun j => !j.effected && Cmd.type j.cmd == 2).foldl (fun (l : List (Nat × Bool × Nat)) j =>
    let id := Cmd.sess j.cmd
    let rest := l.filter (·.1 != id)
    if Cmd.arg j.cmd 0 1 = 0 then rest ++ [(id, Cmd.system j.cmd, Cmd.arg j.cmd 8 8)] else rest)
    (s.sessions.map fun t => (t.id, t.system, t.table))

/-- The handles of a session in the journal's view: registers and releases accepted count. A SESSION destroy that has been
accepted and has not taken effect does not count against them (DESIGN CHOICE, log entry 69). -/
def journalHandle (s : State) (sess n : Nat) : Bool :=
  (s.journal.filter fun j => !j.effected && Cmd.type j.cmd == 5 && Cmd.sess j.cmd == sess && Cmd.arg j.cmd 2 2 == n).foldl
    (fun _ j => Cmd.arg j.cmd 1 1 == 0) (s.handles.any fun h => h.1 == sess && h.2.1 == n)

/-! ## Responses (02 R53) -/

def respond (s : State) (p : Nat) (m : List Byte) (sq status flags : Nat) : State :=
  s.toHost p 1 (toBytes 8 (Cmd.tag m).toNat ++ toBytes 8 sq ++ toBytes 1 status ++ toBytes 1 (Cmd.type m) ++
    toBytes 1 flags ++ toBytes 5 0 ++ toBytes 8 s.epoch.toNat)

/-! ## The checks of a command (02 R482) -/

/-- Step 4: the rules of a body whose outcome is BADFORMAT. A MAP of 0 pages, where the spec says 'at least 1' and states no
outcome, is one of them; a save pool whose base has another space than 0x0 is not (DESIGN CHOICE, log entry 69). -/
def badBody (s : State) (m : List Byte) : Bool :=
  let a := Cmd.arg m
  !Cmd.bodyClean m ||
  (match Cmd.type m with
   | 2 =>
     a 0 1 == 0 &&
       (a 24 8 % 131072 != 0 || (a 3 1 == 1 && decide (a 24 8 < 0x2000_0000 + 131072)) ||
        decide (a 8 8 < Config.tableArea) || decide (Config.hbmBytes ≤ a 8 8) || a 8 8 % 65536 != 0 ||
        s.journalSessions.any fun t => t.1 != Cmd.sess m && t.2.2 == a 8 8)
   | 3 =>
     let size := pageSize (a 1 1 == 1)
     let span := a 24 4 * size
     a 24 4 == 0 || a 8 8 % size != 0 || a 16 8 % size != 0 || decide (2 ^ 52 < a 8 8 + span) ||
       (match a 28 1 with
        | 0 => decide (Config.tableArea < a 16 8 + span)
        | 1 => decide (Config.capBytes < a 16 8 + span)
        | _ => false) ||
       (match a 28 1 with
        | 2 => a 30 1 != 1 && a 30 1 != 2
        | 3 => false
        | _ => a 30 1 != 0)
   | 4 =>
     let size := pageSize (a 1 1 == 1)
     a 8 8 % size != 0 || decide (2 ^ 52 < a 8 8 + a 16 4 * size)
   | 8 => decide (4 < a 0 1) || !Cmd.hostPtrOk (a 8 8)
   | 9 =>
     decide (4 < a 0 1) || ((a 0 1 == 1 || a 0 1 == 2) && !Cmd.hostPtrOk (a 8 8)) ||
       (a 0 1 == 3 && (decide (a 16 4 < 600) || decide (1600 < a 16 4))) || (a 0 1 == 4 && decide (1 < a 16 4))
   | _ => false)

/-- Step 5 (02 R36, R40). -/
def needsBurgee (m : List Byte) : Bool :=
  match Cmd.type m with
  | 2 => Cmd.system m
  | 6 | 7 | 9 => true
  | _ => false

/-- Step 6: the status that rejects a LAUNCH (02 R43), or a command of a session. -/
def badTarget (s : State) (m : List Byte) : Option Nat :=
  let t := s.journalSessions.find? (·.1 == Cmd.sess m)
  match Cmd.type m with
  | 1 =>
    let high (p : Nat) : Nat := (s.port p).highest
    let deps := Cmd.deps m
    match t with
    | none => some 0x13
    | some t =>
      if 120 ≤ Cmd.arg m 19 1 ∧ !t.2.1 then some 0x12
      else if 2 ^ s.ncores ≤ Cmd.arg m 64 16 then some 0x14
      else if deps.any fun d => d.1 == 0 || d.1 == 3 || d.2 == 0 || decide (high d.1 < d.2) then some 0x15
      else if deps.any fun d => decide (d.2 + 2 ^ 20 < high d.1) then some 0x16
      else none
  | 2 => if t.isSome = (Cmd.arg m 0 1 == 0) then some 0x13 else none
  | 3 | 4 => if t.isNone then some 0x13 else none
  | 5 =>
    if t.isNone then some 0x13
    else if Cmd.arg m 1 1 = 0 ∧ (!handleOk (Cmd.arg m 8 128) ∨ s.journalHandle (Cmd.sess m) (Cmd.arg m 2 2)) then some 0x17
    else none
  | _ => none

/-- The status that rejects a command at steps 4 to 7, in their order. -/
def rejects (s : State) (p : Nat) (m : List Byte) : Option Nat :=
  if s.badBody m then some 0x10
  else if needsBurgee m ∧ s.burgee.toNat ≠ p then some 0x11
  else match s.badTarget m with
    | some c => some c
    | none => if journalMax ≤ s.journalUsed then some 0x18 else none

/-- An accepted command of the last 2^20 of its port with the same TAG (02 R52). -/
def sameTag (s : State) (p : Nat) (m : List Byte) : Option Nat :=
  ((s.port p).tags.find? fun t => t.1 == Cmd.tag m && decide ((s.port p).highest < t.2 + 2 ^ 20)).map (·.2)

/-- A command is accepted (02 R49, R50): its journal entry, then its RESPONSE. -/
def accept (s : State) (p : Nat) (m : List Byte) : State :=
  let q := (s.port p).highest + 1
  let s := s.modPort p fun t => { t with highest := q, tags := (Cmd.tag m, q) :: t.tags }
  let s : State := { s with journal := s.journal ++ [{ port := p, sq := q, tag := Cmd.tag m, cmd := m }] }
  s.respond p m q 0x01 0

/-! ## Completions (02 R54 to R56) -/

/-- The record of a completed entry, without PHASE. -/
def recordOf (j : Journal) : List Byte :=
  toBytes 8 j.sq ++ toBytes 8 j.tag.toNat ++ toBytes 1 (Cmd.type j.cmd) ++ toBytes 1 ((j.final.getD 0).toNat) ++
    toBytes 1 (if j.replayed then 2 else 0) ++ toBytes 1 0 ++ toBytes 4 j.detail ++ toBytes 8 j.cyc.toNat

/-- A command completes: its record waits for a ring position, unless one has been posted before a restart (02 R62). -/
def complete (s : State) (p q status detail : Nat) : State :=
  match s.entry? p q with
  | none => s
  | some j =>
    if j.final.isSome then s
    else
      let j : Journal := { j with effected := true, final := some (BitVec.ofNat 8 status), cyc := s.cyc,
                                  detail := Nat.min detail 0xFFFF_FFFF }
      let s := s.modEntry p q fun _ => j
      if j.posted.isSome ∨ (s.port p).waiting.any (·.1 == q) then s
      else s.modPort p fun t => { t with waiting := t.waiting ++ [(q, recordOf j)] }

/-- *d* of 02 R55: the lowest ring position not yet marked done. -/
def firstOpen (t : Port) : Nat := match t.notDone with | [] => t.nextPos | x :: _ => x.1

/-- The DATA message that writes a record at a ring position (02 R55, R60). -/
def ringMsg (t : Port) (x : Nat) (r : List Byte) : List Byte :=
  toBytes 8 (t.crbase.toNat + 32 * (x % t.crsize.toNat)) ++ toBytes 2 32 ++ toBytes 6 0 ++ r

/-- A record with PHASE for its position. -/
def phased (t : Port) (x : Nat) (r : List Byte) : List Byte :=
  r.take 18 ++ [BitVec.ofNat 8 ((r.getD 18 0).toNat + (x / t.crsize.toNat + 1) % 2)] ++ r.drop 19

/-- The write of a position leaves; its SEQ stands with the position until it is acknowledged. -/
def sendRecord (s : State) (p x : Nat) (m : List Byte) : State :=
  let (s, f) := s.sendNow (portLink p) 2 m
  let seqed (y : Nat × List Byte × Option (BitVec 32)) : Nat × List Byte × Option (BitVec 32) :=
    if y.1 = x then (y.1, y.2.1, some f) else y
  s.modPort p fun t => { t with notDone := t.notDone.map seqed }

/-- COMPLETION_POST: after a restart the positions that are not done are written again, with identical bytes (02 R56); then
the first waiting record gets its position and is written to the ring, where there is a ring and room, and not in Pennant
state (02 R38, R55, R58). -/
def post (s : State) (p : Nat) : State :=
  let t := s.port p
  let n := t.crsize.toNat
  if s.mode = .pennant then s
  else match t.notDone.find? fun x => x.2.2.isNone with
    | some x =>
      let m := ringMsg t x.1 x.2.1
      if s.linkFits (portLink p) m then s.sendRecord p x.1 m else s
    | none => match t.waiting with
      | [] => s
      | (q, r) :: rest =>
        let x := t.nextPos
        let r := phased t x r
        if n = 0 ∨ t.crcons.toNat + n ≤ x ∨ firstOpen t + n ≤ x ∨ !s.linkFits (portLink p) (ringMsg t x r) then s
        else
          let s := s.modPort p fun t => { t with waiting := rest, nextPos := x + 1, notDone := t.notDone ++ [(x, r, none)] }
          (s.modEntry p q fun j => { j with posted := some x }).sendRecord p x (ringMsg t x r)

/-- After a restart no position that is not done has been written. -/
def repost (s : State) (p : Nat) : State :=
  s.modPort p fun t => { t with notDone := t.notDone.map fun x => (x.1, x.2.1, none) }

/-! ## Management registers (02 R34 to R38) -/

/-- STATE (02 R37). -/
def stateReg (s : State) : Nat :=
  (match s.mode with | .bringUp => 0 | .ready => 1 | .pennant => 2 | .restarting => 3) + 4 * s.timeOk.toNat

/-- The value of a register, read by port `p`. -/
def regValue (s : State) (p off : Nat) : Nat :=
  match off with
  | 0x00 => s.burgee.toNat
  | 0x08 => p
  | 0x10 => s.stateReg
  | 0x18 => s.epoch.toNat
  | 0x20 => (s.port p).crbase.toNat
  | 0x28 => (s.port p).crsize.toNat
  | 0x30 => (s.port p).crcons.toNat
  | _ => 0

def powerOfTwo (x : Nat) : Bool := (List.range 17).any fun k => x == 2 ^ k

/-- A register is written. -/
def regWrite (s : State) (p off v : Nat) : State :=
  let t := s.port p
  match off with
  | 0x00 => if bits v 1 0 = 0 ∧ s.burgee.toNat = p then { s with burgee := 0 } else s
  | 0x20 =>
    if t.notDone ≠ [] ∨ v % 64 ≠ 0 then s
    else s.modPort p fun t => { t with crbase := BitVec.ofNat 64 v, nextPos := 0 }
  | 0x28 =>
    if t.notDone ≠ [] ∨ v < 64 ∨ 65536 < v ∨ !powerOfTwo v then s
    else s.modPort p fun t => { t with crsize := BitVec.ofNat 64 v, nextPos := 0 }
  | 0x30 => s.modPort p fun t => { t with crcons := BitVec.ofNat 64 v }
  | _ => s

/-- A register is read: BURGEE is taken where it is free (02 R35). -/
def regRead (s : State) (p off : Nat) : State :=
  if off = 0 ∧ s.burgee = 0 then { s with burgee := BitVec.ofNat 2 p } else s

def registerOk (m : List Byte) : Bool :=
  m.length == 24 && decide (field m 0 1 ≤ 1) && field m 1 7 == 0 && field m 10 6 == 0

/-- A malformed message: an EVENT of KIND 3 to its port (02 R33, R34, R59). -/
def malformed (s : State) (p : Nat) (m : List Byte) : State :=
  s.event p 3 0x10 (BitVec.ofNat 64 (field (padTo 8 m) 0 8)) []

/-- Which event carries a register message: a read of BURGEE, a write of it, a write of CRBASE, of CRSIZE, or any other. -/
def registerKind (m : List Byte) : Nat :=
  if !registerOk m then 4
  else match field m 8 2, field m 0 1 with
    | 0, 0 => 0
    | 0, _ => 1
    | 0x20, 1 => 2
    | 0x28, 1 => 3
    | _, _ => 4

/-- In Pennant state a request of a port within 100 µs of the last is refused (02 R58). -/
def tooSoon (s : State) (last : Option Nat) : Bool :=
  match last with
  | some t => decide (s.now < t + 110_000)
  | none => false

/-- A class 3 message of a port and its reply (02 R34); in Pennant state reads alone, at their rate (02 R58): one that comes too
soon gets a RESPONSE with BUSY, of TAG, TYPE and SEQ 0 (DESIGN CHOICE, log entry 76). -/
def registerAccess (s : State) (p : Nat) (m : List Byte) : State :=
  if !registerOk m then s.malformed p m
  else
    let off := field m 8 2
    let reply (s : State) : State := s.toHost p 3 (m.take 16 ++ toBytes 8 (s.regValue p off))
    if s.mode = .pennant then
      if field m 0 1 = 1 then s
      else if s.tooSoon (s.port p).lastRead then s.respond p (List.replicate 32 0) 0 0x18 0
      else reply ((s.modPort p fun t => { t with lastRead := some s.now }).regRead p off)
    else reply (if field m 0 1 = 1 then s.regWrite p off (field m 16 8) else s.regRead p off)

/-- The event of a register message, where it is of that kind. -/
def registerEvent (s : State) (k : Nat) : State :=
  if registerKind s.arg.msg = k ∧ (s.arg.port = 1 ∨ s.arg.port = 2) then s.registerAccess s.arg.port s.arg.msg else s

end State

/-! ## Events of the registers and the ring: the port and the message stand in the event's argument -/

def execBurgeeRead (s : State) : Out := .next (s.registerEvent 0)
def execBurgeeWrite (s : State) : Out := .next (s.registerEvent 1)
def execCrbaseWrite (s : State) : Out := .next (s.registerEvent 2)
def execCrsizeWrite (s : State) : Out := .next (s.registerEvent 3)
def execRegisterWrite (s : State) : Out := .next (s.registerEvent 4)
def execCompletionPost (s : State) : Out :=
  .next (if s.arg.port = 1 ∨ s.arg.port = 2 then s.post s.arg.port else s)

end Sys2Proof.Machine
end

