-- ==== Sys2Proof/Machine/Flash.lean ====
section
/-! DEFINITION. What lies in on-package flash: firmware images, the configuration record and the mapping out of damaged parts,
the device identity and the attestation report (01 R9, R10, 03 R66 to R70, R74). -/

namespace Sys2Proof.Machine

/-! ## Firmware images (03 R66, R67) -/

def Flash.bank (f : Flash) (c b : Nat) : FlashBank :=
  let x := f.banks.getD c ({}, {})
  if b = 0 then x.1 else x.2

def Flash.running (f : Flash) (c : Nat) : FlashBank := f.bank c (f.runs.getD c 0)

/-! ## Damaged parts -/

/-- A part as a configuration record names it, and back (DESIGN CHOICE, log entry 4). -/
def Damage.code : Damage → Nat × Nat × Nat × Nat
  | .array c l p => (0, c, l, p)
  | .elevator c => (1, c, 0, 0)
  | .tables c => (2, c, 0, 0)
  | .layer c l => (3, c, l, 0)
  | .bank t p b => (4, t, p, b)
  | .capBank k b => (5, k, b, 0)

def damageOf : Nat × Nat × Nat × Nat → Option Damage
  | (0, c, l, p) => some (.array c l p)
  | (1, c, _, _) => some (.elevator c)
  | (2, c, _, _) => some (.tables c)
  | (3, c, l, _) => some (.layer c l)
  | (4, t, p, b) => some (.bank t p b)
  | (5, k, b, _) => some (.capBank k b)
  | _ => none

/-- UNIT, INDEX and PLACE of a part in the fault log (03 R75). -/
def Damage.unit : Damage → Nat × Nat × Nat
  | .array c l p => (4, c, State.placeOf l p)
  | .elevator c => (5, c, 0)
  | .tables c => (3, c, 0)
  | .layer c l => (4, c, State.placeOf l 0)
  | .bank t p b => (1, t, State.placeOf p b)
  | .capBank k b => (2, k, State.placeOf 0 b)

/-- The part that a lasting fault of a UNIT, INDEX and PLACE is of (03 R74). -/
def partOf (unit index place : Nat) : Option Damage :=
  match unit with
  | 1 => some (.bank index (place % 256) (place / 256))
  | 2 => some (.capBank index (place / 256))
  | 3 => some (.tables index)
  | 4 => some (.array index (place % 256) (place / 256))
  | 5 => some (.elevator index)
  | _ => none

namespace State

/-- A bank of a class can run: its image verifies, and its version is not below the counter. -/
def bankRuns (s : State) (c b : Nat) : Bool :=
  (s.flash.bank c b).sound && !s.found.badBanks.contains (c, b) &&
    decide (s.flash.counters.getD c 0 ≤ (s.flash.bank c b).version)

/-- The bank that start-up takes: the active one first, the other second. -/
def bankFor (s : State) (c : Nat) : Option Nat :=
  let a := s.flash.active.getD c 0
  if s.bankRuns c a then some a else if s.bankRuns c (1 - a) then some (1 - a) else none

/-- Step 2 of start-up; `none` where no bank of some class verifies. -/
def runImages (s : State) : Option State :=
  let rs := (List.range 4).filterMap s.bankFor
  if rs.length = 4 then some { s with flash := { s.flash with runs := rs } } else none

/-- Step 7 has succeeded: the anti-rollback counters rise to the versions that run (03 R67). -/
def raiseCounters (s : State) : State :=
  let f := s.flash
  { s with flash := { f with counters := f.counters.mapIdx fun c n => Nat.max n (f.running c).version } }

/-- An image is verified, written to the bank of its class that does not run, and marked active for the next restart: DETAIL. -/
def stageImage (s : State) (b : List Byte) : Nat × State :=
  let c := Config.imageClass b
  let v := (Config.imageVersion b).toNat
  let f := s.flash
  let spare := 1 - f.runs.getD c 0
  let k : FlashBank := { bytes := b, version := v, sound := true }
  let x := f.banks.getD c ({}, {})
  if 4 ≤ c then (3, s)
  else if !Config.imageVerifies b then (1, s)
  else if v < f.counters.getD c 0 then (2, s)
  else (0, { s with
    flash := { f with banks := f.banks.set c (if spare = 0 then (k, x.2) else (x.1, k)), active := f.active.set c spare }
    found := { s.found with badBanks := s.found.badBanks.filter (· != (c, spare)) } })

/-! ## The configuration record (01 R9, R10, 03 R68, R74) -/

/-- A vendor's record is verified and staged for the next restart: DETAIL. -/
def stageRecord (s : State) (b : List Byte) : Nat × State :=
  if Config.imageVerifies b then
    let r : ConfigRecord := {
      columns := Config.recordColumns b, remap := Config.recordRemap b
      damage := (Config.recordDamage b).filterMap damageOf, vendor := true, bytes := b }
    (0, { s with flash := { s.flash with staged := some r } })
  else (1, s)

/-- Step 3 of start-up: the record, a staged one first, sets the core map and the remap registers. -/
def useRecord (s : State) : State :=
  let r := s.flash.staged.getD s.flash.record
  let cols := (r.columns.filter (· < 132)).eraseDups.take 128
  let value (p : Nat) : BitVec 5 := match cols.idxOf? (p / 8) with
    | some i => BitVec.ofNat 5 (Nat.min 16 (r.remap.getD (i * 8 + p % 8) 16))
    | none => 16
  { s with
    coreMap := cols, ncores := cols.length, remap := s.remap.mapFinIdx fun p _ _ => value p
    flash := { s.flash with record := r, staged := none } }

/-- A column cannot serve: its elevator, its table tier or its part of a layer is damaged, or two macros of one layer are. -/
def columnLost (s : State) (c : Nat) : Bool :=
  let two (l p : Nat) : Bool := s.damage.any fun d => match d with
    | .array k m q => k == c && m == l && q != p
    | _ => false
  s.damage.any fun d => match d with
    | .array k l p => k == c && two l p
    | .elevator k | .tables k | .layer k _ => k == c
    | _ => false

/-- A column retires: a spare takes its rank, or the column of the highest rank does (03 R74, R81). Which spare, the spec does
not say: the lowest-numbered column that has no rank and can serve (DESIGN CHOICE, log entry 53). -/
def retireColumn (s : State) (d : Nat) : State :=
  if !s.coreMap.contains d then s
  else
    let spare := (List.range 132).find? fun c => !s.coreMap.contains c && !s.columnLost c
    let swap (by_ c : Nat) : Nat := if c = d then by_ else c
    let map := match spare with
      | some c => s.coreMap.map (swap c)
      | none => (s.coreMap.map (swap (s.coreMap.getLastD d))).dropLast
    { s with coreMap := map, ncores := map.length }

/-- A damaged part is mapped out: a macro by its layer's spare, through the remap register; a part of a column with the column;
a bank by row repair, which keeps its addresses. -/
def repair (s : State) (d : Damage) : State :=
  match d with
  | .array c l p =>
    if s.columnLost c then s.retireColumn c else { s with remap := s.remap.setIfInBounds (c * 8 + l) (BitVec.ofNat 5 p) }
  | .elevator c | .tables c | .layer c _ => s.retireColumn c
  | .bank _ _ _ | .capBank _ _ => s

/-- The record that Ensign writes and signs under the identity keys. -/
def ownRecord (s : State) : ConfigRecord :=
  let remap := s.coreMap.flatMap fun c => (List.range 8).map fun l => (s.remapOf c l).toNat
  { columns := s.coreMap, remap := remap, damage := s.damage, vendor := false
    bytes := Config.writeRecord s.coreMap remap (s.damage.map (·.code)) }

/-- Steps 4 and 5: what self-test and training have found, and the damage lists of the device and of its record, are mapped
out; each part found anew has its record of CLASS 3. -/
def mapOut (s : State) : State :=
  let add (l : List Damage) (d : Damage) : List Damage := if l.contains d then l else l ++ [d]
  let known := s.flash.record.damage.foldl add s.damage
  let all := s.found.parts.foldl add known
  let fresh := all.filter (!known.contains ·)
  let t := all.foldl repair { s with damage := all }
  let t := if fresh = [] ∧ t.coreMap = s.coreMap ∧ t.remap = s.remap then t
    else { t with flash := { t.flash with record := t.ownRecord } }
  fresh.foldl (fun t d => t.logFault 3 d.unit.1 d.unit.2.1 d.unit.2.2 0) t

/-! ## Identity and attestation (03 R69, R70, 02 R47) -/

/-- The seed of the identity, and what the KDF gives under its two labels. -/
def identitySeed (s : State) : List Byte := Config.fuzzyExtract Config.sramPattern s.flash.helper
def rsaSeed (s : State) : List Byte := kdf384 s.identitySeed labelRsa 48
def slhSeeds (s : State) : List Byte := kdf384 s.identitySeed labelSlh 72

/-- RSAN, RSAE and SLHPK: modulus, exponent, and PK.seed with PK.root. -/
def rsaModulus (s : State) : List Byte := toBytesBE 384 (Config.rsaModulus s.rsaSeed).toNat
def rsaExponent (s : State) : List Byte := toBytes 4 (Config.rsaExponent s.rsaSeed).toNat
def slhKey (s : State) : List Byte := s.slhSeeds.drop 48 ++ toBytesBE 24 (Config.slhRoot s.slhSeeds).toNat

/-- Valid commit records (03 R82): the digest of the delta index checks. The bytes of an index are its granule numbers, 8 bytes
each (DESIGN CHOICE, log entry 45). -/
def indexDigest (l : List Nat) : List Byte := sha384 (l.flatMap (toBytes 8))
def validCommit (k : Commit) : Bool := k.digest == indexDigest k.index

/-- The copies of the commit record that can be read: the first lies on package 0, the second on package 24 of the other face
(DESIGN CHOICE, log entry 63). -/
def readableCommits (s : State) : List Commit :=
  ((s.commits.zip [0, 24]).filter fun x => s.deadPackage != some x.2).map (·.1)

/-- The checkpoint that a restore returns to: the valid record with the higher number (03 R82). -/
def committed (s : State) : Option Commit :=
  (s.readableCommits.filter validCommit).foldl (fun r k => match r with
    | some j => if j.number < k.number then some k else r
    | none => some k) none

def ckptNumber (s : State) : Nat := (s.committed.map (·.number)).getD 0

/-- The part of the attestation report that is signed. -/
def reportHead (s : State) (nonce : Nat) : List Byte :=
  toBytes 2 2 ++ toBytes 2 0 ++ toBytes 4 nonce ++ toBytes 8 s.epoch.toNat ++ toBytes 8 s.cyc.toNat ++
    toBytes 8 s.ckptNumber ++ sha384 Config.maskRom ++
    ((List.range 4).flatMap fun c => sha384 (s.flash.running c).bytes) ++ sha384 s.flash.record.bytes

/-- The attestation report: the head, and its two signatures under the identity keys. -/
def attestation (s : State) (nonce : Nat) : List Byte :=
  let head := s.reportHead nonce
  head ++ (List.range 384).map (Config.rsaSign s.rsaSeed head) ++ (List.range 16224).map (Config.slhSign s.slhSeeds head)

end State
end Sys2Proof.Machine
end

