-- ==== Sys2Proof/Machine/Matrix.lean ====
section
/-! DEFINITION. The M-slot commands: MCALL, MSYNC, MRELOAD, MFLIP, MSWITCH, MLOAD and MLOCK (09 R217 to R231, R236 to
R239, 19 R391 to R403). -/

namespace Sys2Proof.Machine

/-! ## Formats of operands (07 R157, 09 R215) -/

/-- Codes marked Yes under Activation and under Weight. -/
def actCode (c : Nat) : Bool := c == 1 || (decide (3 ≤ c) && decide (c ≤ 10)) || c == 13
def wtCode (c : Nat) : Bool := (decide (3 ≤ c) && decide (c ≤ 10)) || c == 13
def outCode (c : Nat) : Bool := decide (c ≤ 4) || (decide (9 ≤ c) && decide (c ≤ 14))
/-- W: 2 for a 4-bit weight format. P: the bit-planes of an activation format. -/
def wtWide (c : Nat) : Nat := if codeBits c = 4 then 2 else 1
def actPlanes (c : Nat) : Nat := codeBits c
/-- C = P × W (09 R215). -/
def passCycles (fmt : DWord) : Nat := actPlanes (bits fmt.toNat 3 0) * wtWide (bits fmt.toNat 7 4)
/-- Bytes of scale per layer of a weight format (19 R397). -/
def scaleSize (wf : Nat) : Nat := 16 * 128 * wtWide wf * (if isDx wf then 2 else 1)

/-- The set bits of a layer mask, ascending. -/
def layersOf (m : Nat) : List Nat := (List.range 8).filter fun l => bit m l == 1

/-! ## Entries -/

/-- The logical macros that an entry names, as array numbers of its column (09 R226). -/
def MEntry.arrays (e : MEntry) : List Nat :=
  match e.cmd with
  | .mcall _ _ _ _ => (layersOf (bits e.m1.toNat 11 4)).map fun l => l * 16 + bits e.m1.toNat 3 0
  | .mreload _ => (layersOf (bits e.m2.toNat 11 4)).map fun l => l * 16 + bits e.m2.toNat 3 0
  | .mflip _ l m => [l.toNat * 16 + m.toNat]
  | .mswitch _ l m _ => [l.toNat * 16 + m.toNat]
  | _ => []

def MEntry.turns (e : MEntry) : Bool :=
  match e.kind with
  | .mreload | .mflip | .mswitch _ => true
  | _ => false

/-- Two ranges, start and end, overlap. -/
def overlap (a b : Nat × Nat) : Bool := decide (a.1 < b.2) && decide (b.1 < a.2)

/-- The microwords that an MCALL runs and an MLOAD writes. -/
def MEntry.code (e : MEntry) : Option (Nat × Nat) :=
  match e.kind with
  | .mcall | .mload => some (e.rt, e.rt + e.len)
  | _ => none

/-- Two entries of a core conflict (09 R226), or an MLOAD meets a routine of its range (19 R401). `rows`: they write a
common row or destination tile of one context. -/
def MEntry.conflicts (a b : MEntry) (rows : Bool) : Bool :=
  rows ||
  (match a.out, b.out with | some x, some y => overlap x y | _, _ => false) ||
  ((a.turns || b.turns) && a.arrays.any (b.arrays.contains ·)) ||
  ((a.kind == .mload || b.kind == .mload) &&
    (match a.code, b.code with | some x, some y => overlap x y | _, _ => false))

/-- Bits `i` of a set whose positions `f` names. -/
def setOf (w : Nat) (l : List Nat) : BitVec w := l.foldl (fun s i => s ||| (1#w <<< i)) 0

/-- Rows relative to ROW, from rows relative to a routine (09 R228). -/
def rotateRows (r : BitVec 64) (row : Nat) : BitVec 64 := r.rotateLeft row

/-- The tiles that the OUTs of a routine write, from destination tile `t`, at `b` bits an element (09 R229). -/
def outTiles (outs : List (Nat × Nat)) (t b : Nat) : List Nat :=
  outs.flatMap fun (rb, nr) =>
    let lo := 16 * rb * b / 2048
    let hi := (16 * (rb + nr) * b - 1) / 2048
    ((List.range (hi / 16 + 1)).filter fun k => decide (lo / 16 ≤ k)).map (t + ·) |>.filter (decide <| · < 20)

/-- The bytes that the OUTs write, from an offset: start and end. -/
def outSpan (outs : List (Nat × Nat)) (off b : Nat) : Option (Nat × Nat) :=
  match outs with
  | [] => none
  | _ => some (off + outs.foldl (fun m p => Nat.min m (16 * p.1 * b / 8)) (2 ^ 24),
      off + outs.foldl (fun m p => Nat.max m (16 * (p.1 + p.2) * b / 8)) 0)

namespace State

/-! ## Checks -/

def dirEntry? (s : State) (c rt sess : Nat) : Option DirEntry :=
  (s.core c).dir.find? fun d => d.addr == rt && d.sess.toNat == sess

/-- A macro of the layers is owned by a session other than that of the strand (04 R88). -/
def foreignArr (s : State) (l : List Nat) : Bool :=
  l.any (s.foreign s.curSess .read s.curCore)

/-- A macro is in storage mode in the view current now (08 R210). -/
def inStorage (s : State) (l : List Nat) : Bool := l.any fun i => !(s.arr s.curCore i).view

/-- A pointer in space 0x0 or 0x1 whose `n` bytes stay in the slice (19 R396). -/
def spaceOk (s : State) (p : DWord) (n : Nat) : Bool :=
  match ptrOf s.ncores p with
  | some (.global _) => true
  | some (.slice _ off) => decide (off + n ≤ Config.sliceBytes)
  | _ => false

/-- The hazard monitor (09 R238). -/
def hazard (s : State) (st : Nat) (bd : Bool) : Bool :=
  s.cur.locked && (st != 0 || bd || (match s.cur.lastM with | some i => decide (s.cur.issue < i + 8) | none => false))

/-- An operation of the M slot: the hazard monitor first, then `f`; the issue cycle is remembered when it issues. -/
def mSlot (s : State) (st : Nat) (bd : Bool) (f : State → State) : Out :=
  .next (
    if s.hazard st bd then s.trap 0x11
    else
      let s := f s
      if s.cur.out = .done then s.modCur fun c => { c with lastM := some c.issue } else s)

/-- A command enters its stream, or blocks when the stream is full (09 R225). -/
def enterStream (s : State) (st : Nat) (e : MEntry) (k : State → MEntry → State) : State :=
  if 64 ≤ (s.cur.stream st).entries.length then s.outcome (.blocked false)
  else
    let (n, s) := s.nextSeq
    let rel : Release := match e.kind with
      | .mflip | .mswitch _ => {}
      | _ => { mask := 1#16 <<< st, scope := 1, before := n }
    let e : MEntry := { e with id := n, issueCyc := s.now, age := s.curAge, rel := rel }
    let q := s.cur.stream st
    k (s.modCur fun c => c.setStream st { q with entries := q.entries ++ [e] }) e

/-! ## MCALL (09 R217 to R229, 19 R393) -/

/-- The format entry that a selector resolves to (09 R221). -/
def formatIx (s : State) (f : BitVec 4) : Nat := if f = 15 then (s.cur.rlc 1).toNat % 16 else f.toNat

/-- The bytes of the activation vectors and of their scales: start and end, none where no byte is inside (09 R223, R224). -/
def actSpan (m0 fmt : DWord) (n : Nat) : Option (Nat × Nat) :=
  let k := bits m0.toNat 42 30
  let nb := ceilDiv (k * codeBits (bits fmt.toNat 3 0)) 8
  if m0.getLsbD 0 = false ∨ nb = 0 ∨ n = 0 then none
  else some (bits m0.toNat 29 6, bits m0.toNat 29 6 + (n - 1) * bits m0.toNat 54 43 * 64 + nb)

def actScaleSpan (m0 fmt : DWord) (nl n : Nat) : Option (Nat × Nat) :=
  let af := bits fmt.toNat 3 0
  let k := bits m0.toNat 42 30
  let e := scaleLen af
  if !isBlock af || k == 0 || n == 0 then none
  else
    let lo := bits fmt.toNat 31 16 * 256
    some (lo, lo + (n - 1) * 16 * nl * e + ceilDiv k 32 * e)

/-- The bank groups of the layers of a span (04 R86): a stride is shorter than a layer, so no layer is stepped over. -/
def groupsOf (p : Option (Nat × Nat)) : List Nat :=
  match p with
  | none => []
  | some (lo, hi) =>
    let a := lo / 2 ^ 21
    let b := (hi - 1) / 2 ^ 21
    if a < b then [0, 1] else [a % 2]

def pastSlice (p : Option (Nat × Nat)) : Bool := match p with | some (_, hi) => decide (Config.sliceBytes < hi) | none => false

/-- The largest landing cycle of the context's unlanded calls. -/
def lambdaPrev (c : Ctx) : Nat := c.claims.foldl (fun n k => if k.fixed then Nat.max n k.lambda else n) 0

/-- λ of an MCALL issued now whose routine takes `d` cycles (09 R229). -/
def landingOf (c : Ctx) (d : Nat) : Nat := Nat.max (c.issue + 2) (lambdaPrev c) + d

/-- What an MCALL claims until it lands (09 R229). -/
def claimOf (c : Ctx) (st : Nat) (d : DirEntry) (e : MEntry) (lambda order : Nat) : MClaim :=
  let row := bits e.m2.toNat 5 0
  let tile := bits e.m2.toNat 11 7
  let rows := if d.loaded then rotateRows (if wtWide (bits e.fmt.toNat 7 4) = 2 then d.rows16 else d.rows8) row
    else BitVec.allOnes 64
  let tiles := if e.m2.getLsbD 6 then [] else
    if d.loaded then outTiles d.outs tile (codeBits (bits e.fmt.toNat 11 8))
    else (List.range 20).filter fun t => decide (tile ≤ t)
  { entry := e.id, rows := rows, tiles := setOf 20 tiles, fixed := c.fixed, lambda := lambda, order := order
    stream := st }

/-- The destination tiles of an MCALL and the cycles D of its routine; none where it names none. -/
def callTiles (s : State) (i : Instr) : Option (BitVec 20 × Nat) :=
  match i with
  | .mcall st rt f _ =>
    let c := s.cur
    let fmt := c.rfmt (s.formatIx f)
    (s.dirEntry? s.curCore rt.toNat s.curSess).map fun d =>
      ((claimOf c st.toNat d { id := 0, cmd := i, m2 := c.rm 2, fmt := fmt } 0 0).tiles, d.n * passCycles fmt + d.kcyc)
  | _ => none

/-- An MCALL would write a tile before a write pending to a line of it (06 R144): at λ in a fixed region, in a scoreboard region as
soon as its routine can have finished. -/
def lateTile (s : State) (i : Instr) : Bool :=
  let c := s.cur
  match s.callTiles i with
  | some (tiles, d) => c.pend.any fun p => match p.dest with
    | .line n => decide (64 ≤ n) && tiles.getLsbD ((n - 64) / 16) && (match p.due with
      | .issue k => decide (landingOf c d < k)
      | .cycle k => decide (s.now + 2 + d < k)
      | .access _ => true)
    | _ => false
  | none => false

def mcall (s : State) (st rt : Nat) (f : BitVec 4) (bd : Bool) (cmd : Instr) : State :=
  let c := s.cur
  let (m0, m1, m2) := (c.rm 0, c.rm 1, c.rm 2)
  let fx := s.formatIx f
  let fmt := c.rfmt fx
  let (af, wf, of) := (bits fmt.toNat 3 0, bits fmt.toNat 7 4, bits fmt.toNat 11 8)
  let ls := layersOf (bits m1.toNat 11 4)
  let arrs := ls.map fun l => l * 16 + bits m1.toNat 3 0
  if bits m0.toNat 63 55 ≠ 0 ∨ bits m1.toNat 63 12 ≠ 0 ∨ bit m2.toNat 36 = 1 ∨ bits fmt.toNat 15 14 ≠ 0 ∨
      !actCode af ∨ !wtCode wf ∨ !outCode of ∨ (isDx af ∧ isDx wf) then s.trap 0x0B
  else if (fmt.getLsbD 12 ∧ isBlock af) ∨ (fmt.getLsbD 13 ∧ isBlock wf) then s.trap 0x0A
  else match s.dirEntry? s.curCore rt s.curSess with
    | none => s.trap 0x07
    | some d =>
      if s.foreignArr arrs then s.trap 0x07
      else if s.inStorage arrs then s.trap 0x08
      else
        let a := actSpan m0 fmt d.n
        let b := actScaleSpan m0 fmt ls.length d.n
        let whole : Option (Nat × Nat) := some (0, Config.sliceBytes)
        let o := if !m2.getLsbD 6 then none
          else if d.loaded then outSpan d.outs (bits m2.toNat 35 12) (codeBits of) else whole
        if pastSlice a ∨ pastSlice b ∨ pastSlice o ∨ (bd ∧ s.ncores ≤ bits m2.toNat 63 57) then s.trap 0x05
        else if (groupsOf a).any ((groupsOf b).contains ·) then s.trap 0x09
        else
          let e : MEntry := { id := 0, cmd := cmd, kind := .mcall, rt := rt, m0 := m0, m1 := m1, m2 := m2, bd := bd,
                              fmt := fmt, fx := fx, pc := rt, len := d.len, out := o, loader := d.loader }
          s.enterStream st e fun s e =>
            let lambda := landingOf c (d.n * passCycles fmt + d.kcyc)
            let mine (x : MEntry) : MEntry := if x.id = e.id then { x with lambda := lambda } else x
            s.modCur fun t =>
              let q := t.stream st
              let t := t.setStream st { q with entries := q.entries.map mine }
              { t with
                claims := t.claims ++ [claimOf t st d e lambda s.slotOrder]
                sys := { t.sys with fmtix := BitVec.ofNat 64 fx } }

/-- Every entry of a stream of the context in hand, and every reload that they started, is done. -/
def streamIdle (s : State) (st : Nat) : Bool :=
  let k := s.core s.curCore
  let runs : Bool := match k.unit with
    | some r => r.stream == st && r.ctx == s.curCtx && r.entry.age == s.curAge
    | none => false
  (s.cur.stream st).entries == [] && !runs && !k.reloads.any fun r => r.stream == st && r.age == s.curAge

end State

def execMcall (s : BitVec 2) (r : BitVec 12) (f : BitVec 4) (b : BitVec 1) (z : State) : Out :=
  z.mSlot s.toNat (b == 1) fun z => z.mcall s.toNat r.toNat f (b == 1) (.mcall s r f b)

/-- MSYNC (19 R394): entries of the stream and the reloads that they started are done. -/
def execMsync (s : BitVec 2) (z : State) : Out :=
  z.mSlot s.toNat false fun z =>
    let q := z.cur.stream s.toNat
    if !z.streamIdle s.toNat then z.outcome (.blocked false)
    else if q.poisoned then
      State.trap (z.modCur fun c => c.setStream s.toNat { q with poisoned := false }) 0x0E
    else z

/-- MRELOAD (19 R395 to R397). Its entry holds m3, m4, m5 and m6. -/
def execMreload (s : BitVec 2) (z : State) : Out :=
  z.mSlot s.toNat false fun z =>
    let c := z.cur
    let (w, p, m5, m6) := (c.rm 3, c.rm 4, c.rm 5, c.rm 6)
    let ls := layersOf (bits m5.toNat 11 4)
    let arrs := ls.map fun l => l * 16 + bits m5.toNat 3 0
    let wf := bits m5.toNat 15 12
    let sz := scaleSize wf
    let wstr := bits m6.toNat 15 0 * 64
    let sstr := bits m6.toNat 31 16 * 64
    if bits m5.toNat 63 16 ≠ 0 ∨ bits m6.toNat 63 32 ≠ 0 ∨ ls = [] ∨ !wtCode wf then z.trap 0x0B
    else if !z.spaceOk w ((ls.length - 1) * (if wstr = 0 then 65536 else wstr) + 65536) then z.trapWith 0x05 0 w
    else if p ≠ 0 ∧ !z.spaceOk p ((ls.length - 1) * (if sstr = 0 then sz else sstr) + sz) then z.trapWith 0x05 0 p
    else if bits w.toNat 5 0 ≠ 0 ∨ bits p.toNat 5 0 ≠ 0 then
      z.trapWith 0x0C 0 (if bits w.toNat 5 0 ≠ 0 then w else p)
    else if z.foreignArr arrs then z.trap 0x07
    else if z.inStorage arrs then z.trap 0x08
    else z.enterStream s.toNat { id := 0, cmd := .mreload s, kind := .mreload, m0 := w, m1 := p, m2 := m5, m3 := m6 }
      fun z _ => z

/-- MFLIP (19 R398). -/
def execMflip (s : BitVec 2) (l : BitVec 3) (m : BitVec 4) (z : State) : Out :=
  z.mSlot s.toNat false fun z =>
    let i := l.toNat * 16 + m.toNat
    if z.foreignArr [i] then z.trap 0x07
    else if z.inStorage [i] then z.trap 0x08
    else z.enterStream s.toNat { id := 0, cmd := .mflip s l m, kind := .mflip } fun z _ => z

/-- MSWITCH (19 R399): the view changes and an unowned macro is claimed in the issue cycle (08 R210, 04 R88). -/
def execMswitch (s : BitVec 2) (l : BitVec 3) (m : BitVec 4) (d : BitVec 1) (z : State) : Out :=
  z.mSlot s.toNat false fun z =>
    let i := l.toNat * 16 + m.toNat
    if z.foreignArr [i] then z.trap 0x07
    else z.enterStream s.toNat { id := 0, cmd := .mswitch s l m d, kind := .mswitch (d == 1) } fun z e =>
      let a := z.arr z.curCore i
      let owner := match a.owner with | some o => o | none => BitVec.ofNat 6 z.curSess
      z.modCore z.curCore fun k => { k with arrs := k.arrs.setIfInBounds i { a with next := a.next ++ [(e.id, d == 1)], owner := some owner } }

/-- MLOAD (19 R400, R401): the directory changes in the issue cycle. Its entry holds m3, m4, m5 and m6. -/
def execMload (s : BitVec 2) (z : State) : Out :=
  z.mSlot s.toNat false fun z =>
    let c := z.cur
    let (p, m4, m5, m6) := (c.rm 3, c.rm 4, c.rm 5, c.rm 6)
    let addr := bits m4.toNat 11 0
    let len := bits m4.toNat 24 12
    let dir := (z.core z.curCore).dir
    let meets (d : DirEntry) : Bool := overlap (d.addr, d.addr + d.len) (addr, addr + len)
    if bits m4.toNat 63 25 ≠ 0 ∨ bits m5.toNat 63 24 ≠ 0 ∨ bits m6.toNat 63 32 ≠ 0 ∨ len = 0 ∨ 4096 < addr + len then
      z.trap 0x0B
    else if !z.spaceOk p 1 then z.trapWith 0x05 0 p
    else if bits p.toNat 5 0 ≠ 0 then z.trapWith 0x0C 0 p
    else if dir.any (fun d => meets d && d.sess.toNat != z.curSess) then z.trap 0x07
    else if 256 < (dir.filter (!meets ·)).length + 1 then z.trap 0x0B
    else z.enterStream s.toNat { id := 0, cmd := .mload s, kind := .mload, rt := addr, len := len, m0 := p, m1 := m4, m2 := m5, m3 := m6 }
      fun z e =>
        let d : DirEntry := { addr := addr, len := len, sess := BitVec.ofNat 6 z.curSess, n := bits m5.toNat 23 0,
                              kcyc := bits m6.toNat 31 0, loader := e.id }
        z.modCore z.curCore fun k => { k with dir := k.dir.filter (!meets ·) ++ [d] }

/-- MLOCK (19 R403): set in a scoreboard region raises HAZARD; clear waits until stream 0 has drained as for MODE, every row and
tile of its calls landed (06 R142, R146). -/
def execMlock (d : BitVec 1) (z : State) : Out :=
  z.mSlot 0 false fun z =>
    if d = 1 then
      if z.cur.fixed then z.modCur fun c => { c with locked := true } else z.trap 0x11
    else
      if !z.streamIdle 0 ∨ z.cur.claims.any (·.stream == 0) then State.outcome (z.modCur fun c => { c with mwait := true }) .stalled
      else z.modCur fun c => { c with locked := false }

end Sys2Proof.Machine
end

