-- ==== Sys2Proof/Machine/Micro.lean ====
section
/-! DEFINITION. The matrix unit: which entry it takes, its commands, the reload path, the microwords of routines and
their arithmetic, the heat tokens (07 R179 to R186, 09 R213 to R240, 19 R397 to R410). -/

namespace Sys2Proof.Machine

/-! ## Blocks of operands (07 R179 to R181) -/

/-- A block of 32 elements along the contraction: the integers, the exponents of EA and EB (`none`: left out), the
selector of each row for a DX format, and whether an element or a scale sets N. -/
structure MBlock where
  q : List Int
  ea : Option Int := some 0
  eb : Option Int := none
  sel : Option (List Nat) := none
  nan : Bool := false
  deriving DecidableEq, Repr

/-- AlignBlock (07 R180) of encodings of `f`: the integers, e, and the elements that are no finite number. -/
def alignBlock (f : FFmt) (w : Nat) (xs : List Nat) : List Int × Int × List Bool :=
  let vs := xs.map f.decode
  let e := vs.foldl (fun (m : Int) v => match v with
    | .fin _ a x => if a = 0 then m else max m (max f.emin ((Nat.log2 a : Int) + x))
    | _ => m) f.emin
  let q := vs.map fun v => match v with
    | .fin n a x => let r : Int := (roundAt .rne 0 false a (x + ((w : Int) - 2 - e)) 0).1; if n then -r else r
    | _ => 0
  (q, e - ((w : Int) - 2), vs.map fun v => match v with | .fin _ _ _ => false | _ => true)

/-- The integer of an element of a format that AlignBlock does not serve (07 R179). -/
def operandInt (c raw : Nat) : Int :=
  match c with
  | 6 => let (n, m) := mxf4Int raw; if n then -(m : Int) else m
  | 7 => signed 7 raw
  | 8 => signed 3 raw
  | 10 => signed 4 raw
  | 13 => (raw % 256 : Nat)
  | _ => signed 8 raw

/-- e of a scale byte; 0xFF is left out and sets N. -/
def scaleExp (c x : Nat) : Option Int :=
  if x % 256 = 255 then none else some ((x % 256 : Nat) - (match c with | 6 => 128 | 8 => 129 | _ => 133))

/-- The block of a format code from its elements and its scale number. `inside` elements alone select a DX exponent and
set N (09 R224). -/
def blockOfCode (c : Nat) (raws : List Nat) (scale inside : Nat) : MBlock :=
  if isDx c then
    let sel := raws.map fun r => bit r (if c = 7 then 7 else 3)
    let ea := scaleExp c scale
    let eb := scaleExp c (scale / 256)
    let used (b : Nat) : Bool := (sel.take inside).any (· == b)
    { q := raws.map (operandInt c), ea := ea, eb := eb, sel := some (sel.take inside)
      nan := (ea.isNone && used 0) || (eb.isNone && used 1) }
  else if isBlock c then
    let e := scaleExp c scale
    { q := raws.map (operandInt c), ea := e, nan := e.isNone }
  else if c = 1 ∨ c = 3 ∨ c = 4 then
    let f := if c = 1 then bf16F else if c = 3 then e4m3F else e5m2F
    let (q, e, bad) := alignBlock f (if c = 1 then 16 else 8) raws
    { q := q, ea := some e, nan := bad.any id }
  else { q := raws.map (operandInt c) }

/-- The product sum over the rows that `p` names. -/
def dotWhere (p : Nat → Bool) : Nat → List Int → List Int → Int
  | i, x :: xs, y :: ys => (if p i then x * y else 0) + dotWhere p (i + 1) xs ys
  | _, _, _ => 0

/-- The partials of a block of activations against one of weights: EA before EB (07 R181). -/
def partials (a w : MBlock) : List (Int × Int) :=
  let d := if a.sel.isSome then a else w
  let o := if a.sel.isSome then w else a
  match d.sel, o.ea with
  | _, none => []
  | none, some y => match d.ea with
    | some x => [(dotWhere (fun _ => true) 0 a.q w.q, x + y)]
    | none => []
  | some sel, some y =>
    let one (k : Nat) (e : Option Int) : List (Int × Int) := match e with
      | some x => if sel.any (· == k) then [(dotWhere (fun i => sel[i]? == some k) 0 a.q w.q, x + y)] else []
      | none => []
    one 0 d.ea ++ one 1 d.eb

/-! ## Accumulators (07 R182, 09 R228) -/

/-- {A, X, N}. -/
structure Acc where
  a : Int := 0
  x : Int := -512
  n : Bool := false
  deriving DecidableEq, Repr

def shiftFloor (a : Int) (s : Nat) : Int := Int.fdiv a ((2 ^ s : Nat) : Int)

/-- PassSum: an empty list gives (0, −512). -/
def passSum (l : List (Int × Int)) : Int × Int :=
  match l with
  | [] => (0, -512)
  | (_, e0) :: _ =>
    let mx := l.foldl (fun m p => max m p.2) e0
    (l.foldl (fun s p => s + shiftFloor (p.1 * 65536) (mx - p.2).toNat) 0, mx)

/-- Merge, and whether it saturated. -/
def Acc.merge (c : Acc) (s e : Int) : Acc × Bool :=
  let a := if c.x < e then shiftFloor c.a (e - c.x).toNat else c.a
  let s := if c.x < e then s else shiftFloor s (c.x - e).toNat
  let x := if c.x < e then e else c.x
  let t := a + s
  let (r, sat) := satTo (-((2 ^ 63 : Nat) : Int)) (((2 ^ 63 : Nat) : Int) - 1) t
  ({ c with a := r, x := x }, sat)

/-- A row as its 16 accumulators, and back (09 R228). -/
def rowAccs (r : Line) : List Acc :=
  (List.range 16).map fun j =>
    let x := r.toNat
    let f := bits x (1024 + 11 * j + 10) (1024 + 11 * j)
    { a := signed 64 (bits x (64 * j + 63) (64 * j)), x := signed 10 f, n := bit f 10 == 1 }

def accsRow (l : List Acc) : Line :=
  ofElems 64 (l.map fun c => unsigned 64 c.a) |||
    (BitVec.ofNat 2048 ((l.mapIdx fun j c => (unsigned 10 c.x + c.n.toNat * 1024) * 2 ^ (11 * j)).foldl (· + ·) 0) <<< 1024)

def clearRow : Line := accsRow (List.replicate 16 {})

/-- OutConvert (07 R185): the encoding and the flags. A zero accumulator gives +0, whatever the sign of T (DEDUCED, log entry 37). -/
def outConvert (c : Acc) (t of : Nat) : Nat × BitVec 5 :=
  match codeFmt of with
  | none => (0, 0)
  | some dst =>
    if c.n then (match dst with | .flt f => f.nan | .int _ _ => 0, fInvalid)
    else
      let v : FVal := .fin (decide (c.a < 0)) c.a.natAbs (c.x - 16)
      let (x, fl) := (fmulV v (f32F.decode t)).put f32F .rne 0 false
      let x := if c.a = 0 ∧ x = f32F.sign then 0 else x
      let (y, fl') := convert (.flt f32F) dst .rne 0 false x
      (y, fl ||| fl')

namespace State

/-! ## The unit's entries (09 R225, R226) -/

/-- Every unfinished entry of a core, with its strand: queued, saved, run by the unit, or on the reload path. -/
def liveEntries (s : State) (c : Nat) : List (Nat × MEntry) :=
  let k := s.core c
  let queued (t : Ctx) (a : Nat) : List (Nat × MEntry) :=
    t.streams.toList.flatMap fun q => q.entries.map fun e => (a, e)
  (k.ctxs.toList.flatMap fun t => match t.strand with | some a => queued t a | none => []) ++
    (s.strands.flatMap fun t =>
      if t.core = c ∧ (t.st = .ready ∨ t.st = .parked ∨ t.st = .loading) then queued t.image t.age else []) ++
    (match k.unit with | some r => [(r.entry.age, r.entry)] | none => []) ++
    k.reloads.filterMap fun r => r.cmd.map fun e => (r.age, e)

def claim? (t : Ctx) (id : Nat) : Option MClaim := t.claims.find? (·.entry == id)

/-- Two calls of one context write a common row or destination tile. -/
def shareRows (t : Ctx) (a b : Nat) : Bool :=
  match claim? t a, claim? t b with
  | some x, some y => (x.rows &&& y.rows) != 0 || (x.tiles &&& y.tiles) != 0
  | _, _ => false

/-- No earlier-issued entry conflicts with an entry of a context. -/
def conflictFree (s : State) (c x : Nat) (e : MEntry) : Bool :=
  (s.liveEntries c).all fun (a, f) =>
    !decide (f.id < e.id) || !f.conflicts e (a == e.age && shareRows (s.ctx c x) f.id e.id)

/-- The state of the barrier that an entry depends on (09 R236). -/
def dependence (s : State) (e : MEntry) : Nat :=
  Bar.state (s.readNat (sliceHome (bits e.m2.toNat 63 57) (bits e.m2.toNat 56 37 * 16)) 16)

/-- The context gives its entries to the unit: it holds a strand that is not being halted or loaded. -/
def serves (t : Ctx) : Bool := t.strand.isSome && t.halt.isNone && (t.st != .draining) && (t.st != .loading)

def modStream (s : State) (c x st : Nat) (f : MStream → MStream) : State :=
  s.modCtx c x fun t => t.setStream st (f (t.stream st))

def poisonStream (s : State) (c x age st : Nat) : State :=
  if (s.ctx c x).strand = some age then s.modStream c x st fun q => { q with poisoned := true } else s

def modClaim (s : State) (c x age id : Nat) (f : MClaim → MClaim) : State :=
  if (s.ctx c x).strand = some age then
    s.modCtx c x fun t => { t with claims := t.claims.map fun k => if k.entry = id then f k else k }
  else s

def modArr (s : State) (c i : Nat) (f : Arr → Arr) : State :=
  s.modCore c fun k => { k with arrs := k.arrs.setIfInBounds i (f (k.arrs[i]?.getD {})) }

/-- An MSWITCH that has been executed or discarded no longer names a mode to come (08 R210). -/
def switched (s : State) (c i id : Nat) : State := s.modArr c i fun a => { a with next := a.next.filter (·.1 != id) }

/-- The entries of a stream are discarded unexecuted: their claims end, rows stay, the stream is poisoned (09 R229,
R237). -/
def discardStream (s : State) (c x st : Nat) : State :=
  let es := ((s.ctx c x).stream st).entries
  let s := s.modCtx c x fun t =>
    let t := t.setStream st { entries := [], poisoned := true }
    { t with claims := t.claims.map fun k => if es.any (·.id == k.entry) then { k with done := true } else k }
  es.foldl (fun s e => match e.kind with
    | .mswitch _ => e.arrays.foldl (fun s i => s.switched c i e.id) s
    | _ => s) s

/-- The head of a stream is to be discarded: the stream is poisoned, its MLOAD has failed, or its barrier is poisoned or
overrun (09 R236, R237, 19 R401). What follows it meets a poisoned stream and goes too. A remainder runs on. -/
def headDoomed (s : State) (c x st : Nat) : Bool :=
  let t := s.ctx c x
  let q := t.stream st
  serves t && (match q.entries with
    | [] => false
    | e :: _ => !e.rem && (q.poisoned || e.doomed || (e.bd && decide (2 ≤ s.dependence e))))

/-- The barriers that the heads of a core's streams look at, as reads of storage (04 R90). -/
def meetBarriers (s : State) (c : Nat) : State :=
  if s.errors = [] then s
  else ((s.core c).ctxs.toList.flatMap (·.streams.toList)).foldl (fun s q => match q.entries with
    | e :: _ => if e.bd then s.meet (sliceHome (bits e.m2.toNat 63 57) (bits e.m2.toNat 56 37 * 16)) 16 else s
    | [] => s) s

/-- Every stream of a core whose head is to be discarded. -/
def sweepStreams (s : State) (c : Nat) : State :=
  let s := s.meetBarriers c
  (List.range 16).foldl (fun s i => if s.headDoomed c (i / 4) (i % 4) then s.discardStream c (i / 4) (i % 4) else s) s

/-- The lockstep state takes entries in issue order, one in 8 cycles (09 R239). -/
def lockstepOk (s : State) (t : Ctx) (e : MEntry) : Bool :=
  !t.locked || ((t.streams.toList.all fun q => q.entries.all fun f => decide (e.id ≤ f.id)) &&
    (match t.lastTaken with | some n => decide (n + 8 ≤ s.now) | none => true))

/-- The head of a stream, where it is eligible (09 R225). -/
def eligible (s : State) (c x st : Nat) : Option MEntry :=
  let t := s.ctx c x
  if !serves t then none
  else match (t.stream st).entries with
    | [] => none
    | e :: _ =>
      if e.issueCyc + 2 ≤ s.now ∧ released t e.rel ∧ (e.bd = false ∨ s.dependence e = 1) ∧ s.lockstepOk t e ∧
          s.conflictFree c x e then some e else none

/-- The entry that the unit takes: highest effective priority, oldest strand, earliest issue. -/
def pickEntry (s : State) (c : Nat) : Option (Nat × Nat × MEntry) :=
  if (s.core c).unit.isSome then none
  else
    let key (e : MEntry) : Nat × Nat × Nat := (((s.strand? e.age).map s.effective).getD 0, e.age, e.id)
    let before (a b : MEntry) : Bool :=
      let (p, u, i) := key a
      let (q, v, j) := key b
      decide (q < p) || (p == q && (decide (u < v) || (u == v && decide (i < j))))
    (List.range 16).foldl (fun best n => match s.eligible c (n / 4) (n % 4) with
      | none => best
      | some e => match best with
        | some (_, _, f) => if before e f then some (n / 4, n % 4, e) else best
        | none => some (n / 4, n % 4, e)) none

/-- The unit takes the head of a stream. -/
def takeEntry (s : State) (c x st : Nat) (e : MEntry) (hold : Nat) : State :=
  let s := s.modCtx c x fun t =>
    let q := t.stream st
    { t.setStream st { q with entries := q.entries.tail } with lastTaken := some s.now }
  s.modCore c fun k => { k with
    unit := some { ctx := x, stream := st, entry := e, busyUntil := s.now + hold } }

def setRunning (s : State) (c : Nat) (r : Option MRun) : State := s.modCore c fun k => { k with unit := r }

/-- A reload of one of the macros, on its layer, is unfinished (09 R216, 19 R398). -/
def reloading (s : State) (c : Nat) (arrs : List Nat) : Bool :=
  (s.core c).reloads.any fun r => (layersOf r.lmask.toNat).any fun l => arrs.contains (l * 16 + r.arr.toNat)

def flip (s : State) (c : Nat) (arrs : List Nat) : State :=
  arrs.foldl (fun s i => s.modArr c i fun a => { a with half := !a.half }) s

/-! ## The reload path (09 R216, 19 R397, R409) -/

/-- The layers of a reload, one after another, each with its source. -/
def reloadLayers (r : Reload) (id : Nat) : List Reload :=
  let step (k n z : Nat) : DWord := BitVec.ofNat 64 (k * (if n = 0 then z else n * 64))
  (layersOf r.lmask.toNat).mapIdx fun k l => { r with
    id := id, lmask := 1#8 <<< l, wptr := r.wptr.map (· + step k r.wstr 65536)
    sptr := r.sptr.map (· + step k r.sstr (scaleSize r.fmt.toNat)) }

/-- A reload starts `lead` cycles from now, behind those on the path. -/
def pushReload (s : State) (c lead : Nat) (r : Reload) : State :=
  let scaled := r.cmd.isSome || r.sptr.isSome || r.fmt == 3 || r.fmt == 4
  let cost := (if r.wptr.isSome then 512 else 0) + (if scaled then scaleSize r.fmt.toNat / 128 else 0)
  let (id, s) := s.nextSeq
  s.modCore c fun k =>
    let start := k.reloads.foldl (fun m q => Nat.max m q.dueAt) (s.now + lead)
    { k with reloads := k.reloads ++ (reloadLayers r id).mapIdx fun i q =>
      { q with begun := start + i * cost, dueAt := start + (i + 1) * cost } }

/-- A reload stops at a byte that it may not read: its later layers are not reloaded (19 R397). -/
def stopReload (s : State) (c id : Nat) : State := s.modCore c fun k => { k with reloads := k.reloads.filter (·.id != id) }

/-- The head of the reload path is over; the one behind it has not begun before. -/
def dropReload (s : State) (c : Nat) : State :=
  s.modCore c fun k => { k with reloads := match k.reloads.tail with
    | [] => []
    | r :: l => { r with
        begun := Nat.max r.begun s.now, dueAt := Nat.max r.dueAt (s.now + (r.dueAt - r.begun)) } :: l }

/-- The bytes that a reload has written by the time a kill stops it, at the end of a row of 128 bytes (05 R118). -/
def reloadLimit (r : Reload) : Option Nat :=
  r.killedAt.map fun k => if k < r.begun then 0 else 128 * (k - r.begun + 1)

/-- A run of source bytes of a reload: pointer, length, and where it goes: layer, and scales or weights. -/
abbrev Segment := DWord × Nat × Nat × Bool

/-- The source runs of a layer's reload, in order. -/
def segments (r : Reload) : List Segment :=
  (layersOf r.lmask.toNat).flatMap fun l =>
    (match r.wptr with
     | some p => [(p, 65536, l, false)]
     | none => []) ++
    (match r.sptr with
     | some p => if isBlock r.fmt.toNat then [(p, scaleSize r.fmt.toNat, l, true)] else []
     | none => [])

/-- The bytes of a run before the first that fails a check; a wait on MIG or a switch. `fuel` bounds the pages. -/
def goodRun (s : State) (sess : Nat) : Nat → DWord → Nat → Nat × Bool
  | 0, _, _ => (0, false)
  | fuel + 1, p, n =>
    if n = 0 then (0, false)
    else
      let k := runLength p n
      match s.checkByte sess .engRead p with
      | .no _ _ => (0, false)
      | .ok _ h mig =>
        if s.pieceWaits { home := h, off := 0, len := k, mig := mig } then (0, true)
        else
          let (m, w) := goodRun s sess fuel (p + BitVec.ofNat 64 k) (n - k)
          (k + m, w)

/-- What a reload may read: its runs as far as their bytes pass the checks, whether one failed, whether one waits. -/
def goodSegments (s : State) (sess : Nat) : List Segment → List Segment × Bool × Bool
  | [] => ([], false, false)
  | (p, n, l, sc) :: rest =>
    let (k, w) := s.goodRun sess (n / 65536 + 3) p n
    if k < n then ([(p, k, l, sc)], !w, w)
    else
      let (r, bad, w) := goodSegments s sess rest
      ((p, n, l, sc) :: r, bad, w)

/-- The parts of the runs, one after another. -/
def segmentParts : Nat → List Segment → List Part
  | _, [] => []
  | off, (p, n, _, _) :: r => (p, off, n) :: segmentParts (off + n) r

/-- `n` free bytes. -/
def drawBytes (s : State) : Nat → List Byte × State
  | 0 => ([], s)
  | n + 1 =>
    let (x, s) := s.draw
    let (r, s) := drawBytes s n
    (x.setWidth 8 :: r, s)

/-- The bits of a list of marks, eight to a byte. -/
def packBits : List Bool → List Byte
  | a :: b :: c :: d :: e :: f :: g :: h :: r =>
    BitVec.ofNat 8 (a.toNat + 2 * b.toNat + 4 * c.toNat + 8 * d.toNat + 16 * e.toNat + 32 * f.toNat + 64 * g.toNat + 128 * h.toNat) ::
      packBits r
  | _ => []

/-- 32 rows of FP8 bytes: the aligned integers by row, the exponent of each column, the marks by row (07 R180). -/
def alignRows (f : FFmt) (b : List Byte) : List Byte × List Byte × List Bool :=
  let a := b.toArray
  let cols := (List.range 128).map fun o =>
    alignBlock f 8 ((List.range 32).map fun r => ((a[r * 128 + o]?).getD 0).toNat)
  let q := cols.map fun c => c.1.toArray
  let m := cols.map fun c => c.2.2.toArray
  ((List.range 32).flatMap fun r => q.map fun col => BitVec.ofInt 8 ((col[r]?).getD 0),
   cols.map fun c => BitVec.ofInt 8 c.2.1,
   (List.range 32).flatMap fun r => m.map fun col => (col[r]?).getD false)

/-- FP8 weight bytes go to a half block by block of 32 rows. A block whose rows have not all come (a failed source)
takes free values (DESIGN CHOICE, log entry 3). -/
def writeAligned (s : State) (f : FFmt) (c l a : Nat) (half : Bool) : Nat → Nat → List Byte → State
  | 0, _, _ => s
  | fuel + 1, b, bs =>
    if bs = [] then s
    else if bs.length < 4096 then
      let (x, s) := s.drawBytes bs.length
      s.write (sliceHome c (arrOffset l a half (32 * b) 0)) x
    else
      let (q, e, m) := alignRows f (bs.take 4096)
      let s := s.write (sliceHome c (arrOffset l a half (32 * b) 0)) q
      let s := s.write (scaleHome c l a half + b * 128) e
      let s := s.write (markHome c l a half + b * 512) (packBits m)
      writeAligned s f c l a half fuel (b + 1) (bs.drop 4096)

/-- The bytes of the runs are written to the shadow halves and their scale stores. -/
def reloadWrite (s : State) (c : Nat) (r : Reload) : List Segment → List Byte → State
  | [], _ => s
  | (_, n, l, sc) :: rest, bs =>
    let half := !(s.arr c (l * 16 + r.arr.toNat)).half
    let b := bs.take n
    let s :=
      if sc then s.write (scaleHome c l r.arr.toNat half) b
      else if r.fmt = 3 ∨ r.fmt = 4 then
        s.writeAligned (if r.fmt = 3 then e4m3F else e5m2F) c l r.arr.toNat half 17 0 b
      else (s.write (sliceHome c (arrOffset l r.arr.toNat half 0 0)) b).zero (markHome c l r.arr.toNat half) 8192
    reloadWrite s c r rest (bs.drop n)

/-- The pieces before the first whose far device has refused it, and whether one has. -/
def acceptedBytes (s : State) : List Piece → List (Option Nat) → Nat × Bool
  | [], _ => (0, false)
  | p :: ps, ts =>
    match s.replyOf p (ts.head?.join) with
    | some (1, _, _) => (p.off, true)
    | _ => let (n, bad) := acceptedBytes s ps ts.tail; (Nat.max n (p.off + p.len), bad)

/-- A list of runs cut to a total length. -/
def cutSegments : Nat → List Segment → List Segment
  | _, [] => []
  | n, (p, k, l, sc) :: r => if n = 0 then [] else (p, Nat.min n k, l, sc) :: cutSegments (n - k) r

/-- The runs of a reload whose source is read: what it has read goes to the shadow halves, and a source byte that fails a
check poisons its stream. -/
def reloadBytes (s : State) (c : Nat) (r : Reload) (segs : List Segment) (bad : Bool) : State :=
  let parts := segmentParts 0 segs
  let (ps, _, _) := s.checkPartsFor r.sess .engRead true parts
  let qs := cutPieces ps
  let far := qs.any fun p => (farOf p.home).isSome
  let head (s : State) (x : Src) : State := s.modCore c fun k => { k with reloads := { r with src := x } :: k.reloads.tail }
  if far ∧ !r.src.asked then
    let (ts, s) := s.askAll r.sess .engine qs
    head s { asked := true, tags := ts }
  else if far ∧ !s.answered qs r.src.tags then s
  else
    let s := (s.meetPieces r.sess qs).heatOf r.sess qs
    let total := parts.foldl (fun n p => n + p.2.2) 0
    let b := s.gather total qs r.src.tags
    let (n, refused) := if far then s.acceptedBytes qs r.src.tags else (total, false)
    let s := ((s.dropRequests qs r.src.tags).claimArrays r.sess ps).dropReload c
    let s := s.reloadWrite c r (cutSegments n segs) (b.take n)
    if bad ∨ refused then (s.stopReload c r.id).poisonStream c r.ctx r.age r.stream else s

/-- RELOAD_DONE: the layer at the head of the path, in its last cycle, or where a kill has stopped it. -/
def reloadDone (s : State) (c : Nat) : State :=
  match (s.core c).reloads with
  | [] => s
  | r :: _ =>
    match reloadLimit r with
    | some 0 => s.dropReload c
    | some n => match s.goodSegments r.sess (cutSegments n (segments r)) with
      | (segs, _, false) => s.reloadBytes c r segs false
      | _ => s
    | none =>
      if s.now < r.dueAt then s
      else match s.goodSegments r.sess (segments r) with
        | (segs, bad, false) => s.reloadBytes c r segs bad
        | _ => s

/-! ## MLOAD (19 R401, R406, R407) -/

/-- Cycles of a microword other than MAC (19 R407). -/
def microCycles (i : Instr) : Nat :=
  match i with
  | .clr _ nr => 2 + ceilDiv nr.toNat 2
  | .out _ nr => 3 + ceilDiv nr.toNat 2
  | .feed _ | .scale _ => 2
  | .fliph | .microLoop _ _ | .microEnd => 1
  | _ => 0

/-- The rows that a microword names, with W = `w`. -/
def microRows (w : Nat) (i : Instr) : List Nat :=
  match i with
  | .clr rb nr | .out rb nr => (List.range nr.toNat).map fun k => (rb.toNat + k) % 64
  | .mac nvm1 rs rb =>
    (List.range (Nat.min 64 (nvm1.toNat + 1))).flatMap fun v =>
      (List.range (8 * w)).map fun g => (rb.toNat + v * rs.toNat + g) % 64
  | _ => []

/-- What a valid routine declares: N′, K′, its rows and its OUTs; none where 19 R406 is broken. -/
def routineFacts (l : List Instr) : Option (Nat × Nat × BitVec 64 × BitVec 64 × List (Nat × Nat)) :=
  let n := l.length
  let isEnd (i : Instr) : Bool := match i with | .microEnd => true | _ => false
  let loopOf (i : Instr) : Option (Nat × Nat) := match i with
    | .microLoop c b => some (c.toNat + 1, b.toNat + 1)
    | _ => none
  let okAt (j : Nat) (i : Instr) : Bool :=
    (isEnd i == (j + 1 == n)) && (match loopOf i with
      | some (_, back) => decide (back ≤ j) && ((l.drop (j - back)).take back).all fun x => (loopOf x).isNone
      | none => true)
  let times (j : Nat) : Nat := (l.mapIdx fun k i => match loopOf i with
    | some (t, back) => if k - back ≤ j ∧ j ≤ k ∧ back ≤ k then t else 1
    | none => 1).foldl (· * ·) 1
  if n = 0 ∨ !(l.mapIdx fun j i => okAt j i).all id then none
  else
    let sum (f : Instr → Nat) : Nat := (l.mapIdx fun j i => times j * f i).foldl (· + ·) 0
    some (sum fun i => match i with | .mac v _ _ => v.toNat + 1 | _ => 0, sum microCycles,
      setOf 64 (l.flatMap (microRows 1)), setOf 64 (l.flatMap (microRows 2)),
      l.filterMap fun i => match i with | .out rb nr => some (rb.toNat, nr.toNat) | _ => none)

/-- The instructions of a list of microwords; none where one is not assigned. -/
def microsOf : List DWord → Option (List Instr)
  | [] => some []
  | w :: r => match decodeMicro w, microsOf r with
    | .ok i, some l => some (i :: l)
    | _, _ => none

def dwords : Nat → List Byte → List DWord
  | 0, _ => []
  | n + 1, b => BitVec.ofNat 64 (ofBytes (b.take 8)) :: dwords n (b.drop 8)

/-- An MLOAD fails: its entry leaves the directory, its stream is poisoned, and the calls on its routine are doomed. -/
def failMload (s : State) (c : Nat) (r : MRun) : State :=
  let doom (t : Ctx) : Ctx := { t with streams := t.streams.mapFinIdx fun _ q _ => { q with
    entries := q.entries.map fun e => if e.kind = .mcall ∧ e.loader = r.entry.id then { e with doomed := true } else e } }
  let s := s.modCore c fun k => { k with
    dir := k.dir.filter (·.loader != r.entry.id), ctxs := k.ctxs.mapFinIdx fun _ t _ => doom t, unit := none }
  let s : State := { s with strands := s.strands.map fun t => if t.core = c then { t with image := doom t.image } else t }
  s.poisonStream c r.ctx r.entry.age r.stream

/-- MLOAD_COMPLETE: the image is read, the store written, the routine validated against the N and K that its command declares,
also where a later MLOAD has taken its entry out of the directory. -/
def mloadComplete (s : State) (c : Nat) : State :=
  match (s.core c).unit with
  | some r =>
    if r.entry.kind ≠ .mload ∨ s.now < r.busyUntil then s
    else
      let d := (s.core c).dir.find? (·.loader == r.entry.id)
      let sess := ((d.map fun d => d.sess.toNat).getD (((s.strand? r.entry.age).map (·.sess)).getD 0))
      let n := r.entry.len
      let (ps, _, bad) := s.checkRange sess .engRead (n * 8 / 256 + 3) r.entry.m0 0 (n * 8)
      if bad.isSome then s.failMload c r
      else if ps.any s.pieceWaits then s
      else match s.engineRead sess (n * 8) r.src ps with
        | (.wait q, s) => s.setRunning c (some { r with src := q })
        | (.failed, s) => s.failMload c r
        | (.bytes b, s) =>
          let s := (s.claimArrays sess ps).write (storeHome c r.entry.rt) b
          match (microsOf (dwords n b)).bind routineFacts with
          | none => s.failMload c r
          | some (nn, kk, r8, r16, outs) =>
            if nn ≠ bits r.entry.m2.toNat 23 0 ∨ kk ≠ bits r.entry.m3.toNat 31 0 then s.failMload c r
            else
              let good (x : DirEntry) : DirEntry :=
                if x.loader = r.entry.id then { x with loaded := true, rows8 := r8, rows16 := r16, outs := outs } else x
              s.modCore c fun k => { k with unit := none, dir := k.dir.map good }
  | none => s

/-! ## MSWITCH (08 R210) -/

/-- An access to the macro that was issued before the switch has not performed, or a copy beat to it is under way. -/
def macroBusy (s : State) (c i before : Nat) : Bool :=
  let lo := sliceHome c (i * 0x2_0000)
  let hits (p : Piece) : Bool := match p.home with
    | .here a => decide (lo ≤ a) && decide (a < lo + 0x2_0000)
    | _ => false
  s.cores.toList.any fun k =>
    (k.ctxs.toList.any fun t => t.accesses.any fun a => decide (a.id < before) && !a.posted && a.pieces.any hits) ||
    (k.chans.toList.any fun h => h.beats.any fun b => decide (b.seq < before) && !b.posted && (b.src ++ b.dst).any hits)

/-- MACRO_MODE_CHANGE: the mode changes, bytes kept; the half bit is 0 on entering compute mode (09 R213). A byte that a
reload made of a NaN is from now on the integer that it holds (09 R216). -/
def switchMacro (s : State) (c x st i : Nat) (e : MEntry) (compute : Bool) : State :=
  if s.macroBusy c i e.id ∨ (!compute ∧ s.reloading c [i]) then s
  else
    let s := (s.takeEntry c x st e 1)
    let s := if (s.arr c i).compute = compute then s
      else (s.modArr c i fun a => { a with compute := compute, half := if compute then false else a.half }).zero
        (markHome c (i / 16) (i % 16) false) 16384
    (s.setRunning c none).switched c i e.id

/-! ## Microwords (19 R405 to R410) -/

/-- The routine that the unit of the core in hand runs. -/
def routine? (s : State) : Option MRun :=
  match (s.core s.curCore).unit with
  | some r => if r.entry.kind = .mcall then some r else none
  | none => none

/-- The unit goes on at microword `pc` after `n` cycles. -/
def nextMicro (s : State) (r : MRun) (pc n : Nat) : State :=
  s.setRunning s.curCore (some { r with entry := { r.entry with pc := pc }, busyUntil := s.now + n, held := false })

/-- Row(x) of the routine's context (19 R408). -/
def rowNo (e : MEntry) (x : Nat) : Nat := (bits e.m2.toNat 5 0 + x) % 64

def setRow (s : State) (x n : Nat) (v : Line) : State :=
  s.modCtx s.curCore x fun t => { t with regs := { t.regs with acc := t.regs.acc.setIfInBounds n v } }

/-- The macros that the routine names. -/
def routineArrs (e : MEntry) : List Nat := e.arrays

def clrRows (s : State) (r : MRun) (rb nr : Nat) : State :=
  (List.range nr).foldl (fun s k => s.setRow r.ctx (rowNo r.entry (rb + k)) clearRow) s

/-- Elements `0` to `n − 1` of activation vector `v`, and how many are inside (09 R219, R224). -/
def actVector (s : State) (x : Nat) (e : MEntry) (v n : Nat) : List Nat × Nat :=
  let b := codeBits (bits e.fmt.toNat 3 0)
  let vlen := bits e.m0.toNat 42 30
  let k := Nat.min vlen n
  let nb := ceilDiv (k * b) 8
  if e.m0.getLsbD 0 then
    let off := bits e.m0.toNat 29 6 + v * (bits e.m0.toNat 54 43 * 64)
    let d := s.readNat (sliceHome s.curCore off) nb
    ((List.range n).map fun i => if i < k then d / 2 ^ (b * i) % 2 ^ b else 0, k)
  else
    let size := ceilDiv (ceilDiv (vlen * b) 8) 256
    let line0 := 64 + 16 * bits e.m0.toNat 5 1 + v * size
    let t := s.ctx s.curCore x
    let k := Nat.min k ((384 - line0) * 2048 / b)
    let ls := ((List.range size).map fun j => elems b (t.line (line0 + j))).flatten.toArray
    ((List.range n).map fun i => if i < k then (ls[i]?).getD 0 else 0, k)

/-- The blocks of segment `g` of a vector: none for a block that lies outside (09 R221, R224). -/
def actBlocks (s : State) (e : MEntry) (v g nl : Nat) (raw : Array Nat) (inside : Nat) : List (Option MBlock) :=
  let c := bits e.fmt.toNat 3 0
  (List.range 16).map fun b =>
    let i0 := 512 * g + 32 * b
    if inside ≤ i0 then none
    else
      let a := bits e.fmt.toNat 31 16 * 256 + v * (16 * nl * scaleLen c) + (16 * g + b) * scaleLen c
      let scale := if isBlock c then s.readNat (sliceHome s.curCore a) (scaleLen c) else 0
      some (blockOfCode c ((List.range 32).map fun k => (raw[i0 + k]?).getD 0) scale (Nat.min 32 (inside - i0)))

/-- The blocks of output `o` of the active half of a macro (09 R213, R215, R216, 07 R184). -/
def wtBlocks (half : Array Byte) (sc mk : Array Byte) (c o : Nat) : List MBlock :=
  let w := wtWide c
  let n := scaleLen c
  (List.range 16).map fun b =>
    let at1 (r : Nat) : Nat := ((half[(32 * b + r) * 128 + o / w]?).getD 0).toNat
    let raw (r : Nat) : Nat := if w = 2 then at1 r / 16 ^ (o % 2) % 16 else at1 r
    let raws := (List.range 32).map raw
    let ix := (b * 128 * w + o) * n
    let sb (k : Nat) : Nat := ((sc[ix + k]?).getD 0).toNat
    if c = 3 ∨ c = 4 then
      let marked (r : Nat) : Bool :=
        let p := (32 * b + r) * 128 + o
        bit ((mk[p / 8]?).getD 0).toNat (p % 8) == 1 && at1 r == 0
      { q := raws.map fun x => signed 8 x, ea := some (signed 8 (sb 0)), nan := (List.range 32).any marked }
    else blockOfCode c raws (sb 0 + 256 * sb 1) 32

/-- One pass of a vector's segment against an output: the partials in block order, and whether N is set. A weight that is
no number sets N beside an outside block too, since the contraction includes it (07 R184; DEDUCED, log entry 67). -/
def passOf (as : List (Option MBlock)) (ws : List MBlock) : List (Int × Int) × Bool :=
  (as.zip ws).foldl (fun (l, n) p => match p.1 with
    | none => (l, n || p.2.nan)
    | some a => (l ++ partials a p.2, n || a.nan || p.2.nan)) ([], false)

/-- The reads of storage that the activations of a vector are, and their errors (04 R90). -/
def meetActs (s : State) (e : MEntry) (v nl : Nat) : State :=
  if s.errors = [] then s
  else
    let c := bits e.fmt.toNat 3 0
    let k := Nat.min (bits e.m0.toNat 42 30) (512 * nl)
    let s := if e.m0.getLsbD 0 then
        s.meet (sliceHome s.curCore (bits e.m0.toNat 29 6 + v * (bits e.m0.toNat 54 43 * 64))) (ceilDiv (k * codeBits c) 8) else s
    if isBlock c then
      s.meet (sliceHome s.curCore (bits e.fmt.toNat 31 16 * 256 + v * (16 * nl * scaleLen c))) (ceilDiv k 32 * scaleLen c)
    else s

/-- Vector `v` (number `k` of its MAC) merges into its rows, layer after layer (07 R183); the outputs' weights are given
by layer. -/
def macVector (s : State) (r : MRun) (rb rs k v : Nat) (wts : List (List (List MBlock))) : State × Bool :=
  let e := r.entry
  let nl := wts.length
  let s := s.meetActs e v nl
  let (raw, inside) := s.actVector r.ctx e v (512 * nl)
  let raw := raw.toArray
  (wts.zipIdx).foldl (fun (s, sat) (outs, g) =>
    let as := s.actBlocks e v g nl raw inside
    let groups := outs.length / 16
    (List.range groups).foldl (fun (s, sat) j =>
      let row := rowNo e (rb + k * rs + j)
      let accs := rowAccs ((s.ctx s.curCore r.ctx).acc row)
      let res := (accs.zip ((outs.drop (16 * j)).take 16)).map fun (c, ws) =>
        let (l, n) := passOf as ws
        let (x, em) := passSum l
        let (c, f) := c.merge x em
        ({ c with n := c.n || n }, f)
      (s.setRow r.ctx row (accsRow (res.map (·.1))), sat || res.any (·.2))) (s, sat)) (s, false)

/-- MAC: up to 256 vectors in one go, so that a halt can fall between (09 R234). -/
def macWord (s : State) (r : MRun) (nv rs rb : Nat) : State :=
  let e := r.entry
  let wf := bits e.fmt.toNat 7 4
  let w := wtWide wf
  let arr := bits e.m1.toNat 3 0
  let wts := (layersOf (bits e.m1.toNat 11 4)).map fun l =>
    let h := (s.arr s.curCore (l * 16 + arr)).half
    let half := (s.read (sliceHome s.curCore (arrOffset l arr h 0 0)) 65536).toArray
    let sc := (s.read (scaleHome s.curCore l arr h) 8192).toArray
    let mk := (s.read (markHome s.curCore l arr h) 8192).toArray
    (List.range (128 * w)).map (wtBlocks half sc mk wf)
  let lo := if e.half then 256 else 0
  let hi := if e.half then nv else Nat.min nv 256
  let go : State × Bool := if wts = [] then (s, false)
    else (List.range (hi - lo)).foldl (fun (s, sat) i =>
      let (s, f) := s.macVector r rb rs (lo + i) (e.cursor + i) wts
      (s, sat || f)) (s, false)
  let s := go.1.modClaim s.curCore r.ctx e.age e.id fun k => { k with sat := k.sat || go.2 }
  let last := decide (hi = nv)
  let cost := (hi - lo) * passCycles e.fmt
  s.setRunning s.curCore (some { r with
    entry := { e with pc := if last then e.pc + 1 else e.pc, cursor := e.cursor + (hi - lo), half := !last }
    busyUntil := if wts = [] then s.now + cost else s.now
    planes := if wts = [] then 0 else cost
    halves := wts.length })

/-- The bytes of OUT that may be written to the own slice: none in a compute-mode macro, in a macro of another session,
or past the slice (19 R408). -/
def outBytes (s : State) (sess off : Nat) (b : List Byte) : List (Option Byte) :=
  b.mapIdx fun i x =>
    let a := s.arr s.curCore (arrIndex (off + i))
    if a.compute || s.foreign sess .engWrite s.curCore (arrIndex (off + i)) || decide (Config.sliceBytes ≤ off + i) then none
    else some x

/-- Elements of `b` bits, from number `n` of the line sequence of a tile, as lines and the bits they cover. -/
def outLines (b tile n : Nat) (xs : List Nat) : List (Nat × Line × Line) :=
  let per := 2048 / b
  let first := n / per
  let last := (n + xs.length - 1) / per
  ((List.range (last + 1 - first)).map fun j =>
    let lo := (first + j) * per
    let put (f : Nat → Nat) : Line := ofElems b ((List.range per).map fun i =>
      if n ≤ lo + i ∧ lo + i < n + xs.length then f (xs[lo + i - n]?.getD 0) else 0)
    (64 + 16 * tile + first + j, put id, put fun _ => 2 ^ b - 1)).filter fun p => decide (p.1 < 384)

def outWord (s : State) (r : MRun) (rb nr : Nat) : State :=
  let e := r.entry
  let of := bits e.fmt.toNat 11 8
  let b := codeBits of
  let t := s.ctx s.curCore r.ctx
  let res := (List.range nr).flatMap fun k =>
    (rowAccs (t.acc (rowNo e (rb + k)))).map fun c => outConvert c (bits e.fmt.toNat 63 32) of
  let xs := res.map (·.1)
  let fl := res.foldl (fun f p => f ||| p.2) 0
  let cost := microCycles (.out (BitVec.ofNat 6 rb) (BitVec.ofNat 7 nr))
  if e.m2.getLsbD 6 then
    let off := bits e.m2.toNat 35 12 + 16 * rb * b / 8
    let data := toBytes (xs.length * b / 8) ((xs.zipIdx).foldl (fun n p => n + p.1 * 2 ^ (b * p.2)) 0)
    let sess := ((s.strand? e.age).map (·.sess)).getD 0
    let bs := s.outBytes sess off data
    let ps : List Piece := (bs.zipIdx).filterMap fun (x, i) =>
      x.map fun _ => { home := .here (sliceHome s.curCore (off + i)), off := i, len := 1 }
    if s.granuleHold ps then s.setRunning s.curCore (some { r with held := true })
    else if t.strand = some e.age ∧ readFirst t e.id ps then s
    else
      let s := (s.writeMasked (sliceHome s.curCore off) (bs.take (Config.sliceBytes - off))).claimArrays sess ps
      let s := s.modClaim s.curCore r.ctx e.age e.id fun k => { k with flags := k.flags ||| fl }
      let s := if bs.any (·.isNone) then s.poisonStream s.curCore r.ctx e.age r.stream else s
      s.nextMicro r (e.pc + 1) cost
  else
    let ls := outLines b (bits e.m2.toNat 11 7) (16 * rb) xs
    let s := s.modClaim s.curCore r.ctx e.age e.id fun k =>
      { k with flags := k.flags ||| fl, tileData := k.tileData ++ ls }
    s.nextMicro r (e.pc + 1) cost

/-- FEED and SCALE: a reload of the routine's macro from the own slice (19 R409). -/
def startFeed (s : State) (r : MRun) (off : Nat) (weights : Bool) : State :=
  let e := r.entry
  let p : DWord := BitVec.ofNat 64 (2 ^ 60 + s.curCore * 2 ^ 52 + off)
  let q : Reload := { ctx := r.ctx, age := e.age, sess := ((s.strand? e.age).map (·.sess)).getD 0, stream := r.stream,
                      arr := BitVec.ofNat 4 (bits e.m1.toNat 3 0), lmask := BitVec.ofNat 8 (bits e.m1.toNat 11 4),
                      fmt := BitVec.ofNat 4 (bits e.fmt.toNat 7 4), wptr := if weights then some p else none,
                      sptr := if weights then none else some p, wstr := 0, sstr := 0 }
  if weights ∨ isBlock q.fmt.toNat then s.pushReload s.curCore 0 q else s

end State

def execClr (rb : BitVec 6) (nr : BitVec 7) (s : State) : Out :=
  .next (match s.routine? with
    | none => s
    | some r => (s.clrRows r rb.toNat nr.toNat).nextMicro r (r.entry.pc + 1) (State.microCycles (.clr rb nr)))

def execFeed (off : BitVec 24) (s : State) : Out :=
  .next (match s.routine? with
    | none => s
    | some r => (s.startFeed r off.toNat true).nextMicro r (r.entry.pc + 1) 2)

def execMac (nvm1 : BitVec 9) (rs rb : BitVec 6) (s : State) : Out :=
  .next (match s.routine? with
    | none => s
    | some r => s.macWord r (nvm1.toNat + 1) rs.toNat rb.toNat)

def execScale (off : BitVec 24) (s : State) : Out :=
  .next (match s.routine? with
    | none => s
    | some r => (s.startFeed r off.toNat false).nextMicro r (r.entry.pc + 1) 2)

def execOut (rb : BitVec 6) (nr : BitVec 7) (s : State) : Out :=
  .next (match s.routine? with
    | none => s
    | some r => s.outWord r rb.toNat nr.toNat)

/-- WAITH: every reload that the stream has started is done; the unit stays at the microword until then. -/
def execWaith (s : State) : Out :=
  .next (match s.routine? with
    | none => s
    | some r =>
      if (s.core s.curCore).reloads.any fun q => q.age == r.entry.age && q.stream == r.stream then s
      else s.nextMicro r (r.entry.pc + 1) 0)

/-- FLIPH: it waits for an unfinished reload of the macro. -/
def execFliph (s : State) : Out :=
  .next (match s.routine? with
    | none => s
    | some r =>
      if s.reloading s.curCore r.entry.arrays then s
      else (s.flip s.curCore r.entry.arrays).nextMicro r (r.entry.pc + 1) 1)

/-- LOOP (19 R410). -/
def execMicroLoop (cntm1 : BitVec 8) (backm1 : BitVec 6) (s : State) : Out :=
  .next (match s.routine? with
    | none => s
    | some r =>
      let e := r.entry
      let cnt := if e.loopOn then e.loopCnt else cntm1.toNat
      if cnt = 0 then s.nextMicro { r with entry := { e with loopOn := false, loopCnt := 0 } } (e.pc + 1) 1
      else s.nextMicro { r with entry := { e with loopOn := true, loopCnt := cnt - 1 } } (e.pc - (backm1.toNat + 1)) 1)

/-- END: the routine finishes at the end of its cycle; its rows land under 09 R229. -/
def execMicroEnd (s : State) : Out :=
  .next (match s.routine? with
    | none => s
    | some r => s.nextMicro { r with last := true } r.entry.pc 1)

namespace State

/-! ## The unit's turn -/

/-- The unit may do its next microword: its cycles are over and no bit-plane is left. -/
def unitReady (s : State) (c : Nat) : Bool :=
  match (s.core c).unit with
  | some r => decide (r.busyUntil ≤ s.now) && r.planes == 0
  | none => false

/-- The microword at the unit's pc. -/
def microWord (s : State) (c : Nat) (r : MRun) : DWord := BitVec.ofNat 64 (s.readNat (storeHome c r.entry.pc) 8)

/-- A routine that a halt interrupts becomes the first unstarted entry of its stream (09 R234, R235). -/
def saveRemainder (s : State) (c : Nat) (r : MRun) : State :=
  (s.modStream c r.ctx r.stream fun q => { q with entries := { r.entry with rem := true } :: q.entries }).setRunning c none

/-- The routine's context is being halted, and the routine is at a pre-emptible point; an OUT that has waited for a
checkpoint to quiesce goes first (03 R78). -/
def halting (s : State) (c : Nat) (r : MRun) : Bool :=
  r.entry.kind == .mcall && (!r.held || s.ckpt.isNone) && (s.ctx c r.ctx).halt.isSome && (s.ctx c r.ctx).strand == some r.entry.age

/-- The unit lets go of what has been carried out: a routine that has ended has finished (09 R229). -/
def letGo (s : State) (c : Nat) (r : MRun) : State :=
  let s := if r.entry.kind = .mcall then s.modClaim c r.ctx r.entry.age r.entry.id fun k => { k with done := true } else s
  s.setRunning c none

/-- The unit is at an MFLIP: it waits for an unfinished reload of the macro on the layer, and toggles in one cycle (19 R398). -/
def flipTurn (s : State) (c : Nat) (r : MRun) : State :=
  if s.reloading c r.entry.arrays then s
  else (s.flip c r.entry.arrays).setRunning c (some { r with last := true, busyUntil := s.now + 1 })

/-- A routine of a strand that a kill has ended stops at a pre-emptible point (05 R118). -/
def cutShort (s : State) (r : MRun) : Bool :=
  r.entry.kind == .mcall && ((s.strand? r.entry.age).map (·.killed)).getD false

/-! ## Heat tokens (09 R232, R233) -/

/-- One cycle of a column's bucket. -/
def heatCore (now : Nat) (k : Core) : Core :=
  if now < k.heatAt then k
  else
    let b := Nat.min (k.bucket + k.refill) Config.bucketMax
    let k := { k with bucket := b, heatAt := now + 1, stopped := false }
    match k.unit with
    | some r =>
      if r.planes = 0 ∨ r.halves = 0 then k
      else if r.halves ≤ b then { k with bucket := b - r.halves, unit := some { r with planes := r.planes - 1 } }
      else { k with stopped := true }
    | none => k

end State

def execHeatTokenCycle (s : State) : Out := .next (s.modCore s.arg.core (State.heatCore s.now))

/-- ROUTINE_START (09 R225): heads of poisoned streams and barriers are discarded; an MCALL that the unit takes starts,
or a remainder resumes. -/
def execRoutineStart (s : State) : Out :=
  .next (
    let s := s.sweepStreams s.arg.core
    match s.pickEntry s.arg.core with
    | some (x, st, e) => if e.kind = .mcall then s.takeEntry s.arg.core x st { e with bd := false } 0 else s
    | none => s)

/-- MRELOAD_EXECUTE: the entry holds the unit for 2 cycles, and its reload goes on the path. -/
def execMreloadExecute (s : State) : Out :=
  .next (
    let c := s.arg.core
    let s := s.sweepStreams c
    match s.pickEntry c with
    | some (x, st, e) =>
      if e.kind = .mreload then
        let m5 := e.m2.toNat
        let m6 := e.m3.toNat
        let q : Reload := { ctx := x, age := e.age, sess := ((s.strand? e.age).map (·.sess)).getD 0, stream := st, cmd := some e,
                            arr := BitVec.ofNat 4 (bits m5 3 0), lmask := BitVec.ofNat 8 (bits m5 11 4),
                            fmt := BitVec.ofNat 4 (bits m5 15 12), wptr := some e.m0,
                            sptr := if e.m1 = 0 then none else some e.m1, wstr := bits m6 15 0, sstr := bits m6 31 16 }
        (s.takeEntry c x st e 2).pushReload c 2 q
      else s
    | none => s)

def execReloadDone (s : State) : Out := .next (s.reloadDone s.arg.core)

/-- MFLIP_EXECUTE: the unit takes an MFLIP, which toggles the half at once where no reload is to be waited for (19 R398). -/
def execMflipExecute (s : State) : Out :=
  .next (
    let c := s.arg.core
    let s := s.sweepStreams c
    match s.pickEntry c with
    | some (x, st, e) =>
      if e.kind = .mflip then
        let s := s.takeEntry c x st e 0
        s.flipTurn c { ctx := x, stream := st, entry := e, busyUntil := s.now }
      else s
    | none => s)

def execMacroModeChange (s : State) : Out :=
  .next (
    let c := s.arg.core
    let s := s.sweepStreams c
    match s.pickEntry c with
    | some (x, st, e) => match e.kind with
      | .mswitch v => match e.arrays with
        | i :: _ => s.switchMacro c x st i e v
        | [] => s
      | _ => s
    | none => s)

/-- MLOAD_EXECUTE: the read of the image begins, at 64 bytes a cycle. -/
def execMloadExecute (s : State) : Out :=
  .next (
    let c := s.arg.core
    let s := s.sweepStreams c
    match s.pickEntry c with
    | some (x, st, e) => if e.kind = .mload then s.takeEntry c x st e (ceilDiv (8 * e.len) 64) else s
    | none => s)

def execMloadComplete (s : State) : Out := .next (s.mloadComplete s.arg.core)

end Sys2Proof.Machine
end

