-- ==== Sys2Proof/Machine/System.lean ====
section
/-! DEFINITION. The system instructions ERET, TLBI, HALT, IDLE, CSAVE and CLOAD (21 R432 to R438). -/

namespace Sys2Proof.Machine

/-- A privileged slot: PRIV in a session without SYSTEM, whatever its predicate (06 R137, R150). -/
def privileged (pn : BitVec 1) (pk : BitVec 3) (s : State) (f : State → State) : Out :=
  if !s.isSystem s.curSess then .next (s.trap 0x03) else scalar pn pk s f

/-- ERET (21 R433): at the cost of a taken branch. -/
def execEret (pn : BitVec 1) (pk : BitVec 3) (s : State) : Out :=
  scalar pn pk s fun s =>
    if !s.cur.hnd then s.trap 0x03 else State.modCur s.eretTo fun c => { c with stall := State.transferStall }

/-- TLBI (21 R434): the model's walks read the tables each time, so what is left is the wait for the invalidation
(DEDUCED, log entry 15). -/
def execTlbi (pn : BitVec 1) (pk : BitVec 3) (a : BitVec 6) (s : State) : Out :=
  privileged pn pk s fun s => s.modCur fun c => c.addWait (.tlbi (c.rg a))

/-- HALT (21 R435): the session ends once every register result has landed. -/
def execHalt (pn : BitVec 1) (pk : BitVec 3) (s : State) : Out :=
  privileged pn pk s fun s =>
    if s.cur.pend ≠ [] then s.modCur fun c => { c with wait := .halt, out := .halted }
    else (s.killSession s.curSess).outcome .halted

/-- IDLE (21 R436). -/
def execIdle (pn : BitVec 1) (pk : BitVec 3) (s : State) : Out :=
  privileged pn pk s fun s => s.modCur fun c => c.addWait (.idle s.now)

namespace State

/-- Every FWR of the context has been accepted: the releases of its operands are satisfied (06 R146, 13 R278). -/
def fwrAccepted (s : State) (c x : Nat) : Bool :=
  let t := s.ctx c x
  let ok (n : Nat) : Bool := released t { mask := 0xFFFF, scope := 1, before := n }
  (s.units.all fun u => u.slots.all fun p => some p.2.age != t.strand || p.2.input.all fun q => ok q.2) &&
    t.regs.feed.toList.all fun f => f.list.all fun q => ok q.2

/-- What the bundles before the one in hand have issued has drained as for MODE, and its accesses have performed (06 R146,
21 R437). The results of the bundle's own slots land in the wait. -/
def imageReady (s : State) : Bool :=
  let z := s.modCur fun c => { c with pend := c.pend.filter fun p => decide (p.order < c.issue * 8) }
  z.drained s.curCore s.curCtx && z.fwrAccepted s.curCore s.curCtx && performedAll s.cur

/-- The steps that CSAVE and CLOAD share (21 R437): no active loop level, the wait of MODE, then the checks of 131,072
bytes in space 0x0 or 0x1 at a multiple of 64; every earlier access has performed. -/
def imageAt (s : State) (a : DWord) (why : Purpose) (f : State → List Piece → State) : State :=
  if s.cur.loops ≠ [] then s.trap 0x10
  else if !s.imageReady then
    (s.modCur fun c => { c with mwait := true }).outcome .stalled
  else if 2 ≤ bits a.toNat 63 60 then s.trapWith 0x05 0 a
  else if a % 64 ≠ 0 then s.trapWith 0x0C 0 a
  else
    let (ps, _, bad) := s.checkAccess s.curSess why a areaBytes
    match bad with
    | some d => s.trapWith d.code 0 d.eva
    | none =>
      if ps.any s.pieceWaits ∨ ps.any (s.portTaken s.curSess) ∨
          (why = .write ∧ (s.granuleHold ps ∨ !s.roomFor (State.cutPieces ps))) then s.outcome .stalled
      else f s ps

end State

/-- CSAVE: the write performs before the next bundle issues (CSAVE_COMPLETE). -/
def execCsave (pn : BitVec 1) (pk : BitVec 3) (a : BitVec 6) (s : State) : Out :=
  privileged pn pk s fun s => s.imageAt (s.cur.rg a) .write fun s _ =>
    s.modCur fun c => c.addWait (.csave (c.rg a) (c.pc + 32))

/-- CLOAD: the image is read and checked before any change; CLOAD_COMPLETE restores it. Beside a CSAVE of its bundle it reads
the image as it was before (DESIGN CHOICE, log entry 73). A far device that refuses bytes of it is met at the lowest of them (04
R85). -/
def execCload (pn : BitVec 1) (pk : BitVec 3) (a : BitVec 6) (s : State) : Out :=
  privileged pn pk s fun s => s.imageAt (s.cur.rg a) .read fun s ps =>
    let low := (s.refusedAt (State.cutPieces ps) s.cur.imageSrc.tags).getD (s.cur.rg a)
    match s.engineRead s.curSess areaBytes s.cur.imageSrc ps with
    | (.wait q, s) => State.outcome (s.modCur fun c => { c with imageSrc := q, mwait := true }) .stalled
    | (.failed, s) => State.trapWith (s.modCur fun c => { c with imageSrc := {} }) 0x07 0 low
    | (.bytes b, s) =>
      let s := (s.claimArrays s.curSess ps).modCur fun c => { c with imageSrc := {} }
      let img := b.toArray
      let pc := imageSys img 0
      if ((b.drop loopOff).take 64).any (· != 0) then s.trap 0x10
      else if pc % 32 ≠ 0 then s.trapWith 0x0C 0 pc
      else s.modCur fun c => c.addWait (.cload b)

namespace State

/-- CSAVE_COMPLETE: the results have landed, and the layout is written (21 R437). -/
def csaveComplete (s : State) (c x : Nat) : State :=
  let t := s.ctx c x
  match t.wait with
  | .csave a pc =>
    if t.pend ≠ [] then s
    else
      let sess := ((s.strandOf c x).map (·.sess)).getD 0
      let b := padTo areaBytes (fixedPart t pc (s.statusOfCtx t sess) (s.feedRecords t) (t.fixed.toNat + 2 * t.locked.toNat))
      let (ps, _, bad) := s.checkAccess sess .write a areaBytes
      let ends (s : State) : State := s.modCtx c x resume
      if bad.isSome then ends s
      else if ps.any s.pieceWaits ∨ !s.roomFor (State.cutPieces ps) then s
      else
        let s := ends s
        let ps := cutPieces ps
        let (n, s) := s.nextSeq
        let ar := b.toArray
        let (s, acks) := s.storePieces sess ps fun p => (List.range p.len).map fun i => (ar[p.off + i]?).getD 0
        let post : Access := { id := n, cls := 0, act := .store, pieces := [], posted := true, acks := acks }
        let s := (s.claimArrays sess ps).heatOf sess ps
        if acks = [] then s else s.modCtx c x fun t => { t with accesses := t.accesses ++ [post] }
  | _ => s

/-- CLOAD_COMPLETE: the state is restored, and issue goes on at the saved PC (21 R438). -/
def cloadComplete (s : State) (c x : Nat) : State :=
  let t := s.ctx c x
  match t.wait with
  | .cload b =>
    if t.pend ≠ [] then s
    else s.setCtx c x { resume (restoreImage t b.toArray) with mwait := false, stall := Nat.max t.stall State.transferStall }
  | _ => s

/-- The invalidation of TLBI is complete, or the stall of IDLE has ended. -/
def endWait (s : State) (c x : Nat) : State :=
  let t := s.ctx c x
  match t.wait with
  | .tlbi _ => s.setCtx c x (resume t)
  | .idle since => if since + Config.idleCycles ≤ s.now then s.setCtx c x (resume t) else s
  | _ => s

end State

def execCsaveComplete (s : State) : Out := .next (s.switchBack s.arg.core s.arg.ctx (s.csaveComplete s.arg.core s.arg.ctx))
def execCloadComplete (s : State) : Out := .next (s.switchBack s.arg.core s.arg.ctx (s.cloadComplete s.arg.core s.arg.ctx))

/-- TLBI_COMPLETE. -/
def execTlbiComplete (s : State) : Out :=
  .next (match (s.ctx s.arg.core s.arg.ctx).wait with
    | .tlbi _ => s.switchBack s.arg.core s.arg.ctx (s.endWait s.arg.core s.arg.ctx)
    | _ => s)

/-- IDLE_END: 1,100 cycles after issue. -/
def execIdleEnd (s : State) : Out :=
  .next (match (s.ctx s.arg.core s.arg.ctx).wait with
    | .idle _ => s.switchBack s.arg.core s.arg.ctx (s.endWait s.arg.core s.arg.ctx)
    | _ => s)

end Sys2Proof.Machine
end

