-- ==== Sys2Proof/Machine/Sched.lean ====
section
/-! DEFINITION. The hardware scheduler: dispatch, pre-emption, parking, saving and loading (05 R114 to R132), the
selector (05 R130, R131), the loop buffer (06 R148), landings and the ends of waits (06 R142, R146, R150, 16 R350). -/

namespace Sys2Proof.Machine

/-! ## Retiring a bundle (06 R135, R142, R148) -/

/-- The loop buffer at an end bundle, innermost level first: the next address, the context with the closed levels gone,
and the writes of the counters. `fuel` is the depth. -/
def loopBuffer (now : Nat) : Nat → Ctx → List Pend → DWord × Ctx × List Pend
  | 0, c, ps => (c.pc + 32, c, ps)
  | n + 1, c, ps =>
    match c.loops.reverse.find? (·.last == c.pc) with
    | none => (c.pc + 32, c, ps)
    | some l =>
      let v := c.rlc l.depth - 1
      let p : Pend := { dest := .lc l.depth, data := v.setWidth 2048,
                        due := if c.fixed then .issue (c.issue + 1) else .cycle (now + 1),
                        wall := now + 1, order := c.issue * 8 }
      if v ≠ 0 then (l.start, c, ps ++ [p])
      else loopBuffer now n { c with loops := (c.loops.reverse.erase l).reverse } (ps ++ [p])

/-- The bundle of a context has issued: the next address, and the issue cycle passes. The loop buffer's writes count
before the bundle's, the first `before` results being older. -/
def retire (t : Ctx) (now before : Nat) : Ctx :=
  let done (t : Ctx) (a : DWord) : Ctx :=
    { t with pc := a, nextPc := none, issue := t.issue + 1, met := [], parkMet := false, conds := [],
             since := if t.st = .draining then t.since else none, far := [], mwait := false, before := none,
             polls := [], holds := [], stalledFor := 0, st := if t.st = .draining ∨ t.halt.isSome then .draining else .issuable }
  match t.nextPc with
  | some a => done t a
  | none =>
    if t.hnd then done t (t.pc + 32)
    else
      let (a, t, ps) := loopBuffer now 4 t []
      done { t with pend := t.pend.take before ++ ps ++ t.pend.drop before } a

namespace State

/-! ## Dispatch and loading (05 R120, R126, 03 R79) -/

def freeCtx (s : State) (c : Nat) : Option Nat := (List.range 4).find? fun x => (s.ctx c x).st == .free

/-- DISPATCH: a strand begins to load into a free context, with a save area if it has none. -/
def dispatch (s : State) (c : Nat) : State :=
  match s.freeCtx c, (if s.ckpt.isSome then none else s.nextReady c) with
  | some x, some t =>
    let area := match t.area with
      | some k => some k
      | none => (s.session? t.sess).bind (s.freeArea t.age)
    let eff := s.effective t
    (s.modStrand t.age fun t => { t with st := .loading, eff := eff, ctx := x, area := area }).setCtx c x
      { st := .loading, strand := some t.age, since := some s.now }
  | _, _ => s

/-- Saved queue entries of a context. -/
def savedEntries (t : Ctx) : Nat :=
  (t.streams.toList.foldl (fun n q => n + q.entries.length) 0) + t.tableQ.length + t.repush0.length + t.repush1.length

/-- Cycles of a save or a load of `n` entries (05 R125, R126). -/
def moveCycles (n : Nat) : Nat := 1920 + (n + 1 - 149) / 2

/-- The copy commands of a strand that a channel has not started. -/
def unstarted (s : State) (c age h : Nat) : List CopyCmd :=
  ((s.chan c h).queue ++ (s.chan c h).buffer).filter (·.age == age)

/-- Re-pushed commands enter their channel's queue while it has room (05 R126). -/
def refillChan (s : State) (c x h : Nat) : State :=
  let t := s.ctx c x
  let l := if h = 1 then t.repush1 else t.repush0
  let n := 16 - (s.chan c h).queue.length
  let s := s.modChan c h fun k => { k with queue := k.queue ++ l.take n }
  s.modCtx c x fun t => if h = 1 then { t with repush1 := l.drop n } else { t with repush0 := l.drop n }

/-- The commands of a saved context release again when they are re-pushed (08 R199). -/
def releaseAgain (now : Nat) (t : Ctx) : Ctx :=
  let rel (r : Release) : Release := { r with before := now }
  let copy (k : CopyCmd) : CopyCmd := { k with rel := rel k.rel }
  let entry (e : MEntry) : MEntry := { e with rel := if e.rel = {} then {} else rel e.rel }
  { t with
    repush0 := t.repush0.map copy, repush1 := t.repush1.map copy
    tableQ := t.tableQ.map fun e => { e with rel := rel e.rel }
    streams := t.streams.map fun q => { q with entries := q.entries.map entry } }

/-- The load clears bit 2 of the region-mode field in the save area (20 R414). -/
def clearParked (s : State) (t : Strand) (mode : Nat) : State :=
  if bit mode 2 = 1 then
    match s.areaVa t with
    | some va => s.writeVa t.sess 2 (va + BitVec.ofNat 64 (sysOff + 120)) (toBytes 8 (mode - 4))
    | none => s
  else s

/-- LOAD_COMPLETE: the context is as its save area holds it, its entries re-pushed. A re-pushed entry releases again (08 R199):
what its strand has issued before the load has performed, and at system scope is acknowledged. -/
def loadComplete (s : State) (c x : Nat) : State :=
  let k := s.ctx c x
  match k.st, k.strand.bind s.strand? with
  | .loading, some t =>
    if s.now < k.since.getD 0 + moveCycles (savedEntries t.image) ∨ (t.saved ∧ s.areaMoves t) then s
    else
      let (b, s) := if t.saved then s.areaImage t else (none, s)
      let img := match b with
        | some b => restoreArea t.image b.toArray
        | none => t.image
      let s := match b with
        | some b => s.clearParked t (imageSys b.toArray 15).toNat
        | none => s
      let (n, s) := s.nextSeq
      let img := releaseAgain n img
      let s := s.setCtx c x { img with st := .issuable, strand := some t.age, since := none, halt := none, wait := .none, wait2 := .none }
      let s := s.modStrand t.age fun t => { t with st := .resident, residentAt := s.now, ctx := x, image := {} }
      (s.refillChan c x 0).refillChan c x 1
  | _, _ => s

/-! ## Pre-emption (05 R121, R122) -/

/-- No context of the core is free, loading or draining. -/
def allHeld (s : State) (c : Nat) : Bool :=
  (s.core c).ctxs.toList.all fun t => t.st != .free && t.st != .loading && t.st != .draining && t.halt.isNone

/-- A freeze by a heat-token stop (09 R233), or by a retry (03 R73), forbids pre-emption while it lasts (05 R119). Table
work in flight is a load, or the pending result of a query. -/
def heatFrozen (s : State) (c x : Nat) : Bool :=
  ((s.core c).stopped && s.entryBusy c x) ||
    ((s.core c).retrying != 0 && (s.matrixBusy c x || s.tableBusy c x || (s.ctx c x).pend.any (·.table)))

/-- The resident strands of a core that a halt may take. -/
def victims (s : State) (c : Nat) : List Strand :=
  (s.residents c).filter fun t => match s.ctxOf? c t.age with
    | some x => !(s.ctx c x).exits && (s.ctx c x).wait != .halt
    | none => false

/-- The first of a list under an order. -/
def first (lt : Strand → Strand → Bool) : List Strand → Option Strand
  | [] => none
  | t :: r => match first lt r with
    | some u => some (if lt t u then t else u)
    | none => some t

/-- The dispatcher halts a strand; while a heat or retry freeze lasts, it waits (05 R119). -/
def haltStrand (s : State) (c : Nat) (t : Strand) (park : Bool) : State :=
  match s.ctxOf? c t.age with
  | some x => if s.heatFrozen c x then s else s.startHalt c x park
  | none => s

/-- PREEMPTION: the RESIDENT strand of lowest effective priority, the youngest of those. -/
def preempt (s : State) (c : Nat) : State :=
  if !s.allHeld c then s
  else match s.nextReady c with
    | none => s
    | some h =>
      match first (fun t u => t.eff < u.eff || (t.eff == u.eff && u.age < t.age)) (s.victims c) with
      | some v => if v.eff < s.effective h then s.haltStrand c v false else s
      | none => s

/-- QUANTUM_EXPIRY: the longest residency of at least 2 ms at the waiting strand's priority, the youngest of those. -/
def quantum (s : State) (c : Nat) : State :=
  if !s.allHeld c then s
  else match s.nextReady c with
    | none => s
    | some h =>
      let ok (t : Strand) : Bool :=
        t.eff == s.effective h && decide (t.residentAt + Config.quantum ≤ s.now) && decide (t.prio < 120)
      match first (fun t u => t.residentAt < u.residentAt || (t.residentAt == u.residentAt && u.age < t.age))
          ((s.victims c).filter ok) with
      | some v => s.haltStrand c v false
      | none => s

/-! ## Saving (05 R124, R125) -/

/-- The engine work that a save awaits is done: a started routine has become a remainder, other started commands and
reloads have finished, and no binding is being resolved. -/
def enginesQuiet (s : State) (c x : Nat) : Bool :=
  let t := s.ctx c x
  (match (s.core c).unit with | some r => !(r.ctx == x && some r.entry.age == t.strand) | none => true) &&
    !((s.core c).reloads.any fun r => some r.age == t.strand) && !feedPending t

/-- A halted context has drained, so that its save area can be written (05 R125, 06 R142). -/
def drainedHalt (s : State) (c x : Nat) : Bool :=
  let t := s.ctx c x
  t.st == .draining && t.halt.isSome && performedAll t && t.pend == [] && t.fault.isNone && s.enginesQuiet c x &&
    [t.wait, t.wait2].all fun w => match w with | .none | .mode _ | .idle _ | .tlbi _ => true | _ => false

/-- The word that names a saved matrix entry. -/
def entryWord (e : MEntry) : Nat :=
  let i : Instr := match e.cmd with | .mcall s _ f b => .mcall s (BitVec.ofNat 12 e.pc) f b | i => i
  ((encodeWord i).map (·.toNat)).getD 0

/-- Where the word of a parked WAITW lies now: an exchange may have moved its page (08 R209). -/
def parkHome (s : State) (sess : Nat) (va : DWord) : Option Home :=
  match s.checkByte sess .read va with
  | .ok _ h false => some h
  | _ => none

/-- A condition that parked a strand of a session holds now; one on host or peer memory is met by the poll alone. -/
def parkHolds (s : State) (sess : Nat) (k : ParkCond) : Bool :=
  match k with
  | .waitw va cc v => match s.parkHome sess va with
    | some (.here a) => cond cc (BitVec.ofNat 64 (s.readNat a 8)) v
    | _ => false
  | .cbar crew e => match s.crews.find? (·.id == crew) with
    | some k => decide (e < k.episode)
    | none => true

/-- The posted writes that a poll's answered reads have met are acquired by the parked strand (08 R202, 20 R414). -/
def acquireAway (s : State) (age : Nat) (qs : List (Nat × BitVec 32)) : State :=
  if qs = [] then s
  else
    let (n, s) := s.nextSeq
    let a : Access := { id := n, cls := 0, act := .store, everyClass := true, posted := true, acks := qs }
    s.modStrand age fun t => { t with image := { t.image with accesses := t.image.accesses ++ [a] } }

/-- The conditions of a parked strand that hold are met; it is READY when none is left (05 R123, 20 R414). -/
def wakeStrand (s : State) (t : Strand) : State :=
  if t.st ≠ .parked then s
  else
    let meets (p : ParkCond × Nat × Nat) : Bool := match p.1 with
      | .waitw _ cc v => (match (s.request? p.2.1 p.2.2).bind (·.reply) with
        | some (0, b, _) => cond cc (BitVec.ofNat 64 (ofBytes b)) v
        | _ => false)
      | _ => false
    let got := t.asked.filter meets
    let answered (k : ParkCond) : Bool := got.any (·.1 == k)
    let seqs := (got.filter fun p => t.conds.contains p.1).flatMap fun p =>
      ((s.request? p.2.1 p.2.2).map fun q => q.fwdSeqs.map fun x => (p.2.1, x)).getD []
    let left := t.conds.filter fun k => !s.parkHolds t.sess k && !answered k
    if left = t.conds ∧ left ≠ [] then s
    else (s.acquireAway t.age seqs).modStrand t.age fun t =>
      if left = [] then { t with st := .ready, readyAt := s.now, conds := [], asked := [] } else { t with conds := left }

/-- The looks at the words of parked strands are reads, which meet errors (03 R72). -/
def meetPark (s : State) (t : Strand) : State :=
  if s.errors = [] then s
  else t.conds.foldl (fun s k => match k with
    | .waitw va _ _ => (match s.parkHome t.sess va with | some (.here a) => s.meet a 8 | _ => s)
    | .cbar _ _ => s) s

/-- Every parked strand whose condition a write or an episode may have made true is looked at. -/
def wakeAll (s : State) : State :=
  s.strands.foldl (fun s t => if t.st = .parked then (s.meetPark t).wakeStrand t else s) s

/-- The context that a save keeps: its unstarted copies are its re-push lists, and what it waits for is evaluated anew. -/
def savedCtx (s : State) (c : Nat) (t : Ctx) (age : Nat) (park : Bool) : Ctx :=
  let again (k : CopyCmd) : CopyCmd := { k with key := 0 }
  { t.landClaims (·.done) with
    st := .free, strand := none, wait := .none, since := none, halt := none, savingAt := none, stall := 0, stalledFor := 0
    nextPc := none, met := [], conds := [], polls := [], far := [], fetch := {}, imageSrc := {}, mwait := false, before := none
    wait2 := .none, holds := [], parkMet := park, lastTaken := none
    repush0 := (s.unstarted c age 0 ++ t.repush0).map again, repush1 := (s.unstarted c age 1 ++ t.repush1).map again }

/-- The bytes of a save (05 R124): 0x1_E000, and 32 for each entry beyond 149. The layouts of copy and table entries are not
given, so their bytes are free values (log entry 14). -/
def saveBytes (s : State) (t img : Ctx) (sess : Nat) (park : Bool) : List Byte × State :=
  let t := t.landClaims (·.done)
  let mode := t.fixed.toNat + 2 * t.locked.toNat + 4 * park.toNat
  let words := t.streams.toList.flatMap fun q => q.entries.flatMap fun e => entryBytes e (entryWord e) t.issue
  let (free, s) := s.drawBytes (32 * (img.repush0.length + img.repush1.length + img.tableQ.length))
  (padTo (0x1_E000 + 32 * (savedEntries img - 149))
    (fixedPart t t.pc (s.statusOfCtx t sess) (s.feedRecords t) mode ++ words ++ free), s)

/-- SAVE_COMPLETE: the writing of the save area begins once the context has drained; at its end the area is written, the
strand's unstarted commands have left the channels, and the context is FREE. -/
def saveComplete (s : State) (c x : Nat) : State :=
  let t := s.ctx c x
  match t.strand.bind s.strand? with
  | none => s
  | some u =>
    if !s.drainedHalt c x ∨ s.areaMoves u then s
    else match t.savingAt with
    | none => s.setCtx c x { t with savingAt := some s.now }
    | some b =>
      let park := t.halt.getD false
      let img := s.savedCtx c t u.age park
      if s.now < b + moveCycles (savedEntries img) then s
      else
        let (bytes, s) := s.saveBytes t img u.sess park
        let s := match s.areaVa u with
          | some va => s.writeVa u.sess 4 va bytes
          | none => s
        let mine (k : CopyCmd) : Bool := k.age == u.age
        let drop (k : Chan) : Chan := { k with queue := k.queue.filter (!mine ·), buffer := k.buffer.filter (!mine ·) }
        let s := s.modCore c fun k => { k with chans := k.chans.mapFinIdx fun _ h _ => drop h }
        let s := s.setCtx c x {}
        let s := s.modStrand u.age fun u => { u with
          image := img, saved := s.areaHere u, st := if park then .parked else .ready, readyAt := s.now,
          conds := t.conds.map (·.2), pollAt := s.now + Config.parkAfter, asked := [] }
        if park then (match s.strand? u.age with | some u => s.wakeStrand u | none => s) else s

/-- PARK: blocked for 17,600 cycles at one bundle whose unsatisfied conditions are all WAITW or CBAR (05 R123); a freeze for
heat or a retry is waited for (05 R119). -/
def park (s : State) (c x : Nat) : State :=
  let t := s.ctx c x
  if t.st = .blocked ∧ !s.heatFrozen c x ∧ t.out = .blocked true ∧ t.conds ≠ [] ∧ t.wait = .none ∧
      t.since.getD s.now + Config.parkAfter ≤ s.now then s.startHalt c x true
  else s

/-- PARK_POLL: every 17,600 cycles the words of a parked strand are read again. -/
def parkPoll (s : State) (age : Nat) : State :=
  match s.strand? age with
  | none => s
  | some t =>
    if t.st ≠ .parked ∨ s.now < t.pollAt then s
    else
      let s := s.modStrand age fun t => { t with pollAt := s.now + Config.parkAfter, asked := [] }
      let s := t.conds.foldl (fun s k => match k with
        | .waitw va _ _ => match (s.parkHome t.sess va).bind farOf with
          | some (l, a) =>
            let (tag, s) := s.askRead l t.sess .engine va a 8
            s.modStrand age fun t => { t with asked := (k, l, tag) :: t.asked }
          | none => s
        | .cbar _ _ => s) s
      match s.strand? age with
      | some t => s.wakeStrand t
      | none => s

/-! ## The selector (05 R131) -/

/-- A context that the selector may choose: ISSUABLE, a scoreboard stall of up to 8 cycles included (05 R130), and neither
frozen nor ended. -/
def canIssue (s : State) (c x : Nat) : Bool :=
  let t := s.ctx c x
  t.st == .issuable && t.strand.isSome && !t.exits && t.wait != .halt && t.halt.isNone && !s.heatFrozen c x

def issuables (s : State) (c : Nat) : List Strand :=
  ((List.range 4).filter (s.canIssue c)).filterMap fun x => s.strandOf c x

/-- A freeze for heat or a retry has ended before another context has issued: its context runs on, and there was no switch
(05 R131). -/
def thaw (s : State) (c : Nat) : State :=
  match (s.core c).thawTo with
  | some x => if s.canIssue c x then s.modCore c fun k => { k with running := x, switching := 0, thawTo := none } else s
  | none => s

/-- CONTEXT_SWITCH: to the highest effective priority, the oldest of those, where the running context cannot issue or is
outranked; 2 cycles pass. A freeze by a heat-token stop is no reason by itself. -/
def contextSwitch (s : State) (c : Nat) : State :=
  let s := s.thaw c
  let k := s.core c
  match s.best (s.issuables c) with
  | none => s
  | some t =>
    match s.ctxOf? c t.age with
    | none => s
    | some x =>
      let run := s.strandOf c k.running
      let outranked : Bool := match run with
        | some r => decide (s.effective r < s.effective t)
        | none => true
      if x = k.running ∨ (s.canIssue c k.running ∧ !outranked) then s
      else
        let froze : Option Nat := if s.heatFrozen c k.running then some k.running else k.thawTo
        s.modCore c fun k => { k with running := x, switching := 2, thawTo := froze }

/-! ## The ends of waits -/

/-- TRAP_ENTRY: every result has landed and every access has performed (06 R150, 08 R199). A fault that an access has met
since its issue becomes the trap of the bundle that follows (log entry 12). HALT's end is the wait for the results. -/
def trapEntry (s : State) (c x : Nat) : State :=
  let t := s.ctx c x
  match t.wait, t.fault with
  | .trap cause eva, f =>
    let late := f.getD (cause, eva)
    if performedAll t ∧ t.pend = [] then (s.setCtx c x { t with fault := none }).enterTrap c x late.1 late.2 else s
  | .halt, _ => if t.pend = [] then s.killSession (((s.strandOf c x).map (·.sess)).getD 0) else s
  | .none, some (cause, eva) | .mode _, some (cause, eva) =>
    s.setCtx c x { t with wait := .trap cause eva, fault := none, since := none, met := [] }
  | _, _ => s

/-- MODE_COMPLETE (06 R146). -/
def modeComplete (s : State) (c x : Nat) : State :=
  let t := s.ctx c x
  match t.wait with
  | .mode f =>
    if t.st = .draining ∨ t.fault.isSome ∨ !s.drained c x ∨ !s.fwrAccepted c x then s
    else
      let t : Ctx := { t with wait := .none, nextPc := none, sys := { t.sys with status := Ctx.statusOf f t.hnd t.pfixed t.sys.status } }
      s.setCtx c x (retire t s.now t.pend.length)
  | _ => s

/-- The landing after ERET has ended: the bundle at EPC may issue with every result landed (06 R150). -/
def landEnd (s : State) (c x : Nat) : State :=
  let t := s.ctx c x
  if t.wait = .land ∧ t.pend = [] then s.setCtx c x (resume t) else s

/-- STRAND_DONE (16 R350): the registers keep their values (25 R468); copies may still run, those of the re-push lists once they have entered their queues. A strand
that a kill has ended leaves its context when its accesses have performed (05 R118). -/
def strandDone (s : State) (c x : Nat) : State :=
  let t := s.ctx c x
  match t.wait, t.strand with
  | .exit, some age =>
    let killed : Bool := ((s.strand? age).map (·.killed)).getD true
    if t.pend ≠ [] ∨ (if killed then !performedAll t else !acknowledgedAll t) ∨ s.matrixBusy c x ∨ s.tableBusy c x ∨
        t.repush0 ≠ [] ∨ t.repush1 ≠ [] ∨ (!killed ∧ !s.fwrAccepted c x) then s
    else
      let s := (s.leaveCrew age).releaseFeed age none
      let left : Ctx := { regs := t.regs, sys := t.sys, doneXfers := t.doneXfers }
      (s.modStrand age fun u => { u with st := .done, ended := true, image := left }).setCtx c x { regs := t.regs }
  | _, _ => s

/-- WAITW_POLL (20 R421): a blocked WAITW on host or peer memory whose last read has answered is evaluated anew. -/
def waitwPoll (s : State) (c x : Nat) : State :=
  let t := s.ctx c x
  let old (p : Nat × Nat × Nat × Nat) : Bool :=
    decide (p.2.2.2 + 1100 ≤ s.now) && ((s.request? p.2.1 p.2.2.1).bind (·.reply)).isSome
  let gone := (t.polls.filter old).map fun p => (p.2.1, p.2.2.1)
  State.setCtx { s with requests := s.requests.filter fun q => !gone.contains (q.link, q.tag) } c x
    { t with polls := t.polls.filter (!old ·) }

end State

/-! ## Events: core, context, strand and channel stand in the event's argument -/

def execDispatch (s : State) : Out := .next (s.dispatch s.arg.core)
def execLoadComplete (s : State) : Out := .next (s.switchBack s.arg.core s.arg.ctx (s.loadComplete s.arg.core s.arg.ctx))
def execPreemption (s : State) : Out := .next (s.preempt s.arg.core)
def execQuantumExpiry (s : State) : Out := .next (s.quantum s.arg.core)

/-- PRIORITY_AGEING (05 R117): effective priority is a function of the cycles in READY, so its rise changes no field. -/
def execPriorityAgeing (s : State) : Out := .next s
def execPark (s : State) : Out := .next (s.park s.arg.core s.arg.ctx)
def execParkWake (s : State) : Out :=
  .next (match s.strand? s.arg.age with | some t => s.wakeStrand t | none => s)
def execParkPoll (s : State) : Out := .next (s.parkPoll s.arg.age)
def execSaveComplete (s : State) : Out := .next (s.saveComplete s.arg.core s.arg.ctx)

/-- REPUSH_ENTRY (05 R126). -/
def execRepushEntry (s : State) : Out :=
  .next (if (s.ctx s.arg.core s.arg.ctx).st = .draining then s else s.refillChan s.arg.core s.arg.ctx s.arg.chan)
def execContextSwitch (s : State) : Out := .next (s.contextSwitch s.arg.core)

/-- RESULT_LANDING (06 R142): what is due lands, and ERET's wait ends with the last of it. -/
def execResultLanding (s : State) : Out :=
  .next (s.switchBack s.arg.core s.arg.ctx
    ((s.modCtx s.arg.core s.arg.ctx fun t => t.landDue s.now).landEnd s.arg.core s.arg.ctx))
def execTrapEntry (s : State) : Out := .next (s.switchBack s.arg.core s.arg.ctx (s.trapEntry s.arg.core s.arg.ctx))
def execStrandDone (s : State) : Out := .next (s.strandDone s.arg.core s.arg.ctx)
def execModeComplete (s : State) : Out := .next (s.switchBack s.arg.core s.arg.ctx (s.modeComplete s.arg.core s.arg.ctx))
def execWaitwPoll (s : State) : Out := .next (s.waitwPoll s.arg.core s.arg.ctx)

/-- SESSION_KILL (05 R118): KillSession of a session that exists. -/
def execSessionKill (s : State) : Out :=
  .next (match s.session? s.arg.sess with | some _ => s.killSession s.arg.sess | none => s)

end Sys2Proof.Machine
end

