-- ==== Sys2Proof/Machine/Recovery.lean ====
section
/-! DEFINITION. The safe region: checkpoints, their commit and fold, and restores (03 R76 to R82, 02 R62, R63); start-up and the
restarts of the package (03 R65, R74, 01 R14, R29, R30). -/

namespace Sys2Proof.Machine
namespace State

/-! ## The areas of the safe region (03 R76) -/

/-- The slot of a granule of HBM4 or CIM SRAM in the base image, and the granule of a slot (DESIGN CHOICE, log entry 63). -/
def hbmGranules : Nat := Config.hbmBytes / 65536
def baseSlot (g : Nat) : Nat := if g < hbmGranules then g else hbmGranules + (g - sliceBase / 65536)
def slotGranule (k : Nat) : Nat := if k < hbmGranules then k else sliceBase / 65536 + (k - hbmGranules)

/-- Cells of a striped area in slot `k`, moved to slot `j`. -/
def moveSlot (k j : Nat) (x : Striped) : List Host.Cell :=
  (x.cells (k * 65536) 65536).map fun c => (j * 65536 + c.1 % 65536, c.2)

/-- Fold: the granules of the delta go to their slots of the base image, and the delta's records are the base's (03 R79). -/
def fold (s : State) : State :=
  match s.delta, s.committed with
  | some d, some k =>
    if d.number = k.number then
      let x := s.areaRead s.deltaArea
      let put (b : Striped) (e : Nat × Nat) : Striped :=
        b.fill (baseSlot e.1 * 65536) 65536 (moveSlot e.2 (baseSlot e.1) x)
      { s with
        baseArea := s.areaStore ((k.index.zipIdx).foldl put (s.areaRead s.baseArea))
        base := some d, delta := none, folding := false }
    else { s with folding := false }
  | _, _ => { s with folding := false }

/-! ## Checkpoints (03 R79) -/

/-- Quiesce: every resident strand that can be halted is pre-empted; a heat or retry freeze is waited for (05 R119). -/
def quiesce (s : State) : State :=
  (List.range 128).foldl (fun s c => (List.range 4).foldl (fun s x =>
    let t := s.ctx c x
    if t.st ≠ .free ∧ t.st ≠ .loading ∧ t.halt.isNone ∧ t.wait ≠ .exit ∧ t.wait ≠ .halt ∧ !s.heatFrozen c x then s.startHalt c x false
    else s) s) s

/-- A DATA write that stood in a host port's replay buffer when the checkpoint began has not been acknowledged. -/
def dataOut (s : State) (k : Ckpt) : Bool :=
  let old (l : Nat) (seq : BitVec 32) : Bool :=
    (s.link l).replay.any fun f => field f.2 5 2 % 8 == 2 && (f.1 - seq).msb
  old 16 k.seqA || old 17 k.seqB

/-- Quiesce is over: every context is free, no routine, reload, load or row operation is in progress, no beat, and nothing
that was held until now waits to perform (03 R78). -/
def quiesced (s : State) (k : Ckpt) : Bool :=
  (s.cores.toList.all fun k =>
    k.ctxs.toList.all (·.st == .free) && k.unit.isNone && k.reloads == [] &&
      (match k.tload with | some r => r.suspended.isSome | none => true) &&
      k.chans.toList.all fun h => h.beats.all (·.posted) && (match h.running with | some r => !r.held | none => true)) &&
    s.units.all (fun u => u.rowOp.isNone && u.guaranteed.isNone && u.slots.all fun p => !p.2.held) &&
    s.lateWrites == [] && s.exchanges == [] && !s.dataOut k

/-- A checkpoint begins: its journal marks are the highest accepted sequence numbers. -/
def beginCkpt (s : State) (who : Option (Nat × Nat)) (reset : Bool) : State :=
  quiesce { s with
    ckpt := some {
      who := who, reset := reset, markA := (s.port 1).highest, markB := (s.port 2).highest
      seqA := (s.link 16).nextSeq, seqB := (s.link 17).nextSeq } }

/-- The records of the checkpoint. -/
def imageOf (s : State) (k : Ckpt) : Image :=
  { number := s.ckptNumber + 1, markA := k.markA, markB := k.markB, journal := s.journal, cyc := s.cyc,
    cores := s.cores.toList, units := s.units, sessions := s.sessions, strands := s.strands, launches := s.launches,
    crews := s.crews, handles := s.handles, queues := s.recvQueues, credits := s.credits, tables := s.tables,
    regionTier := s.regionTier, swapped := s.swapped, waves := s.waves, ageCounter := s.ageCounter
    mem := s.mem.filter fun c => decide (scaleBase ≤ c.1) }

/-- The granules of a write to the delta area, in the order of their slots. -/
def deltaIndex (s : State) : List Nat := s.dirty.reverse

/-- Write: every dirty granule and the records go to the delta area. -/
def writeDelta (s : State) (k : Ckpt) : State :=
  let put (x : Striped) (e : Nat × Nat) : Striped := x.fill (e.2 * 65536) 65536 (s.granuleCells e.1 e.2)
  { s with
    deltaArea := s.areaStore ((s.deltaIndex.zipIdx).foldl put {})
    delta := some (s.imageOf k), ckpt := some { k with at_ := .written, index := s.deltaIndex } }

/-- A granule has been written, by a peer, since it went to slot `k` of the delta. -/
def changedSince (s : State) (e : Nat × Nat) : Bool :=
  s.granuleCells e.1 e.2 != (s.areaRead s.deltaArea).cells (e.2 * 65536) 65536

/-- Commit and Resume: the record is durable in both copies, with the index of what Write put; dirty bits and logged flags clear,
and the pre-image log empties. A granule that a peer has written since the Write step is dirty (DEDUCED, log entry 45). -/
def commit (s : State) (k : Ckpt) (img : Image) : State :=
  let index := k.index
  let again (g : Nat) : Bool := match index.zipIdx.find? (·.1 == g) with
    | some e => s.changedSince e
    | none => true
  let c : Commit := {
    number := img.number, markA := img.markA, markB := img.markB, cyc := img.cyc, index := index, digest := indexDigest index }
  let covers (j : Journal) : Journal :=
    if j.sq ≤ (if j.port = 1 then k.markA else k.markB) then { j with covered := true } else j
  { s with
    commits := [c, c], dirty := s.dirty.filter again, logged := [], logArea := {}
    folding := true, ckpt := none, journal := s.journal.map covers }

/-! ## Restores (03 R80 to R82, 02 R62, R63) -/

/-- Nothing of what a context had asked for comes any more. -/
def calmCtx (t : Ctx) : Ctx :=
  let feed (f : Feed) : Feed := { f with src := {} }
  { t with
    accesses := [], polls := [], far := [], fetch := {}, imageSrc := {}
    regs := { t.regs with feed := t.regs.feed.mapFinIdx fun _ f _ => feed f } }

/-- A strand as a restore finds it: its accesses have performed before the commit, and READY begins anew. -/
def revive (now : Nat) (t : Strand) : Strand :=
  { t with readyAt := now, pollAt := now + Config.parkAfter, asked := [], image := calmCtx t.image }

/-- A core as a restore finds it: its started copies and loads ask again. -/
def calmCore (now : Nat) (old k : Core) : Core :=
  let chan (h : Chan) : Chan := { h with beats := [], running := h.running.map fun r => { r with src := {}, held := false } }
  { k with
    bucket := Config.bucketMax, heatAt := now, stopped := false, retrying := 0, switching := 0
    ecccnt := old.ecccnt, retrycnt := old.retrycnt, tload := k.tload.map fun r => { r with src := {} }
    chans := k.chans.mapFinIdx fun _ h _ => chan h }

/-- The journal after a restore. Entries that the checkpoint covers are as it left them; work accepted after its mark is executed
again under its own numbers, or discarded; a control command in progress is interrupted. A command at or before the mark that
goes on from the image is no re-execution, so that REPLAYED stays clear (DESIGN CHOICE, log entry 70). -/
def rewind (img : Image) (replay : Bool) (keep : Option (Nat × Nat)) (s : State) : State :=
  let back (j : Journal) : Journal :=
    if some (j.port, j.sq) = keep then j
    else if 6 ≤ Cmd.type j.cmd then j
    else if j.sq ≤ (if j.port = 1 then img.markA else img.markB) then
      match img.journal.find? fun k => k.port == j.port && k.sq == j.sq with
      | some k => { j with effected := k.effected, final := k.final, detail := k.detail, cyc := k.cyc }
      | none => j
    else if replay then { j with effected := false, final := none, replayed := true }
    else j
  let s : State := { s with journal := s.journal.map back }
  let open_ (p q : Nat) : Bool := ((s.entry? p q).map (·.final.isNone)).getD false
  let s : State := { s with ports := s.ports.mapFinIdx fun i t _ =>
    { t with waiting := t.waiting.filter fun w => !open_ (i + 1) w.1 } }
  s.journal.foldl (fun s j =>
    if some (j.port, j.sq) = keep ∨ j.final.isSome then s
    else if 6 ≤ Cmd.type j.cmd then s.complete j.port j.sq 0x23 0
    else if !replay ∧ (if j.port = 1 then img.markA else img.markB) < j.sq then s.complete j.port j.sq 0x24 0
    else s) s

/-- The sessions that a rank that has gone kills (03 R81). -/
def lostSessions (img : Image) (n : Nat) : List Nat :=
  let gone := img.cores.drop n
  (gone.flatMap fun k =>
    (k.arrs.toList.filterMap fun a => a.owner.map (·.toNat)) ++ (k.dir.map (·.sess.toNat)) ++
      k.tslots.toList.filterMap fun d => if d.desc.getLsbD 14 then some (bits d.desc.toNat 13 8) else none) ++
    (img.queues.filterMap fun r => if n ≤ r.core then some r.owner else none) ++
    img.strands.filterMap fun t => if n ≤ t.core ∧ t.st ≠ .done then some t.sess else none

/-- The sessions that map a page of the failed package (03 R74). -/
def packageSessions (s : State) : List Nat :=
  if s.deadPackage.isNone then []
  else (s.sessions.filter fun t => !t.noRoom && (s.leaves t.table).any fun l =>
    Pte.tier l.2.2.2 == 1 && s.onDeadPackage (Pte.ppn l.2.2.2 * 65536) (pageSize l.2.1)).map (·.id)

/-- A byte of the capacity tier lies on the package that has failed (03 R74, 04 R94). -/
def goneByte (s : State) (a : Nat) : Bool :=
  match s.deadPackage with
  | some k => decide (capBase ≤ a) && decide (a < capBase + Config.capBytes) && (a - capBase) / 4096 % 48 == k
  | none => false

/-- The rank that a home address belongs to, if it is a core's own memory. -/
def rankOf (a : Nat) : Option Nat :=
  if a < sliceBase then none
  else if a < scaleBase then some ((a - sliceBase) / Config.sliceBytes)
  else if a < tableBase then some ((a - scaleBase) / 0x20_0000)
  else if a < storeBase then some ((a - tableBase) / 0x10_0000)
  else if a < bankStoreBase then some ((a - storeBase) / 0x8000)
  else if a < markBase then none
  else some ((a - markBase) / 0x20_0000)

/-- A home address that a rank which has gone, or a package, no longer has. -/
def lostHome (s : State) (a : Nat) : Bool :=
  (match rankOf a with | some r => decide (s.ncores ≤ r) | none => false) || s.goneByte a

/-- Memory after a restore: the capacity tier under the pre-images of its logged granules, the granules of the base image, and
the memories that the records hold. -/
def restoredMem (s : State) (img : Image) : List Host.Cell :=
  let log := s.areaRead s.logArea
  let capOf (g : Nat) : Bool := decide (capBase / 65536 ≤ g) && decide (g < (capBase + Config.capBytes) / 65536)
  let cap := s.mem.filter fun c => capOf (c.1 / 65536) && !s.logged.contains (c.1 / 65536)
  let pre := s.logged.reverse.zipIdx.flatMap fun e => moveSlot e.2 e.1 log
  let base := (s.areaRead s.baseArea).data.map fun c => (slotGranule (c.1 / 65536) * 65536 + c.1 % 65536, c.2)
  ((cap ++ pre ++ base ++ img.mem).filter (!s.lostHome ·.1)).foldl (fun m c => memWrite m c.1 [some c.2]) []

/-- The state of the device is that of the base image: the steps of 03 R80, with the kills of 03 R74 and R81. A page that has
retired since leaves the tables once more, and the sessions that map it are killed (04 R112, R113; DEDUCED, log entry
16). -/
def reinstate (s : State) (img : Image) (replay : Bool) (keep : Option (Nat × Nat)) : State :=
  let now := s.now
  let unit (u : BankUnit) : BankUnit := { u with
    guaranteed := none, closeAt := none, stepAt := 0, opFrom := 0, slots := u.slots.map fun p => (p.1, { p.2 with waitingSince := none, held := false }) }
  let s : State := { s with
    cores := (Vector.replicate 128 ({} : Core)).mapFinIdx fun i _ _ =>
      if i < s.ncores then calmCore now (s.core i) (img.cores.getD i {}) else {}
    units := img.units.map unit, sessions := img.sessions, strands := img.strands.map (revive now), launches := img.launches,
    crews := img.crews, handles := img.handles, recvQueues := img.queues.filter fun r => decide (r.core < s.ncores)
    credits := img.credits, tables := img.tables, waves := img.waves, ageCounter := img.ageCounter
    regionTier := img.regionTier, swapped := img.swapped
    mem := s.restoredMem img
    dirty := [], exchanges := [], requests := [], inbound := [], bankQueue := [], bankHeld := [], lateWrites := [], pageHeat := [], regionHeat := [], ckpt := none }
  let s := rewind img replay keep s
  let s := (lostSessions img s.ncores ++ s.packageSessions).foldl (fun s id =>
    if ((s.session? id).map (·.killed)).getD true then s else s.killSession id) s
  s.retired.foldl (fun s p => s.retirePage (p * 65536)) s

def emptyImage : Image := {}

/-- A restore: it completes any fold, and reinstates the base image. -/
def reinstateCommitted (s : State) (replay : Bool) (keep : Option (Nat × Nat)) : State :=
  let s := s.fold
  s.reinstate (s.base.getD emptyImage) replay keep

/-- RESTORE: running work ends, and the committed checkpoint is reinstated. -/
def restore (s : State) (p q : Nat) (replay : Bool) : State :=
  (s.reinstateCommitted replay (some (p, q))).complete p q 0x00 (s.ckptNumber % 2 ^ 32)

/-! ## Start-up (03 R65, R74, 01 R14, R29, R30) -/

/-- The safe region is initialised: a new epoch, no entry (02 R50), and a committed checkpoint 0 of the device as it is with
nothing in it, so that work is executed again from the start after a restart that comes before the first CHECKPOINT (02
R62; DEDUCED, log entry 16). -/
def initSafe (s : State) : State :=
  let c : Commit := { number := 0, markA := 0, markB := 0, cyc := 0, index := [], digest := indexDigest [] }
  { s with
    safeReady := true, epoch := Config.freeEpoch s.drawn, drawn := s.drawn + 1, journal := [], ports := .replicate 2 {}
    commits := [c, c], base := some emptyImage, delta := none, baseArea := {}, deltaArea := {}, logArea := {}, folding := false
    dirty := [], logged := [], retired := [], cycMark := 0 }

/-- Nothing runs: cores, units, strands and sessions are gone, and only the capacity tier keeps its bytes. -/
def clearWork (s : State) : State :=
  { s with
    cores := .replicate 128 {}, units := [], waves := [], sessions := [], strands := [], launches := [], crews := []
    handles := [], recvQueues := [], credits := [], tables := [], exchanges := [], requests := [], inbound := [], bankQueue := [], bankHeld := [], lateWrites := [], pageHeat := []
    regionHeat := [], regionTier := [], swapped := [], ckpt := none
    mem := s.mem.filter fun c => decide (capBase ≤ c.1) && decide (c.1 < capBase + Config.capBytes) }

/-- The EVENT messages that wait for a link (02 R59): a restart or the loss of the link does not lose them. -/
def keptEvents (l : Nat) (k : Link) : List (BitVec 16 × List Byte) :=
  if isHostLink l then k.backlog.filter (·.1 == 4) else []

/-- Link training: width 0 is down, 1 degraded; a link that is not listed trains at full width (01 R14). -/
def widthOf (s : State) (l : Nat) : Nat := ((s.found.widths.find? (·.1 == l)).map (·.2)).getD 2
def trainLinks (s : State) : State :=
  let train (l : Nat) (k : Link) : Link :=
    { up := s.widthOf l != 0, degraded := s.widthOf l == 1, backlog := keptEvents l k, lastIdle := s.now }
  { s with links := s.links.mapFinIdx fun l k _ => train l k }

/-- The time tree (01 R29, 02 R48): a time root and a device whose links reach no root are their own root; another takes its
time over the up link nearest the root, the lowest-numbered of those. -/
def treeOf (s : State) : State :=
  let up (l : Nat) : Bool := decide (l < 16) && (s.link l).up
  let ways := if s.flash.timeRoot then [] else s.found.hops.filter fun w => up w.1
  let near := ways.find? fun w => ways.all fun v => decide (w.2 < v.2) || (w.2 == v.2 && decide (w.1 ≤ v.1))
  let parent := near.map (·.1)
  { s with
    hops := (near.map (·.2 + 1)).getD 0, parent := parent
    children := (s.found.children.filter fun l => up l && some l != parent) }

/-- The tree of the start-up, from whose root CYC is then taken. -/
def timeTree (s : State) : State := { s.treeOf with offset := 0, correction := 0, corrWait := 0 }

/-- The tree is built again when a link trains or goes down (01 R29), and leaving or reaching the bound is reported (01 R31). CYC
is not set again: a device that has become its own root has no offset left to correct. -/
def regrow (s : State) : State :=
  if s.mode ≠ .ready then s
  else
    let z := s.treeOf
    let z : State := if z.parent.isNone then { z with offset := 0, correction := 0 } else z
    let ok := decide (z.hops ≤ 16) && decide (z.offset.natAbs ≤ 16)
    if ok = s.timeOk then z
    else State.eventBoth { z with timeOk := ok } (if ok then 2 else 1) (if ok then 0 else BitVec.ofInt 64 z.offset)

/-- A link goes down: its buffers are gone, an EVENT of KIND 6 is sent, a host port frees Burgee, and a peer link ends
every session with a SEND or RECV bound to it (01 R14, R23, 02 R36, R59). A strand that is blocked in a SEND on it ends its
session when it tries again. -/
def dropLink (s : State) (l : Nat) : State :=
  let s := s.modLink l fun k => { up := false, backlog := keptEvents l k }
  let s := s.eventBoth 6 (BitVec.ofNat 64 (if isHostLink l then l - 15 else 128 + l))
  if isHostLink l then (if s.burgee.toNat = l - 15 then { s with burgee := 0 } else s)
  else
    let s := s.regrow
    let bound := (s.recvQueues.filter (·.link == l)).map (·.owner) ++ (s.credits.filter (·.link == l)).map (·.owner)
    bound.foldl (fun s id => if ((s.session? id).map (·.killed)).getD true then s else s.killSession id) s

/-- The start value of CYC (01 R30): the device's proposal, or the time of its tree where that is later. -/
def startCyc (s : State) (fresh : Bool) : DWord :=
  let m := (s.journal.map (·.cyc.toNat) ++ s.commits.map (·.cyc.toNat) ++ [s.cycMark.toNat]).foldl Nat.max 0
  BitVec.ofNat 64 (Nat.max (if fresh then 0 else m + 2 ^ 25) s.found.time.toNat)

/-- Start-up has ended in Pennant state: nothing runs, and the ports answer (03 R71; DESIGN CHOICE, log entry 53). No EVENT tells of
it (DESIGN CHOICE, log entry 76). -/
def pennant (s : State) : State := { s.clearWork.trainLinks with mode := .pennant, hops := 0, parent := none, children := [] }

/-- Step 5: a capacity-tier package that has failed whole is out of use, and what the safe region had on it is gone. -/
def losePackage (s : State) : State :=
  match s.deadPackage, s.found.dead with
  | none, some k => { s with
    deadPackage := some k, baseArea := s.baseArea.lose k, deltaArea := s.deltaArea.lose k, logArea := s.logArea.lose k }
  | _, _ => s
def secondPackage (s : State) : Bool :=
  match s.deadPackage, s.found.dead with
  | some j, some k => j != k
  | _, _ => false

/-- Step 7: the committed checkpoint is restored, or the safe region initialised if there is none (02 R50). -/
def restoreStep (s : State) (keep : Option (Nat × Nat)) : State :=
  let begun (k : Core) : Core := { k with ecccnt := 0, retrycnt := 0 }
  if s.safeReady then
    let s : State := { s with cyc := s.startCyc false, cores := s.cores.mapFinIdx fun _ k _ => begun k }
    s.reinstateCommitted true keep
  else
    let s := s.clearWork.initSafe
    { s with cyc := s.startCyc true }

/-- The device is ready: the down links and the restart are reported, a time fault where the root is too far, and the ring
positions that are not done are to be written again (01 R14, R31, 02 R56, R64). -/
def report (s : State) : State :=
  let s := (List.range 18).foldl (fun s l => if (s.link l).up then s else s.dropLink l) s
  let s := (s.event 1 0 0 (BitVec.ofNat 64 (s.port 1).highest) []).event 2 0 0 (BitVec.ofNat 64 (s.port 2).highest) []
  let s := if s.timeOk then s else s.eventBoth 1 0
  (s.repost 1).repost 2

/-- The start-up sequence of 03 R65, one indivisible step: what it meets stands in `found`. The module's power cap keeps its value
(01 R27; DESIGN CHOICE, log entry 75). -/
def restart (s : State) (keep : Option (Nat × Nat)) : State :=
  let f := s.found
  let s : State := { s with
    burgee := 0, mode := .bringUp, timeOk := false, ckpt := none, exchanges := [], requests := [], inbound := [], bankQueue := [], bankHeld := [], lateWrites := [], arrivals := [] }
  if f.fails = 1 then s.pennant
  else match s.runImages with
    | none => s.pennant
    | some s =>
      if f.fails = 2 ∨ f.fails = 3 then s.pennant
      else
        let s := s.useRecord.mapOut
        if f.fails = 4 ∨ f.fails = 5 ∨ s.ncores < 64 ∨ s.secondPackage then s.pennant
        else
          let s := s.losePackage.trainLinks.timeTree
          if f.fails = 7 then s.pennant
          else
            let s := s.restoreStep keep
            State.report { s.raiseCounters with mode := .ready, timeOk := decide (s.hops ≤ 16) }

/-- A package-fatal event (03 R74): the record is logged, and the package restarts, which maps the faulty part out. In Pennant
state nothing restarts it but power-on and the reset input (03 R71). -/
def packageFatal (s : State) (unit index place paddr : Nat) : State :=
  let s := s.logFault 2 unit index place paddr
  let parts := match partOf unit index place with
    | some d => if s.found.parts.contains d then s.found.parts else s.found.parts ++ [d]
    | none => s.found.parts
  let s : State := { s with found := { s.found with parts := parts } }
  if s.mode = .pennant then s else s.restart none

/-! ## The loss of a page (03 R72, R74, 04 R112) -/

/-- The bank of a physical address of HBM4 or of the capacity tier, as INDEX and the rest of its place (04 R91, 03 R75). -/
def bankOf (unit pa : Nat) : Nat × Nat :=
  if unit = 1 then let q := paBank pa; (q.1 / 64, placeOf (q.1 % 64) q.2.1)
  else (pa / 4096 % 48, placeOf 0 (Config.capBank pa))

/-- The pages of an address's bank that have retired within 24 h, as the fault log tells. -/
def bankLosses (s : State) (unit pa : Nat) : List Nat :=
  (s.faultLog.filterMap fun r =>
    let p := field r.bytes 16 8
    if field r.bytes 8 1 = 1 ∧ field r.bytes 9 1 = unit ∧ bankOf unit p = bankOf unit pa ∧
        s.cyc.toNat < r.cyc.toNat + Config.dayCycles then
      some (p / 65536) else none).eraseDups

/-- A page retires after a second failure of a read, with its record; the eighth of one bank within 24 h is a lasting fault of
the bank, which is package-fatal. -/
def losePage (s : State) (unit index place paddr : Nat) : State :=
  let s := (s.logFault 1 unit index place paddr).retirePage (if unit = 1 then paddr else capBase + paddr)
  if 8 ≤ (s.bankLosses unit paddr).length then s.packageFatal unit index place paddr else s

end State
end Sys2Proof.Machine
end

