-- ==== Sys2Proof/Machine/Journal.lean ====
section
/-! DEFINITION. The effects of accepted commands in journal order (02 R44, R45, R47, R48, R61 to R64), and what follows every
turn of the machine. -/

namespace Sys2Proof.Machine
namespace State

/-! ## Sessions (02 R46, 04 R97, R89) -/

/-- SESSION create takes effect: a table on its level-1 page moves away, and the page is zeroed. -/
def createSession (s : State) (p q : Nat) (m : List Byte) : State :=
  let pa := Cmd.arg m 8 8
  let t : Session := {
    id := Cmd.sess m, system := Cmd.system m, peer := Cmd.arg m 3 1 == 1, port := p, table := pa,
    pool := BitVec.ofNat 64 (Cmd.arg m 16 8), poolSize := Cmd.arg m 24 8 }
  match s.moveTable pa with
  | none => ({ s with sessions := s.sessions ++ [{ t with noRoom := true }] }).complete p q 0x27 0
  | some s => State.complete { s.zero pa 65536 with sessions := s.sessions ++ [t] } p q 0x00 0

/-- What SESSION destroy waits for once the strands have ended: no context and no engine works for the session. -/
def sessionQuiet (s : State) (id : Nat) : Bool :=
  let mine (a : Nat) : Bool := ((s.strand? a).map (·.sess)) == some id
  (s.strands.all fun t => t.sess != id || t.st == .done) && !s.exchanges.any (fun x => x.sess == id && !x.held) &&
    s.cores.toList.all fun k =>
      (k.ctxs.toList.all fun t => !(t.strand.map mine).getD false) && (k.reloads.all fun r => r.sess != id) &&
        (match k.unit with | some r => !mine r.entry.age | none => true) &&
        (match k.tload with | some r => r.sess != id | none => true) &&
        k.chans.toList.all fun h =>
          (h.running.map (·.cmd.sess)) != some id && (h.queue ++ h.buffer).all (·.sess != id) &&
            h.beats.all (·.of.cmd.sess != id) && h.finishing.all (·.1.sess != id)

/-- The bytes of a session's macros are zeroed, their scales and marks with them (04 R89). -/
def zeroMacros (s : State) (id : Nat) : State :=
  (List.range 128).foldl (fun s c =>
    (List.range 128).foldl (fun s i =>
      if (s.arr c i).owner = some (BitVec.ofNat 6 id) then
        let a := sliceHome c (i * 0x2_0000)
        let s := s.zero a 0x2_0000
        let s := s.zero (scaleHome c (i / 16) (i % 16) false) 16384
        let s := s.zero (markHome c (i / 16) (i % 16) false) 16384
        s.modCore c fun k => { k with arrs := k.arrs.setIfInBounds i {} }
      else s) s) s

/-- SESSION destroy takes effect (04 R89, 05 R133, 09 R217, 11 R253). -/
def releaseSession (s : State) (t : Session) : State :=
  let s := (s.zeroMacros t.id).freeTables t.table
  let owned (d : TSlot) : Bool := d.desc.getLsbD 14 && bits d.desc.toNat 13 8 == t.id
  let clean (k : Core) : Core := { k with
    dir := k.dir.filter (·.sess != BitVec.ofNat 6 t.id)
    tslots := k.tslots.mapFinIdx fun _ d _ => if owned d then {} else d }
  { s with
    cores := s.cores.mapFinIdx fun _ k _ => clean k
    sessions := s.sessions.filter (·.id != t.id)
    handles := s.handles.filter (·.1 != t.id)
    recvQueues := s.recvQueues.filter (·.owner != t.id)
    pageHeat := s.pageHeat.filter (·.1 != t.id)
    regionHeat := s.regionHeat.filter (·.1 != t.id)
    regionTier := s.regionTier.filter (·.1 != t.id)
    exchanges := s.exchanges.filter (·.sess != t.id)
    swapped := s.swapped.filter (·.1 != t.id) }

/-! ## Launches (02 R41 to R45, 05 R114 to R116) -/

/-- Every earlier launch of the session has completed (02 R61). -/
def launchesOver (s : State) (n sess : Nat) : Bool :=
  (s.journal.take n).all fun j => !(Cmd.type j.cmd == 1 && Cmd.sess j.cmd == sess) || j.final.isSome

/-- The dependences of a launch: whether all have completed OK, known as soon as one has not (02 R44); none before. -/
def depsDone (s : State) (ds : List (Nat × Nat)) : Option Bool :=
  let fs := ds.map fun d => (s.entry? d.1 d.2).bind (·.final)
  if fs.any fun f => f.isSome && f != some 0 then some false else if fs.any (·.isNone) then none else some true
def depsOf (s : State) (l : Launch) : Option Bool := s.depsDone l.deps

/-- An earlier launch of a session waits on a dependence. -/
def waitsOnDeps (s : State) (n sess : Nat) : Bool :=
  (s.journal.take n).any fun j => Cmd.type j.cmd == 1 && Cmd.sess j.cmd == sess && j.final.isNone &&
    (s.depsDone (Cmd.deps j.cmd)).isNone

/-- A launch earlier in the journal than `n` is held by a MAP, a HANDLE register or a SESSION command that waits, and its
dependences are satisfied: it keeps its place in the order, unless what it waits for waits itself on a dependence of a
launch, which delays no later launch (02 R61; DEDUCED, log entry 71). -/
def heldBefore (s : State) (n : Nat) : Bool :=
  (List.range n).any fun i => match s.journal[i]? with
    | some j => Cmd.type j.cmd == 1 && !j.effected && j.final.isNone && (s.depsDone (Cmd.deps j.cmd)).isSome &&
        !s.waitsOnDeps i (Cmd.sess j.cmd)
    | none => false

/-- The next launch to leave the journal order: one with a failed dependence at once, else the first that has not entered
and waits for no dependence (05 R114, 02 R44, R61). -/
def nextLaunchable (s : State) : Option Launch :=
  let open_ := s.launches.filter fun l => !l.entered && l.status == 0
  match open_.find? fun l => s.depsOf l == some false with
  | some l => some l
  | none =>
    let ready := open_.filter fun l => (s.depsOf l).isSome
    (ready.find? fun l => ready.all fun k => decide (l.id ≤ k.id)).filter fun l => !s.heldBefore l.id

def endLaunch (s : State) (l : Launch) (status detail : Nat) : State :=
  State.complete { s with launches := s.launches.filter (·.id != l.id), strands := s.strands.filter (·.launch != l.id) }
    l.port l.sq status detail

/-- The core of strand `i` over the cores that the mask selects (05 R115). -/
def homeCore (cores : List Nat) (spread : Bool) (i : Nat) : Nat :=
  cores.getD ((if spread then i else i / 4) % cores.length) 0

/-- The strands of a launch enter the pool whole, in index order (05 R114 to R116). -/
def enterStrands (s : State) (l : Launch) (cores : List Nat) (crew : Option Nat) : State :=
  let b := l.body
  let n := field b 16 2 + 1
  let hints := field b 20 4
  let first := s.ageCounter
  let img := startCtx (bit hints 0 == 1) (BitVec.ofNat 64 (field b 0 8)) (BitVec.ofNat 64 (field b 8 8)) (BitVec.ofNat 64 n)
    (BitVec.ofNat 64 (crew.getD 0))
  let s := (List.range n).foldl (fun s i =>
    s.newStrand l.id l.sess (homeCore cores (bit hints 1 == 1) i) (field b 19 1) (BitVec.ofNat 32 i) img) s
  let s : State := match crew with
    | some k => { s with crews := s.crews ++ [{ id := k, sess := l.sess, members := (List.range n).map (first + ·) }] }
    | none => s
  s.modLaunch l.id fun l => { l with entered := true, nextIndex := n, created := n }

/-- LAUNCH_ENTRY: the next launch completes DEPFAIL, NOCORE or FAULT without strands, enters, or waits for room or for
a crew id. A replayed launch's mask loses the cores that are gone (03 R81). -/
def launchEntry (s : State) : State :=
  if s.ckpt.isSome then s
  else match s.nextLaunchable with
    | none => s
    | some l =>
      let b := l.body
      let mask := field b 64 16
      let cores := (List.range s.ncores).filter fun c => mask = 0 ∨ bit mask c = 1
      if s.depsOf l = some false then s.endLaunch l 0x20 0
      else if ((s.session? l.sess).map (·.killed)).getD true then s.endLaunch l 0x21 0
      else if cores = [] then s.endLaunch l 0x26 0
      else if poolMax < s.pooled + field b 16 2 + 1 then s
      else if bit (field b 20 4) 2 = 1 then
        match s.freeCrew 3 l.id with
        | none => s
        | some k => s.enterStrands l cores (some k)
      else s.enterStrands l cores none

/-- No engine command of a strand is left (02 R45). -/
def engineFree (s : State) (t : Strand) : Bool :=
  let k := s.core t.core
  !s.copying t.core t.age && (k.reloads.all (·.age != t.age)) &&
    (match k.unit with | some r => r.entry.age != t.age | none => true) &&
    (match k.tload with | some r => r.age != t.age | none => true) &&
    (List.range 4).all fun x => (s.ctx t.core x).strand != some t.age

/-- LAUNCH_COMPLETE (02 R45). That a device which a launch reaches was not restored to the same checkpoint is known to
several devices together, and comes with the event: PEERLOST (02 R57, R63; DESIGN CHOICE, log entry 61). -/
def launchDone (s : State) (n : Nat) : State :=
  match s.launch? n with
  | none => s
  | some l =>
    let ts := s.strands.filter (·.launch == n)
    if (l.entered ∨ l.status ≠ 0) ∧ (ts.all fun t => t.st == .done && s.engineFree t) then
      let lost := s.arg.outcome = 0x25 ∧ l.status = 0 ∧ ((s.session? l.sess).map (·.peer)).getD false
      s.endLaunch l (if lost then 0x25 else l.status.toNat) l.created
    else s

/-! ## QUERY (02 R47, 03 R70, R75, 04 R108) -/

def newestPage (s : State) : Nat := (s.faultLog.length - 1) / 64 % 1024

/-- The identity and state reply. -/
def identity (s : State) : List Byte :=
  toBytes 2 2 ++ toBytes 1 (s.stateReg % 4) ++ toBytes 1 s.timeOk.toNat ++ toBytes 1 s.ncores ++ toBytes 1 (Nat.min s.hops 255) ++
    toBytes 2 0 ++ toBytes 8 s.epoch.toNat ++ toBytes 8 s.cyc.toNat ++ toBytes 8 s.ckptNumber ++ toBytes 4 s.newestPage ++
    ((List.range 4).flatMap fun c => toBytes 4 (s.flash.running c).version) ++ toBytes 12 0 ++ s.rsaModulus ++
    s.rsaExponent ++ toBytes 12 0 ++ s.slhKey

/-- The sequence-state reply. -/
def sequences (s : State) : List Byte :=
  toBytes 8 (s.port 1).highest ++ toBytes 8 (s.port 2).highest ++ toBytes 8 (firstOpen (s.port 1)) ++
    toBytes 8 (firstOpen (s.port 2)) ++ toBytes 8 ((s.committed.map (·.markA)).getD 0) ++
    toBytes 8 ((s.committed.map (·.markB)).getD 0) ++ toBytes 4 s.journalUsed ++ toBytes 4 0 ++ toBytes 8 s.epoch.toNat

/-- Record `i` of the ring of 65,536 records: the last one written there, or zeros. -/
def logRecord (s : State) (i : Nat) : List Byte :=
  let n := s.faultLog.length
  if i < n then
    ((s.faultLog[i + (n - 1 - i) / 65536 * 65536]?).map (·.bytes)).getD (List.replicate 64 0)
  else List.replicate 64 0

def faultPage (s : State) (p : Nat) : List Byte :=
  (List.range 64).flatMap fun i => s.logRecord (p % 1024 * 64 + i)

/-- The heat map of a session. -/
def heatMap (s : State) (sess : Nat) : List Byte :=
  let temp (c : Nat) : Nat := ((s.channelTemp.find? (·.1 == c)).map (·.2)).getD 0
  let mine := s.regionHeat.filter fun r => r.1 == sess && r.2.2 != 0
  ((List.range 768).flatMap fun c => toBytes 1 (Nat.min (temp c) 127 + (if s.hotChannels.contains c then 128 else 0))) ++
    (Ctx.sortedKeys (mine.map (·.2.1))).flatMap fun r =>
      let tier := ((s.regionTier.find? fun t => t.1 == sess && t.2.1 == r).map (·.2.2)).getD 0
      let n := ((mine.find? (·.2.1 == r)).map (·.2.2)).getD 0
      toBytes 8 (r * Config.bigPageBytes) ++ toBytes 1 tier ++ toBytes 3 0 ++ toBytes 4 n

def queryReply (s : State) (m : List Byte) : List Byte :=
  let a := Cmd.arg m 4 4
  match Cmd.arg m 0 1 with
  | 0 => s.identity
  | 1 => s.sequences
  | 2 => s.faultPage a
  | 3 => s.heatMap (a % 64)
  | _ => s.attestation a

/-- The reply is written to the buffer, truncated to its length; the full length. -/
def hostQuery (s : State) (p : Nat) (m : List Byte) : State × Nat :=
  let b := s.queryReply m
  let (hp, a) := Cmd.hostPtr p (Cmd.arg m 8 8)
  (s.hostWrite hp a (b.take (Cmd.arg m 16 4)), b.length)

/-! ## MGMT (02 R48, 03 R67, R68) -/

/-- Ensign's reads of host memory for a command body (02 R60). `fuel` bounds the pieces. -/
def ensignAsk (s : State) (p q l : Nat) : Nat → Nat → Nat → State
  | 0, _, _ => s
  | k + 1, a, n =>
    if n = 0 then s
    else
      let len := Nat.min n (256 - a % 256)
      ensignAsk (s.askRead l 0 (.ensign p q) 0 a len).2 p q l k (a + len) (n - len)

def ensignReads (s : State) (p q : Nat) : List Request := s.requests.filter (·.who == .ensign p q)

/-- MGMT with OP 1 or 2: the image is read, then dealt with; whether the command is still in progress. -/
def mgmtImage (s : State) (j : Journal) : State :=
  let n := Cmd.arg j.cmd 16 4
  let (hp, a) := Cmd.hostPtr j.port (Cmd.arg j.cmd 8 8)
  if 0x400_0000 < n then s.complete j.port j.sq 0x00 3
  else if !j.effected ∧ n ≠ 0 then
    (s.modEntry j.port j.sq fun j => { j with effected := true }).ensignAsk j.port j.sq (portLink hp) (n / 256 + 2) a n
  else
    let rs := s.ensignReads j.port j.sq
    if rs.any (·.reply.isNone) then s
    else
      let t : State := { s with requests := s.requests.filter (·.who != .ensign j.port j.sq) }
      if rs.any fun r => ((r.reply.map (·.1)).getD 0) != 0 then t.complete j.port j.sq 0x21 0xFFFF_FFFF
      else
        let b := rs.flatMap fun r => padTo r.len ((r.reply.map (·.2.1)).getD [])
        let (d, t) := if Cmd.arg j.cmd 0 1 = 1 then t.stageImage b else t.stageRecord b
        t.complete j.port j.sq 0x00 d

/-! ## The journal order (02 R61) -/

/-- The pages that a MAP or an UNMAP names contain one that is being exchanged (04 R98). -/
def exchanging (s : State) (m : List Byte) : Bool :=
  let va := Cmd.arg m 8 8
  let n := (if Cmd.type m = 3 then Cmd.arg m 24 4 else Cmd.arg m 16 4) * pageSize (Cmd.arg m 1 1 == 1)
  s.exchanges.any fun x => x.sess == Cmd.sess m && !x.held &&
    ((decide (va ≤ x.va) && decide (x.va < va + n)) || (decide (va ≤ x.vb) && decide (x.vb < va + n)))

/-- MAP takes effect, and resumes or fails what was suspended on a page that it names (04 R98, 12 R268, R269). -/
def doMap (s : State) (j : Journal) (t : Session) : State :=
  let m := j.cmd
  let big := Cmd.arg m 1 1 == 1
  let va := Cmd.arg m 8 8
  let n := Cmd.arg m 24 4
  let (k, s) := s.mapPages t.id t.table (Cmd.arg m 29 1) (Cmd.arg m 28 1) (Cmd.arg m 30 1) big n va (Cmd.arg m 16 8) 0
  let f (p : DWord) : Option Bool :=
    if bits p.toNat 63 52 = 0 ∧ va ≤ p.toNat ∧ p.toNat < va + n * pageSize big then some (s.walk t.table p.toNat).isSome
    else none
  ((s.resolveCopies t.id f).resolveLoads t.id f).complete j.port j.sq 0x00 k

/-- UNMAP takes effect. -/
def doUnmap (s : State) (j : Journal) (t : Session) : State :=
  let m := j.cmd
  let big := Cmd.arg m 1 1 == 1
  let va := Cmd.arg m 8 8
  let n := Cmd.arg m 16 4
  let (k, s) := s.unmapPages t.id t.table big n va 0
  let f (p : DWord) : Option Bool :=
    if bits p.toNat 63 52 = 0 ∧ va ≤ p.toNat ∧ p.toNat < va + n * pageSize big then some false else none
  ((s.resolveCopies t.id f).resolveLoads t.id f).complete j.port j.sq 0x00 k

/-- One entry, number `n` of the journal, tries to take effect; whether it waits. A HANDLE release of a number that is not
registered, where the spec states no outcome, completes OK (DESIGN CHOICE, log entry 69). -/
def effect (s : State) (n : Nat) (j : Journal) : Bool × State :=
  let p := j.port
  let q := j.sq
  let m := j.cmd
  let t := s.session? (Cmd.sess m)
  let gone := (t.map (·.noRoom)).getD false
  match Cmd.type m with
  | 1 =>
    if j.effected then (false, s)
    else if gone then (false, s.complete p q 0x27 0)
    else if t.isNone then (false, s.complete p q 0x21 0)
    else
      let l : Launch := { id := n, port := p, sq := q, sess := Cmd.sess m, body := m.drop 32, deps := Cmd.deps m, replayed := j.replayed }
      (false, ({ s with launches := s.launches ++ [l] }).modEntry p q fun j => { j with effected := true })
  | 2 =>
    if Cmd.arg m 0 1 = 0 then (false, s.createSession p q m)
    else match t with
      | none => (false, s.complete p q 0x00 0)
      | some t =>
        if gone then (false, State.complete { s with sessions := s.sessions.filter (·.id != t.id) } p q 0x27 0)
        else if !s.launchesOver n t.id then (true, s)
        else
          let s := if t.destroying then s else
            let end1 (l : Launch) : Launch := if l.sess = t.id ∧ l.status = 0 then { l with status := 0x22 } else l
            State.endStrands ({ (s.modSession t.id fun t => { t with destroying := true }) with launches := s.launches.map end1 }) t.id
          if s.sessionQuiet t.id then (false, (s.releaseSession t).complete p q 0x00 0) else (true, s)
  | 3 =>
    if gone then (false, s.complete p q 0x27 0)
    else if s.exchanging m then (true, s)
    else match t with
      | none => (false, s.complete p q 0x21 0)
      | some t => (false, s.doMap j t)
  | 4 =>
    if gone then (false, s.complete p q 0x27 0)
    else if !s.launchesOver n (Cmd.sess m) ∨ s.exchanging m then (true, s)
    else match t with
      | none => (false, s.complete p q 0x21 0)
      | some t => (false, s.doUnmap j t)
  | 5 =>
    let num := Cmd.arg m 2 2
    let sess := Cmd.sess m
    let rest := s.handles.filter fun h => !(h.1 == sess && h.2.1 == num)
    if gone then (false, s.complete p q 0x27 0)
    else if Cmd.arg m 1 1 = 0 then
      (false, State.complete { s with handles := rest ++ [(sess, num, BitVec.ofNat 1024 (Cmd.arg m 8 128))] } p q 0x00 0)
    else if !s.launchesOver n sess then (true, s)
    else (false, State.complete { s with handles := rest } p q 0x00 0)
  | 6 =>
    if j.effected ∨ s.ckpt.isSome ∨ s.folding then (false, s)
    else (false, (s.modEntry p q fun j => { j with effected := true }).beginCkpt (some (p, q)) false)
  | 7 => (false, s.restore p q (Cmd.arg m 0 1 == 1))
  | 8 => let (s, d) := s.hostQuery p m; (false, s.complete p q 0x00 d)
  | _ =>
    match Cmd.arg m 0 1 with
    | 0 =>
      if j.effected ∨ s.ckpt.isSome ∨ s.folding then (false, s)
      else (false, (s.modEntry p q fun j => { j with effected := true }).beginCkpt (some (p, q)) true)
    | 3 => (false, State.complete { s with powerCap := Cmd.arg m 16 4 } p q 0x00 0)
    | 4 => (false, State.complete { s with flash := { s.flash with timeRoot := Cmd.arg m 16 4 == 1 } } p q 0x00 0)
    | _ => (false, s.mgmtImage j)

/-- What waits in the journal, by session: any command; a command that holds for every later one of its session (a MAP, a HANDLE
register, a SESSION command); and whether a destroy waits. -/
structure Waiting where
  any : List Nat := []
  binding : List Nat := []
  destroys : Bool := false
  deriving DecidableEq, Repr

/-- Whether a command waits behind what waits before it: a LAUNCH only behind what holds for it, the others behind every earlier
command of their session, and a create behind every destroy (02 R61). -/
def Waiting.holds (w : Waiting) (m : List Byte) : Bool :=
  let creates := Cmd.type m == 2 && Cmd.arg m 0 1 == 0
  if Cmd.type m = 1 then w.binding.contains (Cmd.sess m)
  else decide (Cmd.type m ≤ 5) && (w.any.contains (Cmd.sess m) || (creates && w.destroys))

def Waiting.add (w : Waiting) (m : List Byte) : Waiting :=
  let binds := Cmd.type m == 2 || Cmd.type m == 3 || (Cmd.type m == 5 && Cmd.arg m 1 1 == 0)
  { any := Cmd.sess m :: w.any
    binding := if binds then Cmd.sess m :: w.binding else w.binding
    destroys := w.destroys || Cmd.type m == 2 }

/-- The entries that have not completed try in journal order. Nothing takes effect while a checkpoint quiesces, and nothing in
Pennant state (02 R58). -/
def effects (s : State) : State :=
  if s.mode = .pennant then s
  else ((List.range s.journal.length).foldl (fun (a : Waiting × State) n =>
    match a.2.journal[n]? with
    | none => a
    | some j =>
      if j.final.isSome ∨ a.2.ckpt.isSome then a
      else if a.1.holds j.cmd then (a.1.add j.cmd, a.2)
      else
        let (waits, t) := a.2.effect n j
        (if waits then a.1.add j.cmd else a.1, t)) ({}, s)).2

/-- A checkpoint in progress goes on: what it has to halt is halted; once all is quiet its delta is written, and then it
commits; a reset then restarts the package and completes after the restart (03 R79). -/
def ckptStep (s : State) : State :=
  match s.ckpt with
  | none => s
  | some k =>
    match k.at_, s.delta with
    | .quiesce, _ | .written, none =>
      let s := s.quiesce
      if s.quiesced k then s.writeDelta k else s
    | .written, some img =>
      let s := s.commit k img
      match k.who with
      | some (p, q) =>
        if !k.reset then s.complete p q 0x00 (s.ckptNumber % 2 ^ 32)
        else
          let s := s.restart (some (p, q))
          if s.mode = .pennant then s else s.complete p q 0x00 0
      | none => s

/-- What follows a change: the journal's entries take effect as far as they can, twice where a restore has put some
back. -/
def runJournal (s : State) : State :=
  if s.journal.all (fun j => j.final.isSome) ∧ s.ckpt.isNone then s
  else s.effects.effects.ckptStep.effects

/-- What follows every step of the machine: parked strands whose condition holds wake, and the journal goes on. -/
def after (s : State) : State := s.wakeAll.runJournal

/-! ## Commands (02 R482) -/

/-- A command message in Pennant state (02 R58). WHAT 0 and WHAT 2 share one limit of rate, and a malformed QUERY of them gets
PENNANT (DESIGN CHOICE, log entry 76). -/
def pennantCommand (s : State) (p : Nat) (m : List Byte) : State :=
  let what := Cmd.arg m 0 1
  if Cmd.headerOk m ∧ Cmd.type m = 8 ∧ (what = 0 ∨ what = 2) ∧ !s.badBody m then
    if s.tooSoon (s.port p).lastQuery then s.respond p m 0 0x18 0
    else ((s.modPort p fun t => { t with lastQuery := some s.now }).hostQuery p m).1.respond p m 0 0x02 0
  else s.respond p m 0 0x19 0

/-- A command message: the steps of 02 R482 in their order, and what an accepted one brings about. -/
def command (s : State) (p : Nat) (m : List Byte) : State :=
  if s.mode = .pennant then s.pennantCommand p m
  else if !Cmd.headerOk m then s.respond p m 0 0x10 0
  else match s.sameTag p m with
    | some q => s.respond p m q 0x01 1
    | none => match s.rejects p m with
      | some c => s.respond p m 0 c 0
      | none => (s.accept p m).runJournal

/-- A command of the event's kind, at a port. -/
def commandEvent (s : State) (k : Nat) : State :=
  if Cmd.kind s.arg.msg = k ∧ (s.arg.port = 1 ∨ s.arg.port = 2) then s.command s.arg.port s.arg.msg else s

end State

/-! ## Events: the port and the message stand in the event's argument -/

def execLaunch (s : State) : Out := .next (s.commandEvent 0)
def execSessionCreate (s : State) : Out := .next (s.commandEvent 1)
def execSessionDestroy (s : State) : Out := .next (s.commandEvent 2)
def execMap (s : State) : Out := .next (s.commandEvent 3)
def execUnmap (s : State) : Out := .next (s.commandEvent 4)
def execHandleRegister (s : State) : Out := .next (s.commandEvent 5)
def execHandleRelease (s : State) : Out := .next (s.commandEvent 6)
def execCheckpoint (s : State) : Out := .next (s.commandEvent 7)
def execRestore (s : State) : Out := .next (s.commandEvent 8)
def execQueryIdentity (s : State) : Out := .next (s.commandEvent 9)
def execQuerySequence (s : State) : Out := .next (s.commandEvent 10)
def execQueryFaultLog (s : State) : Out := .next (s.commandEvent 11)
def execQueryHeatMap (s : State) : Out := .next (s.commandEvent 12)
def execQueryAttestation (s : State) : Out := .next (s.commandEvent 13)
def execMgmtReset (s : State) : Out := .next (s.commandEvent 14)
def execMgmtFirmwareUpdate (s : State) : Out := .next (s.commandEvent 15)
def execMgmtCoreMapChange (s : State) : Out := .next (s.commandEvent 16)
def execMgmtPowerCap (s : State) : Out := .next (s.commandEvent 17)
def execMgmtTimeRoot (s : State) : Out := .next (s.commandEvent 18)

/-- AUTO_CHECKPOINT (03 R78, 02 R51). -/
def execAutoCheckpoint (s : State) : Out :=
  .next (
    if s.ckpt.isNone ∧ !s.folding ∧ (s.mode = .ready) ∧
        (3 * State.journalMax ≤ 4 * s.journalUsed ∨ 245_760 ≤ s.dirty.length ∨ 245_760 ≤ s.logged.length) then
      (s.beginCkpt none false).ckptStep
    else s)

/-- FOLD_COMPLETE (03 R79). -/
def execFoldComplete (s : State) : Out := .next (if s.folding then s.fold.runJournal else s)
def execLaunchEntry (s : State) : Out := .next s.launchEntry.runJournal

/-- LAUNCH_COMPLETE: the launch stands in the event's argument by its number. -/
def execLaunchComplete (s : State) : Out := .next (s.launchDone s.arg.n).runJournal

/-- EXCHANGE_SWAP (04 R107); an exchange that has been waiting begins where it can now. -/
def execExchangeSwap (s : State) : Out :=
  .next (if s.exchanges.any fun x => x.sess == s.arg.sess && !x.held then (s.endExchange s.arg.sess).runJournal
    else s.retryExchanges)

end Sys2Proof.Machine
end

