-- ==== Sys2Proof/Machine/LoadStore.lean ====
section
/-! DEFINITION. Loads, stores, vector and tile transfers, gather, scatter and the atomics (20 R412, R415 to R419). -/

namespace Sys2Proof.Machine

namespace State

/-! ## Parts of an access -/

/-- The bytes of a 256-byte vector at `p` that a mask enables, run by run (06 R137, 20 R416). -/
def maskParts (p : DWord) (q : QReg) : List Part :=
  (maskRuns 256 0 q.toNat).map fun (o, n) => (p + BitVec.ofNat 64 o, o, n)

/-- The address of element `i` of a gather or scatter of `n`-byte elements (20 R417). -/
def elemAddr (s : State) (b a : BitVec 6) (n i : Nat) : DWord :=
  s.cur.rg b + BitVec.ofNat 64 (n * ((s.cur.rv a).toNat / 2 ^ (8 * n * i) % 2 ^ (8 * n)))

/-- The enabled elements of a gather or scatter, ascending: address and enabled bytes. -/
def elemParts (s : State) (q : BitVec 3) (b a : BitVec 6) (n : Nat) : List (DWord × List Part) :=
  (List.range (256 / n)).filterMap fun i =>
    let p := s.elemAddr b a n i
    let m := (s.cur.rq q).toNat / 2 ^ (n * i) % 2 ^ n
    if m = 0 then none
    else some (p, (maskRuns n 0 m).map fun (o, k) => (p + BitVec.ofNat 64 o, n * i + o, k))

/-- The parts that a reading C slot names, for the check of SUB 3 (20 R418): every enabled element and byte. -/
def readParts (s : State) (i : Instr) : List Part :=
  let at1 (b : BitVec 6) (o : BitVec 9) (n : Nat) : List Part := [(addrOf s b o n, 0, n)]
  match i with
  | .ldb _ _ b o | .ldbn _ _ b o => at1 b o 1
  | .ldh _ _ b o | .ldhn _ _ b o => at1 b o 2
  | .ldw _ _ b o | .ldwn _ _ b o => at1 b o 4
  | .ldd _ _ b o => at1 b o 8
  | .vld _ _ b o => [(addrOf s b o 256, 0, 256)]
  | .vldq _ q _ b o => maskParts (addrOf s b o 256) (s.cur.rq q)
  | .tld _ _ b o => [(addrOf s b o 4096, 0, 4096)]
  | .vgatherW _ q _ a b => (s.elemParts q b a 4).flatMap (·.2)
  | .vgatherD _ q _ a b => (s.elemParts q b a 8).flatMap (·.2)
  | .aadd _ _ _ b _ z | .amin _ _ _ b _ z | .amax _ _ _ b _ z | .axchg _ _ _ b _ z | .acas _ _ _ b _ z
  | .afadd _ _ _ b _ z => [(s.cur.rg b, 0, if z = 1 then 8 else 4)]
  | .afaddh _ _ _ b _ _ => [(s.cur.rg b, 0, 2)]
  | _ => []

/-! ## Shared forms -/

/-- A scalar load of `n` bytes into gd (20 R415). -/
def loadG (s : State) (c : BitVec 4) (d b : BitVec 6) (o : BitVec 9) (n : Nat) (sext : Bool) : State :=
  let p := addrOf s b o n
  s.issueAccess { id := 0, cls := c, act := .load, size := n, sext := sext } .read false p n [(p, 0, n)]
    [{ dest := .g d.toNat }] 6

/-- A scalar store of the low `n` bytes of gd (20 R415). -/
def storeG (s : State) (c : BitVec 4) (d b : BitVec 6) (o : BitVec 9) (n : Nat) : State :=
  let p := addrOf s b o n
  s.issueAccess { id := 0, cls := c, act := .store, data := (s.cur.rg d).setWidth 32768 } .write true p n [(p, 0, n)] [] 0

/-- A vector load of the bytes that `q` enables: the whole of vd is claimed (20 R416). -/
def loadV (s : State) (c : BitVec 4) (d b o : BitVec 6) (q : QReg) (byLane : Bool) (parts : DWord → List Part) : State :=
  let p := addrOf s b o 256
  s.issueAccess { id := 0, cls := c, act := .load } .read false p 64 (parts p)
    [{ dest := .line d.toNat, mask := q, byLane := byLane }] 8

def storeV (s : State) (c : BitVec 4) (d b o : BitVec 6) (parts : DWord → List Part) : State :=
  let p := addrOf s b o 256
  s.issueAccess { id := 0, cls := c, act := .store, data := (s.cur.rv d).setWidth 32768 } .write true p 64 (parts p) [] 0

/-- The lines of a tile, lowest first, as access data. -/
def tileData (s : State) (t : Nat) : BitVec 32768 :=
  BitVec.ofNat 32768 ((List.range 16).foldl (fun x j =>
    x + (s.cur.line (Ctx.tileLine t j)).toNat * 2 ^ (2048 * j)) 0)

/-- A gather or scatter: element by element, ascending, alignment and then the checks; the first failure decides
(20 R417). -/
def elements (s : State) (a : Access) (why : Purpose) (els : List (DWord × List Part)) (n : Nat) (pends : List Pend)
    (lat : Nat) : State :=
  let good := els.takeWhile fun e => e.1.toNat % n == 0
  let mis := (els.find? fun e => e.1.toNat % n != 0).map (·.1)
  if why = .read ∧ s.beyondOwn (els.flatMap (·.2)) then s.trapWith 0x04 3 0
  else s.checkAccessParts a why (why == .write) true (good.flatMap (·.2)) mis pends lat

def gatherV (s : State) (c : BitVec 4) (q : BitVec 3) (d b a : BitVec 6) (n : Nat) : State :=
  s.elements { id := 0, cls := c, act := .load } .read (s.elemParts q b a n) n
    [{ dest := .line d.toNat, mask := s.cur.rq q, byLane := true }] 12

def scatterV (s : State) (c : BitVec 4) (q : BitVec 3) (d b a : BitVec 6) (n : Nat) : State :=
  s.elements { id := 0, cls := c, act := .store, data := (s.cur.rv d).setWidth 32768 } .write (s.elemParts q b a n) n [] 0

/-- An atomic: a read and a write of one location; ACAS reads gd as its comparand (20 R419). -/
def atomicG (s : State) (op : BitVec 3) (c : BitVec 4) (d b x : BitVec 6) (z : BitVec 1) : State :=
  let n := atomSize op (z == 1)
  let p := s.cur.rg b
  s.issueAccess { id := 0, cls := c, act := .atomic op (z == 1) (s.cur.rg x) (s.cur.rg d) } .read true p n [(p, 0, n)]
    [{ dest := .g d.toNat }] 10

end State

/-! ## Scalar loads and stores (20 R415) -/

def execLdb (c : BitVec 4) (d b : BitVec 6) (i : BitVec 9) (s : State) : Out := .next (s.loadG c d b i 1 true)
def execLdbn (c : BitVec 4) (d b : BitVec 6) (i : BitVec 9) (s : State) : Out := .next (s.loadG c d b i 1 false)
def execLdh (c : BitVec 4) (d b : BitVec 6) (i : BitVec 9) (s : State) : Out := .next (s.loadG c d b i 2 true)
def execLdhn (c : BitVec 4) (d b : BitVec 6) (i : BitVec 9) (s : State) : Out := .next (s.loadG c d b i 2 false)
def execLdw (c : BitVec 4) (d b : BitVec 6) (i : BitVec 9) (s : State) : Out := .next (s.loadG c d b i 4 true)
def execLdwn (c : BitVec 4) (d b : BitVec 6) (i : BitVec 9) (s : State) : Out := .next (s.loadG c d b i 4 false)
def execLdd (c : BitVec 4) (d b : BitVec 6) (i : BitVec 9) (s : State) : Out := .next (s.loadG c d b i 8 false)
def execStb (c : BitVec 4) (d b : BitVec 6) (i : BitVec 9) (s : State) : Out := .next (s.storeG c d b i 1)
def execSth (c : BitVec 4) (d b : BitVec 6) (i : BitVec 9) (s : State) : Out := .next (s.storeG c d b i 2)
def execStw (c : BitVec 4) (d b : BitVec 6) (i : BitVec 9) (s : State) : Out := .next (s.storeG c d b i 4)
def execStd (c : BitVec 4) (d b : BitVec 6) (i : BitVec 9) (s : State) : Out := .next (s.storeG c d b i 8)

/-! ## Vector and tile transfers (20 R416) -/

def execVld (c : BitVec 4) (d b i : BitVec 6) (s : State) : Out :=
  .next (s.loadV c d b i (BitVec.allOnes 256) false fun p => [(p, 0, 256)])
def execVst (c : BitVec 4) (d b i : BitVec 6) (s : State) : Out := .next (s.storeV c d b i fun p => [(p, 0, 256)])
def execVldq (c : BitVec 4) (q : BitVec 3) (d b i : BitVec 6) (s : State) : Out :=
  .next (s.loadV c d b i (s.cur.rq q) true fun p => State.maskParts p (s.cur.rq q))
def execVstq (c : BitVec 4) (q : BitVec 3) (d b i : BitVec 6) (s : State) : Out :=
  .next (s.storeV c d b i fun p => State.maskParts p (s.cur.rq q))

/-- TLD: line k of the tile from byte 256 k. -/
def execTld (c : BitVec 4) (t b i : BitVec 6) (s : State) : Out :=
  let p := addrOf s b i 4096
  .next (s.issueAccess { id := 0, cls := c, act := .load } .read false p 256 [(p, 0, 4096)]
    ((List.range 16).map fun j =>
      { dest := .line (Ctx.tileLine t.toNat j), mask := BitVec.allOnes 256, tile := true, part := j }) 22)

def execTst (c : BitVec 4) (t b i : BitVec 6) (s : State) : Out :=
  let p := addrOf s b i 4096
  .next (s.issueAccess { id := 0, cls := c, act := .store, data := s.tileData t.toNat } .write true p 256
    [(p, 0, 4096)] [] 0)

/-! ## Gather and scatter (20 R417): d the data register, a the index register, b the base -/

def execVgatherW (c : BitVec 4) (q : BitVec 3) (d a b : BitVec 6) (s : State) : Out := .next (s.gatherV c q d b a 4)
def execVgatherD (c : BitVec 4) (q : BitVec 3) (d a b : BitVec 6) (s : State) : Out := .next (s.gatherV c q d b a 8)
def execVscatterW (c : BitVec 4) (q : BitVec 3) (d a b : BitVec 6) (s : State) : Out := .next (s.scatterV c q d b a 4)
def execVscatterD (c : BitVec 4) (q : BitVec 3) (d a b : BitVec 6) (s : State) : Out := .next (s.scatterV c q d b a 8)

/-! ## Atomics (20 R419); the scope field names observers, and the device's order serves the widest (08 R204) -/

def execAadd (c : BitVec 4) (_p : BitVec 2) (d b x : BitVec 6) (z : BitVec 1) (s : State) : Out :=
  .next (s.atomicG 0 c d b x z)
def execAmin (c : BitVec 4) (_p : BitVec 2) (d b x : BitVec 6) (z : BitVec 1) (s : State) : Out :=
  .next (s.atomicG 1 c d b x z)
def execAmax (c : BitVec 4) (_p : BitVec 2) (d b x : BitVec 6) (z : BitVec 1) (s : State) : Out :=
  .next (s.atomicG 2 c d b x z)
def execAxchg (c : BitVec 4) (_p : BitVec 2) (d b x : BitVec 6) (z : BitVec 1) (s : State) : Out :=
  .next (s.atomicG 3 c d b x z)
def execAcas (c : BitVec 4) (_p : BitVec 2) (d b x : BitVec 6) (z : BitVec 1) (s : State) : Out :=
  .next (s.atomicG 4 c d b x z)
def execAfadd (c : BitVec 4) (_p : BitVec 2) (d b x : BitVec 6) (z : BitVec 1) (s : State) : Out :=
  .next (s.atomicG 5 c d b x z)
def execAfaddh (c : BitVec 4) (_p : BitVec 2) (d b x : BitVec 6) (z : BitVec 1) (s : State) : Out :=
  .next (s.atomicG 6 c d b x z)

end Sys2Proof.Machine
end

