-- ==== Sys2Proof/Machine/Sync.lean ====
section
/-! DEFINITION. FENCE, WAITW, COPYW, the barrier instructions, SEND and RECV (20 R420, R421, R426 to R429,
12 R267, R271, R273, 05 R133, R134). -/

namespace Sys2Proof.Machine

/-! ## FENCE (08 R201, 20 R420) -/

/-- FENCE: an access of its classes that waits for the earlier ones. Two of one bundle act as one. With a mask of zero it
waits for nothing and holds nothing; its scope still counts beside the other FENCE of its bundle. -/
def execFence (m : BitVec 16) (p : BitVec 2) (s : State) : Out :=
  let twin := match s.cur.accesses.getLast? with
    | some a => match a.act with
      | .fence m' p' => if s.curSlot = 7 ∧ a.bundle = s.cur.issue then some (a.id, m', p') else none
      | _ => none
    | none => none
  match twin with
  | some (id, m', p') =>
    let wide := if p.ult p' then p' else p
    .next (s.modCur fun c =>
      let merge (a : Access) : Access := if a.id = id then { a with act := .fence (m ||| m') wide } else a
      { c with accesses := c.accesses.map merge })
  | none =>
    let (n, s) := s.nextSeq
    let a : Access := { id := n, cls := 0, act := .fence m p, slot := s.curSlot, bundle := s.cur.issue }
    .next (s.modCur fun c => { c with accesses := c.accesses ++ [a] })

namespace State

/-- The condition of the slot in hand has been observed to hold (20 R413), or its strand parked on it (20 R414). -/
def isMet (s : State) : Bool := s.cur.met.contains s.curSlot

/-- No access that an earlier bundle issued keeps a read from performing now. The accesses of its own bundle have not
issued while it waits (20 R413; DEDUCED, log entry 66). -/
def classFree (s : State) (c : BitVec 4) (act : Act) (ps : List Piece) : Bool :=
  inOrder { s.cur with accesses := s.cur.accesses.filter (·.bundle != s.cur.issue) }
    { id := s.seq, cls := c, act := act, own := ps.any (ownPiece s.curCore), pieces := ps }

/-- Posted writes of others that the strand in hand has acquired: they count as its own in every class (08 R202). -/
def acquire (s : State) (acks : List (Nat × BitVec 32)) : State :=
  if acks = [] then s
  else
    let (n, s) := s.nextSeq
    let a : Access := { id := n, cls := 0, act := .store, everyClass := true, posted := true, acks := acks }
    s.modCur fun c => { c with accesses := c.accesses ++ [a] }

/-! ## WAITW (20 R421) -/

/-- The watch of the slot in hand on host or peer memory: its last read. -/
def poll? (s : State) : Option (Nat × Nat × Nat × Nat) := s.cur.polls.find? (·.1 == s.curSlot)

def dropPoll (s : State) : State := s.modCur fun c => { c with polls := c.polls.filter (·.1 != s.curSlot) }

/-- An evaluation of WAITW at a piece of 8 bytes: a read of the word, which the completed wait acquires (08 R206). Of the
looks at near memory, the first and the one that finds the condition count for heat (log entry 66). -/
def watch (s : State) (k : BitVec 3) (v : DWord) (pc : Piece) : State :=
  match pc.home with
  | .here a =>
    let s := (s.meetPieces s.curSess [pc]).claimArrays s.curSess [pc]
    let met := cond k (BitVec.ofNat 64 (s.readNat a 8)) v
    let s := if met ∨ s.cur.since = none then s.heatOf s.curSess [pc] else s
    if met then s else s.blockOn (.waitw pc.va k v)
  | home =>
    let later (s : State) : State := s.blockOn (.waitw pc.va k v)
    match s.poll? with
    | some (_, l, tag, _) =>
      match s.request? l tag with
      | some q => match q.reply with
        | none => later s
        | some (st, b, _) =>
          if st = 1 then s.dropPoll.trapWith 0x07 0 pc.va
          else if cond k (BitVec.ofNat 64 (ofBytes b)) v then s.dropPoll.acquire (q.fwdSeqs.map fun x => (l, x))
          else later s
      | none => later s
    | none => match farOf home with
      | none => s
      | some (l, a) =>
        let s := s.heatOf s.curSess [pc]
        let (tag, s) := s.askRead l s.curSess (.access s.curCore s.curCtx s.seq) pc.va a 8
        later (s.modCur fun c => { c with polls := (s.curSlot, l, tag, s.now) :: c.polls })

end State

def execWaitw (c : BitVec 4) (k : BitVec 3) (v b : BitVec 6) (s : State) : Out :=
  let p := s.cur.rg b
  .next (
    if s.isMet ∨ s.cur.parkMet then s
    else if p % 8 ≠ 0 then s.trapWith 0x0C 0 p
    else
      let (ps, _, bad) := s.checkAccess s.curSess .read p 8
      match bad with
      | some d => s.trapWith d.code 0 d.eva
      | none =>
        if ps.any s.pieceWaits ∨ ps.any (s.portTaken s.curSess) ∨ ¬ s.classFree c .load ps then
          s.blockOn (.waitw p k (s.cur.rg v))
        else match ps with
          | pc :: _ => s.watch k (s.cur.rg v) pc
          | [] => s)

/-! ## COPYW (12 R267, 20 R426) -/

/-- Identifier `t` is complete, given the watermark and the next identifier (12 R267). -/
def transferComplete (wmk tidn t : DWord) : Bool :=
  let w := wmk.toNat % 2 ^ 32
  let d (x : Nat) : Nat := (x + 2 * 2 ^ 32 - w - 1) % 2 ^ 32
  decide (d (tidn.toNat % 2 ^ 32) ≤ d (t.toNat % 2 ^ 32))

def execCopyw (m : BitVec 1) (a : BitVec 4) (s : State) : Out :=
  let y := (s.cur.before.map (·.sys)).getD s.cur.sys
  let t := s.cur.rg (a.setWidth 6)
  .next (if s.isMet ∨ (if m = 0 then transferComplete y.wmk0 y.tidn0 t else transferComplete y.wmk1 y.tidn1 t) then s
    else s.outcome (.blocked false))

/-! ## Barriers (12 R270 to R273, 20 R427) -/

namespace State

/-- The checks of a barrier instruction at `p`: alignment, a valid pointer to slice memory, the rest of 04 R85. -/
def barrierAt (s : State) (p : DWord) (f : State → List Piece → State) : State :=
  if p % 16 ≠ 0 then s.trapWith 0x0C 0 p
  else if bits p.toNat 63 60 ≠ 1 then s.trapWith 0x05 0 p
  else
    let (ps, _, bad) := s.checkAccess s.curSess .write p 16
    match bad with
    | some d => s.trapWith d.code 0 d.eva
    | none => f s ps

/-- BARINIT, BAREXP and BARARV: an update of the barrier as an access of the class. -/
def barrierUpdate (s : State) (c : BitVec 4) (b : BitVec 6) (i : BitVec 9) (act : Act) : State :=
  s.barrierAt (addrOf s b i 16) fun s ps =>
    if s.granuleHold ps then s.outcome .held
    else s.issueOk { id := 0, cls := c, act := act } .write ps [] 0

end State

def execBarinit (c : BitVec 4) (d b : BitVec 6) (i : BitVec 9) (s : State) : Out :=
  .next (s.barrierUpdate c b i (.barInit ((s.cur.rg d).setWidth 32)))
def execBarexp (c : BitVec 4) (d b : BitVec 6) (i : BitVec 9) (s : State) : Out :=
  .next (s.barrierUpdate c b i (.barExp ((s.cur.rg d).setWidth 32)))
def execBararv (c : BitVec 4) (b : BitVec 6) (i : BitVec 9) (s : State) : Out :=
  .next (s.barrierUpdate c b i .barArv)

/-- BARWAIT (12 R273): evaluated as WAITW is, and never parked. -/
def execBarwait (c : BitVec 4) (d b : BitVec 6) (i : BitVec 9) (s : State) : Out :=
  .next (
    if s.isMet then s
    else s.barrierAt (addrOf s b i 16) fun s ps =>
      if ps.any s.pieceWaits ∨ ps.any (s.portTaken s.curSess) ∨ ¬ s.classFree c .load ps then s.outcome (.blocked false)
      else match ps with
        | { home := .here a, .. } :: _ =>
          let t := (s.meetPieces s.curSess ps).claimArrays s.curSess ps
          let x := t.readNat a 16
          if Bar.phase x ≠ (s.cur.rg d).toNat % 2 then t
          else if 2 ≤ Bar.state x then s.trap 0x0F
          else t.outcome (.blocked false)
        | _ => s)

/-! ## Peer messages (05 R133, R134, 20 R428, R429, 01 R19) -/

namespace State

/-- The credit that the device holds for a remote queue. -/
def credit? (s : State) (l core rq : Nat) : Option Credit :=
  s.credits.find? fun k => k.link == l && k.core == core && k.rq == rq

def queue? (s : State) (l core rq : Nat) : Option RecvQueue :=
  s.recvQueues.find? fun k => k.link == l && k.core == core && k.rq == rq

/-- A credit grant or return: an 8-byte header in one WHOLE flit of peer class 0 (01 R19). -/
def sendCredit (s : State) (l core rq owner kind n : Nat) : State :=
  s.sendMsg l (BitVec.ofNat 16 (core + rq * 128)) (toBytes 1 owner ++ toBytes 1 0 ++ toBytes 1 kind ++ toBytes 1 n ++ toBytes 4 0)

/-- The messages or credits of a queue that waiting bundles of other contexts have seen and keep (20 R413). -/
def kept (s : State) (sends : Bool) (l core rq : Nat) : Nat :=
  (List.range 128).foldl (fun n c => (List.range 4).foldl (fun n x =>
    if c = s.curCore ∧ x = s.curCtx then n
    else n + ((s.ctx c x).holds.filter (·.2 == (sends, l, core, rq))).length) n) 0

/-- A SEND or RECV over a link that is down blocks, and its session ends (01 R14, 05 R134). -/
def linkGone (s : State) : State :=
  State.outcome { s with agenda := .event .sessionKill { sess := s.curSess } :: s.agenda } (.blocked false)

end State

/-- SEND: it consumes a credit at issue and counts as a write of its class. A queue without a grant has no credit. -/
def execSend (c l q : BitVec 4) (v g : BitVec 6) (s : State) : Out :=
  let core := (s.cur.rg g).toNat % 128
  .next (if !(s.link l.toNat).up then s.linkGone else match s.credit? l.toNat core q.toNat with
    | none => s.outcome (.blocked false)
    | some k =>
      if k.owner ≠ s.curSess then s.trap 0x07
      else if k.count ≤ s.kept true l.toNat core q.toNat then s.outcome (.blocked false)
      else
        let take (j : Credit) : Credit := if j = k then { j with count := j.count - 1 } else j
        let s : State := { s with credits := s.credits.map take }
        s.issueOk { id := 0, cls := c, act := .send l q (BitVec.ofNat 7 core), data := (s.cur.rv v).setWidth 32768 }
          .write [] [] 0)

/-- RECV: the first one on an unowned queue claims it and grants 64 credits; a message is popped, one credit returns
and the message lands in vd 4 cycles later. The pop is a read of the class, after the earlier accesses of it. -/
def execRecv (c l q : BitVec 4) (v : BitVec 6) (s : State) : Out :=
  .next (
    if !(((s.session? s.curSess).map (·.peer)).getD false) then s.trap 0x07
    else if !(s.link l.toNat).up then s.linkGone
    else match s.queue? l.toNat s.curCore q.toNat with
      | none =>
        let k : RecvQueue := { link := l.toNat, core := s.curCore, rq := q.toNat, owner := s.curSess }
        let s : State := { s with recvQueues := s.recvQueues ++ [k] }
        (s.sendCredit l.toNat s.curCore q.toNat s.curSess 1 64).outcome (.blocked false)
      | some k =>
        if k.owner ≠ s.curSess then s.trap 0x07
        else match k.msgs with
          | [] => s.outcome (.blocked false)
          | m :: rest =>
            if k.msgs.length ≤ s.kept false l.toNat s.curCore q.toNat ∨ ¬ s.classFree c .recv [] then s.outcome (.blocked false)
            else
            let pop (j : RecvQueue) : RecvQueue :=
              if j.link = k.link ∧ j.core = k.core ∧ j.rq = k.rq then { j with msgs := rest } else j
            let s : State := { s with recvQueues := s.recvQueues.map pop }
            (s.sendCredit l.toNat s.curCore q.toNat s.curSess 2 1).push
              { dest := .line v.toNat, data := m, mask := BitVec.allOnes 256, due := s.dueIn 4 })

end Sys2Proof.Machine
end

