-- ==== Sys2Proof/Machine/Events.lean ====
section
/-! DEFINITION. The events of the module: power and start-up (01 R26, 03 R65, R74), time (01 R28 to R31), the links and
what they deliver (01 R14 to R23, 02 R33, R60), and the performing of accesses (08 R193, 03 R72, 04 R112). Core,
context, link, port, page, sensor values and message stand in the event's argument (DESIGN CHOICE, log entry 1). -/

namespace Sys2Proof.Machine
namespace State

/-! ## Acknowledgement and retry (01 R21 to R23) -/

/-- Serial order of sequence numbers. -/
def seqBefore (a b : BitVec 32) : Bool := (a - b).msb

/-- Posted accesses whose writes are all acknowledged leave their contexts and images (08 R211). -/
def purge (s : State) : State :=
  let gone (a : Access) : Bool := a.posted && a.acks.all fun q => s.acknowledged q.1 q.2
  let clean (t : Ctx) : Ctx := { t with accesses := t.accesses.filter (!gone ·) }
  let cleanCore (k : Core) : Core := { k with ctxs := k.ctxs.mapFinIdx fun _ t _ => clean t }
  let cleanStrand (t : Strand) : Strand := { t with image := clean t.image }
  { s with cores := s.cores.mapFinIdx fun _ k _ => cleanCore k, strands := s.strands.map cleanStrand }

/-- ACK and CREDIT of a flit: acknowledged flits leave the replay buffer, ring positions are marked done (02 R55),
posted writes are acknowledged, and waiting messages leave. -/
def ackTo (s : State) (l : Nat) (ack : BitVec 32) (credit : Nat) : State :=
  let k := s.link l
  if (k.nextSeq - k.peerAck).toNat < (ack - k.peerAck).toNat then s
  else
    let s := s.modLink l fun k => { k with
      peerAck := ack, peerCredit := credit
      replay := k.replay.filter fun f => !seqBefore f.1 ack
      egress := k.egress.filter fun e => !seqBefore e.1 ack }
    let s := if isHostLink l then
        s.modPort (l - 15) fun t => { t with notDone := t.notDone.filter fun x => match x.2.2 with
          | some q => !seqBefore q ack
          | none => true }
      else s
    s.purge.drainBacklog l (s.link l).backlog.length

/-- RETRY: every buffered flit from the named SEQ onward is sent again, in order. -/
def resend (s : State) (l : Nat) (q : BitVec 32) : State :=
  if (s.link l).up then
    ((s.link l).replay.filter fun f => !seqBefore f.1 q).foldl (fun s f => s.emit ⟨l, f.2⟩) s
  else s

/-- An event that a delivered message is: it happens next. -/
def raise (s : State) (i : Instr) (a : EventArg) : State := { s with agenda := .event i a :: s.agenda }

/-- The RETRY flit that names the expected SEQ. -/
def askRetry (s : State) (l : Nat) : State :=
  (s.modLink l fun k => { k with retrying := true, lastRetry := s.now }).sendControl l 0x10 []

/-- The first flit that is not as expected asks for a replay; until it comes, RETRY_REPEAT does (01 R22). -/
def discard (s : State) (l : Nat) : State := if (s.link l).retrying then s else s.askRetry l

/-- A flit with a CRC failure: the first of a SEQ asks for a retry, the second is a lasting fault, and the link retrains (01 R22,
R23). Which SEQ has failed is what the flit's SEQ field holds (DEDUCED, log entry 64). An unsequenced flit is discarded. -/
def badFlit (s : State) (l : Nat) (b : List Byte) : State :=
  let kind := field b 4 1
  let q := BitVec.ofNat 32 (field b 0 4)
  if kind = 0 ∨ kind = 0x10 ∨ kind = 0x20 then s
  else if (s.link l).badSeqs.contains q then
    ((s.logFault 1 0 l 0 0).discard l).raise .linkRetrain { link := l }
  else (s.modLink l fun k => { k with badSeqs := q :: k.badSeqs }).discard l

/-! ## Delivery (01 R18, R19, 02 R33) -/

/-- A message from a host, by its class: commands and register messages reach the arbiter (02 R32), a reply is an event, and
other classes are malformed. -/
def arrive (s : State) (i : Instr) (a : EventArg) : State := { s with arrivals := s.arrivals ++ [(i, a)] }
def fromHost (s : State) (l cls : Nat) (m : List Byte) : State :=
  let p := l - 15
  match cls with
  | 0 => s.arrive (Cmd.event m) { port := p, msg := m }
  | 3 =>
    let i : Instr := match registerKind m with
      | 0 => .burgeeRead | 1 => .burgeeWrite | 2 => .crbaseWrite | 3 => .crsizeWrite | _ => .registerWrite
    s.arrive i { port := p, msg := m }
  | 5 => s.raise .hostmemReply { link := l, msg := m }
  | _ => s.malformed p m

/-- The event of a message from a peer. A Reserved QKIND reads as zero (00 R6), a queue message. -/
def fromPeer (s : State) (l : Nat) (route : BitVec 16) (m : List Byte) : State :=
  let a : EventArg := { link := l, msg := m, core := bits route.toNat 6 0, rq := bits route.toNat 10 7 }
  match bits route.toNat 12 11 with
  | 0 => match field m 2 1 with
    | 1 => s.raise .creditGrant a
    | 2 => s.raise .creditReturn a
    | _ => s.raise .queueMessage a
  | 1 => s.raise .memoryRequest a
  | _ => s.raise .memoryReply a

/-- A sequenced flit is delivered: its payload joins its message, which is complete at LAST or WHOLE. -/
def deliver (s : State) (l kind : Nat) (route : BitVec 16) (payload : List Byte) : State :=
  let had := if kind = 1 ∨ kind = 4 then [] else (s.link l).gathered
  let m := had ++ payload
  if kind = 3 ∨ kind = 4 then
    let s := s.modLink l fun k => { k with gathered := [] }
    if isHostLink l then s.fromHost l (bits route.toNat 2 0) m else s.fromPeer l route m
  else s.modLink l fun k => { k with gathered := m }

/-- The flit's CRC, KIND, class and Reserved bytes are sound (01 R15 to R17, R19); Reserved bits of ROUTE read as zero (00 R6). A
LEN above 232, of which the spec does not say what becomes, counts as a CRC failure too (DESIGN CHOICE, log entry 64). -/
def flitOk (l : Nat) (b : List Byte) : Bool :=
  let kind := field b 4 1
  let route := field b 5 2
  b.length == 256 && crc64 (b.take 248) == BitVec.ofNat 64 (field b 248 8) && field b 14 2 == 0 &&
    decide (field b 7 1 ≤ 232) && (sequenced kind || kind == 0 || kind == 0x10 || kind == 0x20) &&
    (!sequenced kind || isHostLink l || bits route 12 11 != 3)

/-! ## Time (01 R28 to R31) -/

/-- A TIME flit leaves. -/
def sendTime (s : State) (l : Nat) : State :=
  (s.modLink l fun k => { k with lastTime := s.now }).sendControl l 0x20 (toBytes 8 s.cyc.toNat)

/-- TIME_EXCHANGE: after ready, a TIME flit leaves to a neighbour of the time tree, 65,536 cycles after the last. -/
def timeExchange (s : State) (l : Nat) : State :=
  if s.mode = .ready ∧ (some l = s.parent ∨ s.children.contains l) ∧ (s.link l).up ∧ (s.link l).lastTime + 65_536 ≤ s.now then s.sendTime l
  else s

/-- A measured offset from the root: correction cycles are to take it away, and leaving or reaching the bound is reported. -/
def setOffset (s : State) (off : Int) : State :=
  let ok := decide (off.natAbs ≤ 16) && decide (s.hops ≤ 16)
  { s with offset := off, correction := off, timeOk := ok }

/-- A TIME flit has come. The device nearer the root, which began the exchange, measures the round trip in eighths of a cycle; the
farther one answers, and has the sender's time and the delay that the nearer one has measured, which the spec gives no
field of the flit and the event therefore tells (DESIGN CHOICE, log entry 64). -/
def timeFlit (s : State) (l t delay : Nat) : State :=
  if s.mode ≠ .ready then s
  else if s.children.contains l then
    s.modLink l fun k => { k with roundTrip := (s.now - k.lastTime) * 8 }
  else if some l = s.parent then
    let off : Int := (s.cyc.toNat : Int) - (t + delay : Nat)
    let z := (s.setOffset off).sendTime l
    if z.timeOk = s.timeOk then z else if z.timeOk then z.eventBoth 2 0 else z.eventBoth 1 (BitVec.ofInt 64 off)
  else s

/-- FLIT_RECEIVE (01 R22). -/
def receive (s : State) (l : Nat) (b : List Byte) (delay : Nat) : State :=
  let kind := field b 4 1
  if !(s.link l).up then s
  else if !flitOk l b then s.badFlit l b
  else
    let s := s.ackTo l (BitVec.ofNat 32 (field b 8 4)) (field b 12 2)
    let q := BitVec.ofNat 32 (field b 0 4)
    let k := s.link l
    if kind = 0x10 then s.raise .retry { link := l, value := BitVec.ofNat 64 (field b 8 4) }
    else if kind = 0x20 then s.timeFlit l (field b 16 8) delay
    else if !sequenced kind ∨ seqBefore q k.expected then s
    else if q ≠ k.expected then s.discard l
    else
      let s := if k.badSeqs.contains q then s.logFault 0 0 l 0 0 else s
      let s := s.modLink l fun k => { k with
        expected := k.expected + 1, retrying := false, badSeqs := k.badSeqs.filter (· != q) }
      s.deliver l kind (BitVec.ofNat 16 (field b 5 2)) ((b.drop 16).take (field b 7 1))

/-- LINK_RETRAIN (01 R14, R23): the link trains to the width that it can have. -/
def retrain (s : State) (l : Nat) : State :=
  if !(s.link l).up then s
  else if s.widthOf l = 0 then s.dropLink l
  else ((s.modLink l fun k => { k with degraded := s.widthOf l == 1, badSeqs := [] }).resend l (s.link l).peerAck).regrow

/-! ## Peer queues (01 R19, 05 R134) -/

/-- The address of a slot of a receive queue's ring, taken in turn (05 R133; DEDUCED, log entry 31). -/
def ringVa (t : Session) (k : RecvQueue) : DWord :=
  t.pool + BitVec.ofNat 64 (t.poolSize - 0x2000_0000 + ((k.link * 128 + k.core) * 16 + k.rq) * 16384 + k.placed % 64 * 256)

def queueMessage (s : State) (l core rq : Nat) (m : List Byte) : State :=
  let sess := bits (field m 0 1) 5 0
  match s.queue? l core rq with
  | some k =>
    if k.owner = sess then
      let add (j : RecvQueue) : RecvQueue :=
        if j.link = l ∧ j.core = core ∧ j.rq = rq then { j with
          msgs := j.msgs ++ [BitVec.ofNat 2048 (field m 8 256)], placed := j.placed + 1 } else j
      let s : State := { s with recvQueues := s.recvQueues.map add }
      match s.session? sess with
      | some t => s.writeVa sess 4 (ringVa t k) ((m.drop 8).take 256)
      | none => s
    else (s.sendCredit l core rq k.owner 2 1).logFault 0 0 l 0 0
  | none => (s.sendCredit l core rq 0 2 1).logFault 0 0 l 0 0

def creditGrant (s : State) (l core rq : Nat) (m : List Byte) : State :=
  let rest := s.credits.filter fun k => !(k.link == l && k.core == core && k.rq == rq)
  { s with credits := rest ++ [{ link := l, core := core, rq := rq, owner := bits (field m 0 1) 5 0, count := field m 3 1 }] }

def creditReturn (s : State) (l core rq : Nat) (m : List Byte) : State :=
  let add (k : Credit) : Credit :=
    if k.link = l ∧ k.core = core ∧ k.rq = rq then { k with count := k.count + field m 3 1 } else k
  { s with credits := s.credits.map add }

/-! ## Requests of a peer (01 R20, 04 R94) -/

def replyBytes (status tag : Nat) (old : Nat) (data : List Byte) : List Byte :=
  toBytes 1 status ++ toBytes 3 0 ++ toBytes 4 tag ++ toBytes 2 data.length ++ toBytes 6 0 ++ toBytes 8 old ++ data

/-- A request that the layout has. One with an ATOP above 6 or a LEN outside the layout, of which the spec states no outcome, is
dropped (DESIGN CHOICE, log entry 64); Reserved bits read as zero (00 R6). -/
def requestOk (m : List Byte) : Bool :=
  let op := requestOp m
  let n := field m 16 2
  if op = 2 then m.length == 48 && decide (field m 2 1 ≤ 6) && n == 0
  else decide (1 ≤ n) && decide (n ≤ 256) && m.length == (if op = 1 then 48 + n else 48)

/-- MEMORY_REQUEST: performed only where a session of the same id maps the page with P set. A read that meets an uncorrectable
error is answered with STATUS 2 (01 R20, 04 R94, R112). -/
def serve (s : State) (l : Nat) (m : List Byte) : State :=
  if !requestOk m then s
  else
    let op := requestOp m
    let tag := field m 4 4
    let (a, len) := requestSpan m
    let reply (s : State) (st old : Nat) (b : List Byte) : State := s.sendMsg l (2 <<< 11) (replyBytes st tag old b)
    let aop := BitVec.ofNat 3 (field m 2 1)
    let sz := field m 3 1 % 2 == 1
    let may := a + len ≤ Config.tableArea ∧ (((s.session? (bits (field m 1 1) 5 0)).filter (!·.noRoom)).map fun t =>
      s.grants t false a && s.grants t false (a + len - 1)).getD false
    if ¬ may then reply s 1 0 []
    else if op = 1 then s.write a ((m.drop 48).take len)
    else
      let lost := s.errors.any fun e => decide (a ≤ e.1) && decide (e.1 < a + len) && e.2 % 4 == 3
      let s := s.meet a len
      if lost then reply s 2 0 []
      else if op = 0 then reply s 0 0 (s.read a len)
      else
        let old := s.readNat a len
        reply (s.write a (toBytes len (atomNew aop sz old (field m 24 8) (field m 32 8)).1)) 0 old []

/-- The oldest request of a link performs, where its bank is free (13 R282). -/
def serveNext (s : State) (l : Nat) : State :=
  match s.inbound.find? (·.1 == l) with
  | none => s
  | some r =>
    let (a, n) := requestSpan r.2
    if s.bankBusy { home := .here a, off := 0, len := n } then s
    else
      let s := s.modLink l fun k => { k with unserved := k.unserved.tail }
      State.serve { s with inbound := s.inbound.erase r } l r.2

/-- A request that has come waits behind those of its link that wait, and ACK with it (08 R211). -/
def takeRequest (s : State) (l : Nat) (m : List Byte) : State :=
  if m = [] then s
  else State.modLink { s with inbound := s.inbound ++ [(l, m)] } l fun k => { k with unserved := k.unserved ++ [k.expected - 1] }

/-- A reply to a request of the device: it stands with its request until who asked takes it. STATUS 2, or STATUS 1 to a
posted write, ends the session; so does either from a host port (01 R20, 02 R60). -/
def takeReply (s : State) (l : Nat) (m : List Byte) : State :=
  let tag := field m 4 4
  match s.request? l tag with
  | none => s
  | some q =>
    let st := field m 0 1
    let write := !q.read && q.who == .engine
    let ensign := match q.who with | .ensign _ _ => true | _ => false
    let fatal := !ensign && (st == 2 || (st == 1 && (write || isHostLink l)))
    let give := if fatal then 0 else st
    let data := if st = 0 then (m.drop 24).take (field m 8 2) else []
    let answer (r : Request) : Request :=
      if r.link = l ∧ r.tag = tag then
        { r with reply := some (give, if st = 0 ∧ r.fwd ≠ [] then overlay r.fwd data else data, BitVec.ofNat 64 (field m 16 8)) }
      else r
    let s : State := if write then { s with requests := s.requests.filter fun r => !(r.link == l && r.tag == tag) }
      else { s with requests := s.requests.map answer }
    if fatal ∧ (s.session? q.sess).isSome then s.killSession q.sess else s

/-! ## The thermal controller (01 R26, R27, 04 R105) -/

/-- Sensors at or above 110 °C, each since when; the readings of a cycle. -/
def heatSince (now : Nat) (l : List (Nat × Nat)) (x : Nat × Nat) : List (Nat × Nat) :=
  if x.2 < 110 then l.filter (·.1 != x.1) else if l.any (·.1 == x.1) then l else l ++ [(x.1, now)]

/-- It reads the sensors (`temps`: channels; `sensors`: die and layers; `volts`: the input), sets token refills (`refills`: core
and tokens, 0 to 8) and active-bank limits (`limits`: stack and banks, 1 to 64). A channel is hot from 95 °C until it
falls to 90 °C. What it sets for which reading, the spec leaves to the firmware (DESIGN CHOICE, log entry 5). -/
def thermal (s : State) (a : EventArg) : State :=
  let put (l : List (Nat × Nat)) (x : Nat × Nat) : List (Nat × Nat) := x :: l.filter (·.1 != x.1)
  let heat (l : List Nat) (x : Nat × Nat) : List Nat :=
    if 95 ≤ x.2 then mark l x.1 else if x.2 ≤ 90 then l.filter (· != x.1) else l
  let chans := a.temps.filter fun x => decide (x.1 < 768)
  let limit (l : List Nat) (x : Nat × Nat) : List Nat := l.set x.1 (Nat.max 1 (Nat.min x.2 64))
  let low : Option Nat := match a.volts with
    | some v => if 42 ≤ v then none else some (s.tooLow.getD s.now)
    | none => s.tooLow
  let s : State := { s with
    channelTemp := chans.foldl put s.channelTemp, hotChannels := chans.foldl heat s.hotChannels
    tooHot := a.sensors.foldl (heatSince s.now) s.tooHot, tooLow := low
    stackLimit := a.limits.foldl limit s.stackLimit, thermalAt := s.now }
  a.refills.foldl (fun s x => if x.1 < 128 then s.modCore x.1 fun k => { k with refill := Nat.min x.2 8 } else s) s

/-- The condition has lasted longer than 1 ms, at the 1.1 GHz of 00 R2. -/
def lasted (s : State) (since : Nat) : Bool := decide (since + 1_100_000 < s.now)

/-- The sensor that trips, and whether the input has failed. -/
def tripping (s : State) : Option Nat := (s.tooHot.find? fun x => s.lasted x.2).map (·.1)
def inputLow (s : State) : Bool := match s.tooLow with | some t => s.lasted t | none => false

end State

/-! ## Power and start-up -/

def execPowerOn (s : State) : Out := .next (s.restart none).runJournal
def execResetInput (s : State) : Out := .next (s.restart none).runJournal

/-- A restart begins with no sensor past its limit. -/
def State.coolDown (s : State) : State := { s with tooHot := [], tooLow := none }
def execThermalTrip (s : State) : Out :=
  .next (match s.tripping with | some i => (s.coolDown.packageFatal 7 i 0 0).runJournal | none => s)
def execPowerFault (s : State) : Out := .next (if s.inputLow then (s.coolDown.packageFatal 8 0 0 0).runJournal else s)
def execWatchdogExpiry (s : State) : Out := .next (s.packageFatal 9 0 0 0).runJournal

/-- POWER_LOSS_ERASE (02 R50, R63): the capacity tier is erased, and a new epoch begins with the next start-up. -/
def execPowerLossErase (s : State) : Out :=
  .next (State.restart { s.clearWork with mem := [], safeReady := false } none)

def execThermalController (s : State) : Out := .next (s.thermal s.arg)

/-- CYC_CONTROL_WRITE (01 R30): every 2^24 cycles. -/
def execCycControlWrite (s : State) : Out :=
  .next (if s.cycMark.toNat + 2 ^ 24 ≤ s.cyc.toNat then { s with cycMark := s.cyc } else s)

def execTimeExchange (s : State) : Out :=
  .next (if s.arg.link < 16 then s.timeExchange s.arg.link else s)

/-! ## Links -/

def execLinkRetrain (s : State) : Out := .next (if s.arg.link < 18 then s.retrain s.arg.link else s)
def execLinkDown (s : State) : Out :=
  .next (if s.arg.link < 18 ∧ (s.link s.arg.link).up then s.dropLink s.arg.link else s)
def execFlitReceive (s : State) : Out := .next (if s.arg.link < 18 then s.receive s.arg.link s.arg.msg s.arg.value.toNat else s)
def execRetry (s : State) : Out :=
  .next (if s.arg.link < 18 then s.resend s.arg.link (s.arg.value.setWidth 32) else s)
/-- RETRY_REPEAT (01 R22): 2 µs, 2,200 cycles, after the last RETRY. -/
def execRetryRepeat (s : State) : Out :=
  let k := s.link s.arg.link
  .next (if s.arg.link < 18 ∧ k.retrying ∧ k.lastRetry + 2_200 ≤ s.now then s.askRetry s.arg.link else s)
def execIdleFlit (s : State) : Out :=
  .next (if s.arg.link < 18 then s.sendIdle s.arg.link else s)
def execQueueMessage (s : State) : Out := .next (s.queueMessage s.arg.link s.arg.core s.arg.rq s.arg.msg)
def execCreditGrant (s : State) : Out := .next (s.creditGrant s.arg.link s.arg.core s.arg.rq s.arg.msg)
def execCreditReturn (s : State) : Out := .next (s.creditReturn s.arg.link s.arg.core s.arg.rq s.arg.msg)
/-- MEMORY_REQUEST: a request that comes waits behind those of its link that wait; then the oldest performs, if it can. -/
def execMemoryRequest (s : State) : Out :=
  .next ((s.takeRequest s.arg.link s.arg.msg).serveNext s.arg.link)
def execMemoryReply (s : State) : Out :=
  .next (if s.arg.link < 16 then s.takeReply s.arg.link s.arg.msg else s)
def execHostmemReply (s : State) : Out :=
  .next (if 16 ≤ s.arg.link ∧ s.arg.link < 18 then (s.takeReply s.arg.link s.arg.msg).runJournal else s)

/-! ## Accesses -/

/-- ACCESS_PERFORM: the access of a context stands in the event's argument by its number. -/
def execAccessPerform (s : State) : Out := .next (s.perform s.arg.core s.arg.ctx s.arg.n)

end Sys2Proof.Machine
end

