-- ==== Sys2Proof/Machine/ScalarFp.lean ====
section
/-! DEFINITION. Scalar floating-point instructions (16 R340 to R344), latencies of 06 R145. An f32 value stands in
bits [31:0] of its register. -/

namespace Sys2Proof.Machine

/-- A scalar floating-point result: `x` gives it from the values as read, the mode, the draw and FTZ. -/
def fpOp (pn : BitVec 1) (pk : BitVec 3) (f : FFmt) (d : BitVec 6) (fn : BitVec 3) (s : State)
    (x : RMode → (BitVec 6 → FVal) → FRes) : Out :=
  scalar pn pk s fun s =>
    let mode := s.cur.scalarMode fn
    let (ds, t) := s.drawsFor mode 1
    let r := (x mode fun n => f.read s.cur.ftz (s.cur.rg n).toNat).put f mode (ds.getD 0 0) s.cur.ftz
    t.putG d (BitVec.ofNat 64 r.1) 4 r.2

def execFaddF32 (pn : BitVec 1) (pk : BitVec 3) (d a b : BitVec 6) (f : BitVec 3) (s : State) : Out :=
  fpOp pn pk f32F d f s fun m v => faddV m (v a) (v b)
def execFsubF32 (pn : BitVec 1) (pk : BitVec 3) (d a b : BitVec 6) (f : BitVec 3) (s : State) : Out :=
  fpOp pn pk f32F d f s fun m v => faddV m (v a) (v b).neg
def execFmulF32 (pn : BitVec 1) (pk : BitVec 3) (d a b : BitVec 6) (f : BitVec 3) (s : State) : Out :=
  fpOp pn pk f32F d f s fun _ v => fmulV (v a) (v b)
/-- FFMA: gd, read at issue, is the addend (16 R341). -/
def execFfmaF32 (pn : BitVec 1) (pk : BitVec 3) (d a b : BitVec 6) (f : BitVec 3) (s : State) : Out :=
  fpOp pn pk f32F d f s fun m v => ffmaV m (v a) (v b) (v d)
def execFaddF64 (pn : BitVec 1) (pk : BitVec 3) (d a b : BitVec 6) (f : BitVec 3) (s : State) : Out :=
  fpOp pn pk f64F d f s fun m v => faddV m (v a) (v b)
def execFsubF64 (pn : BitVec 1) (pk : BitVec 3) (d a b : BitVec 6) (f : BitVec 3) (s : State) : Out :=
  fpOp pn pk f64F d f s fun m v => faddV m (v a) (v b).neg
def execFmulF64 (pn : BitVec 1) (pk : BitVec 3) (d a b : BitVec 6) (f : BitVec 3) (s : State) : Out :=
  fpOp pn pk f64F d f s fun _ v => fmulV (v a) (v b)
def execFfmaF64 (pn : BitVec 1) (pk : BitVec 3) (d a b : BitVec 6) (f : BitVec 3) (s : State) : Out :=
  fpOp pn pk f64F d f s fun m v => ffmaV m (v a) (v b) (v d)

/-- FMIN and FMAX (16 R342). -/
def fpMinMax (pn : BitVec 1) (pk : BitVec 3) (f : FFmt) (d a b : BitVec 6) (wantMax : Bool) (s : State) : Out :=
  scalar pn pk s fun s =>
    let r := fminmax f s.cur.ftz wantMax ((s.cur.rg a).toNat % 2 ^ f.w) ((s.cur.rg b).toNat % 2 ^ f.w)
    s.putG d (BitVec.ofNat 64 r.1) 2 r.2

def execFminF32 (pn : BitVec 1) (pk : BitVec 3) (d a b : BitVec 6) (s : State) : Out :=
  fpMinMax pn pk f32F d a b false s
def execFmaxF32 (pn : BitVec 1) (pk : BitVec 3) (d a b : BitVec 6) (s : State) : Out :=
  fpMinMax pn pk f32F d a b true s
def execFminF64 (pn : BitVec 1) (pk : BitVec 3) (d a b : BitVec 6) (s : State) : Out :=
  fpMinMax pn pk f64F d a b false s
def execFmaxF64 (pn : BitVec 1) (pk : BitVec 3) (d a b : BitVec 6) (s : State) : Out :=
  fpMinMax pn pk f64F d a b true s

/-- FCMP (16 R343). -/
def fpCmp (pn : BitVec 1) (pk : BitVec 3) (f : FFmt) (d c : BitVec 3) (a b : BitVec 6) (s : State) : Out :=
  scalar pn pk s fun s =>
    let x := f.read s.cur.ftz (s.cur.rg a).toNat
    let y := f.read s.cur.ftz (s.cur.rg b).toNat
    s.putK d (fcond c (fordV x y)) 2
      (if fcondInvalid c (x.isNan || y.isNan) (x.isSnan || y.isSnan) then fInvalid else 0)

def execFcmpF32 (pn : BitVec 1) (pk d c : BitVec 3) (a b : BitVec 6) (s : State) : Out :=
  fpCmp pn pk f32F d c a b s
def execFcmpF64 (pn : BitVec 1) (pk d c : BitVec 3) (a b : BitVec 6) (s : State) : Out :=
  fpCmp pn pk f64F d c a b s

/-- The types of FCVT (15 R316). -/
def fcvtType (c : BitVec 3) : EFmt :=
  match c.toNat with
  | 0 => .flt f32F
  | 1 => .flt f64F
  | 2 => .int true 32
  | 3 => .int true 64
  | 4 => .int false 32
  | _ => .int false 64

/-- FCVT: destination type `x`, source type `y`; an i32 result is sign-extended (16 R344). -/
def execFcvt (pn : BitVec 1) (pk : BitVec 3) (d a : BitVec 6) (x y f : BitVec 3) (s : State) : Out :=
  scalar pn pk s fun s =>
    let mode := s.cur.scalarMode f
    let (ds, t) := s.drawsFor mode 1
    let src := fcvtType y
    let r := convert src (fcvtType x) mode (ds.getD 0 0) s.cur.ftz ((s.cur.rg a).toNat % 2 ^ src.width)
    let v := if x = 2 then (BitVec.ofNat 32 r.1).signExtend 64 else BitVec.ofNat 64 r.1
    t.putG d v 4 r.2

end Sys2Proof.Machine
end

