-- ==== Sys2Proof/Machine/Transform.lean ====
section
/-! DEFINITION. The transform datapath: BFLY, TPERM and the twiddle generator (07 R187 to R190, 10 R241 to R249,
19 R404). -/

namespace Sys2Proof.Machine

/-! ## Twiddles and kernel constants (07 R188, R190) -/

/-- |sin| of π × r ÷ d for 0 ≤ r < d, exact at 0, at 1/6 and at the quarter turn. -/
def sinRatMag (neg : Bool) (r d : Nat) : FRes :=
  let r := if d < 2 * r then d - r else r
  if r = 0 then .fin false 0 0
  else if 6 * r = d then .fin neg 1 (-1)
  else if 2 * r = d then .fin neg 1 0
  else
    let t := piC / 2 ^ (fbits - 192) * r / d
    stuck neg (sinSum 192 t 40 0 t).toNat 192

/-- sin (π × v ÷ d). -/
def sinRat (v d : Nat) : FRes :=
  let r := v % (2 * d)
  sinRatMag (decide (d ≤ r)) (r % d) d

/-- cos (2π k ÷ n) and ∓ sin (2π k ÷ n) as encodings of `f`: minus for a forward transform. -/
def twiddle (f : FFmt) (inv : Bool) (k n : Nat) : Nat × Nat :=
  let re := fnRound f (sinRat (4 * k + n) (2 * n))
  let im := fnRound f (sinRat (2 * (if inv then k else n - k % n)) n)
  (re.1, im.1)

/-! ## A stage (07 R187, R189, 10 R245) -/

/-- The sum of products of pairs, formed exactly and rounded once; an exact zero is +0. -/
def dotRound (f : FFmt) (l : List (FVal × FVal)) : Nat × BitVec 5 :=
  let s := l.foldl (fun (a : Bool × Nat × Int) p => match fmulV p.1 p.2 with
    | .fin n m e => addFin .rne a.1 a.2.1 a.2.2 n m e
    | _ => a) (false, 0, 0)
  roundTo f .rne 0 false (s.1 && s.2.1 != 0) s.2.1 s.2.2

def FVal.isFin : FVal → Bool | .fin _ _ _ => true | _ => false

abbrev Point := Nat × Nat

/-- The radix of a digit code (10 R243). -/
def radixOf (c : Nat) : Nat := match c with | 1 => 2 | 2 => 3 | 3 => 4 | 4 => 5 | 5 => 8 | _ => 0

/-- A component scaled by a constant. -/
def scaleBy (f : FFmt) (c : FVal) (z : Nat) : Nat × BitVec 5 := (fmulV (f.decode z) c).put f .rne 0 false

/-- Step 3 of a group (07 R189). -/
def stageScale (f : FFmt) (r s : Nat) (z : Nat) : Nat × BitVec 5 :=
  match s with
  | 1 => scaleBy f (.fin false 1 (-(Nat.log2 r : Int))) z
  | 2 =>
    let q := 2 ^ 80 / r
    scaleBy f (f.decode (roundTo f .rne 0 false false (2 * q + (if 2 ^ 80 % r = 0 then 0 else 1)) (-81)).1) z
  | _ => (z, 0)

/-- The outputs of one group and its flags; the roundings of step 1 set theirs beside an input that is no number (10 R245). -/
def group (f : FFmt) (r s : Nat) (inv : Bool) (xs ws : List Point) : List Point × BitVec 5 :=
  let v (p : Point) : FVal × FVal := (f.decode p.1, f.decode p.2)
  let bad : List Point := xs.map fun _ => (f.nan, f.nan)
  let finite (p : Point) : Bool := (v p).1.isFin && (v p).2.isFin
  let y1 : List (Point × BitVec 5) := (xs.zip ws).map fun (x, w) =>
    let (a, b) := v x
    let (c, d) := v w
    let re := dotRound f [(a, c), (b.neg, d)]
    let im := dotRound f [(a, d), (b, c)]
    if finite x then ((re.1, im.1), re.2 ||| im.2) else ((f.nan, f.nan), 0)
  let fl := y1.foldl (fun g p => g ||| p.2) 0
  if xs.any (!finite ·) then (bad, fl ||| fInvalid)
  else
    let ys := y1.map fun p => v p.1
    if ys.any fun p => !p.1.isFin || !p.2.isFin then (bad, fl ||| fInvalid)
    else
      let c (m : Nat) : FVal × FVal := let t := twiddle f32F inv m r; (f32F.decode t.1, f32F.decode t.2)
      let outs := (List.range r).map fun k =>
        let ps := ys.mapIdx fun j y => (c (j * k % r), y)
        let re := dotRound f (ps.flatMap fun (c, y) => [(c.1, y.1), (c.2.neg, y.2)])
        let im := dotRound f (ps.flatMap fun (c, y) => [(c.1, y.2), (c.2, y.1)])
        let (a, g) := stageScale f r s re.1
        let (b, h) := stageScale f r s im.1
        ((a, b), re.2 ||| im.2 ||| g ||| h)
      (outs.map (·.1), outs.foldl (fun g p => g ||| p.2) fl)

/-- Points of lines (10 R241), and back. -/
def pointsOf (f : FFmt) (ls : List Line) : Array Point :=
  let rec pair : List Nat → List Point
    | a :: b :: r => (a, b) :: pair r
    | _ => []
  (pair (ls.flatMap (elems f.w))).toArray

def linesOf (f : FFmt) (n : Nat) (ps : Array Point) : List Line :=
  let per := 2048 / (2 * f.w)
  (List.range n).map fun j =>
    ofElems f.w ((List.range per).flatMap fun i => let p := (ps[j * per + i]?).getD (0, 0); [p.1, p.2])

/-- A component has a magnitude that BLOCK shifts (07 R189). -/
def reaches (f : FFmt) (z : Nat) : Bool :=
  match f.decode z with
  | .nan _ => false
  | .inf _ => true
  | .fin _ m e => m != 0 && decide ((if f.w = 32 then 126 else 14) ≤ (Nat.log2 m : Int) + e)

/-- BFLY over a span: the points after, the flags, and whether BLOCK shifted. -/
def bflyPoints (f : FFmt) (r s m5 m6 : Nat) (src : Array Point) : Array Point × BitVec 5 × Bool :=
  let npts := bits m5 13 0
  let d := bits m5 26 14
  let inv := bit m5 30 == 1
  let ntw := bits m6 24 0
  let ts := bits m6 37 25 + 1
  let tr := bits m6 50 38 + 1
  let tb := bits m6 63 51
  let tw (x : Nat) : Point := twiddle f inv ((x % ts * (x / ts % tr + tb)) % ntw) ntw
  let (out, fl) := (List.range (npts / (r * d))).foldl (fun (o : Array Point × BitVec 5) b =>
    (List.range d).foldl (fun (o : Array Point × BitVec 5) j =>
      let pos := (List.range r).map fun m => b * r * d + j + m * d
      let (res, g) := group f r s inv (pos.map fun p => (src[p]?).getD (0, 0)) (pos.map tw)
      ((pos.zip res).foldl (fun (a : Array Point) p => a.setIfInBounds p.1 p.2) o.1, o.2 ||| g)) o) (src, 0)
  if s ≠ 3 then (out, fl, false)
  else if (List.range npts).any fun x => let p := (out[x]?).getD (0, 0); reaches f p.1 || reaches f p.2 then
    let (out, fl) := (List.range npts).foldl (fun (o : Array Point × BitVec 5) x =>
      let p := (o.1[x]?).getD (0, 0)
      let (a, g) := scaleBy f (.fin false 1 (-1)) p.1
      let (b, h) := scaleBy f (.fin false 1 (-1)) p.2
      (o.1.setIfInBounds x (a, b), o.2 ||| g ||| h)) (out, fl)
    (out, fl, true)
  else (out, fl, false)

/-! ## Digit reversal (10 R249) -/

/-- The digit codes of m6, and the radices of the nonzero ones. -/
def digitCodes (m6 : Nat) : List Nat := (List.range 13).map fun k => bits m6 (3 * k + 2) (3 * k)
def radices (m6 : Nat) : List Nat := ((digitCodes m6).takeWhile (· != 0)).map radixOf

/-- rho(q). -/
def rho : List Nat → Nat → Nat → Nat
  | [], _, v => v
  | r :: rs, q, v => rho rs (q / r) (v * r + q % r)

def tpermPoints (m5 m6 : Nat) (src : Array Point) : Array Point :=
  let rs := radices m6
  let b := product rs
  let npts := bits m5 13 0
  (List.range npts).foldl (fun (a : Array Point) x =>
    a.setIfInBounds x ((src[x / b * b + rho rs (x % b) 0]?).getD (0, 0))) src

/-! ## The instructions -/

/-- 5-smooth (10 R244). `fuel` bounds the divisions. -/
def smooth : Nat → Nat → Bool
  | 0, _ => false
  | k + 1, n =>
    if n = 1 then true
    else if n % 2 = 0 then smooth k (n / 2)
    else if n % 3 = 0 then smooth k (n / 3)
    else if n % 5 = 0 then smooth k (n / 5)
    else false

/-- The checks that BFLY and TPERM share (10 R244). -/
def spanBad (f : FFmt) (m5 d a : Nat) : Bool :=
  let n := bits m5 29 27 + 1
  bits m5 13 0 == 0 || decide (16 * n * (2048 / (2 * f.w)) < bits m5 13 0) || decide (19 < a + n - 1) ||
    decide (19 < d + n - 1) || bits m5 63 31 != 0

namespace State

/-- The datapath accepts the operation, or the bundle is held (10 R248); the destination lines land whole. -/
def transform (s : State) (d a n lat : Nat) (f : List Line → List Line × BitVec 5 × Option Bool) : State :=
  if s.now < (s.core s.curCore).dpFree then s.outcome .held
  else
    let (ls, fl, bump) := f ((List.range (16 * n)).map fun j => s.cur.line (Ctx.tileLine a j))
    let s := s.modCore s.curCore fun k => { k with dpFree := s.now + 8 * n }
    let s := (ls.zipIdx).foldl (fun s (x, j) => s.push {
      dest := .line (Ctx.tileLine d j), data := x, mask := BitVec.allOnes 256, due := s.dueIn lat,
      flags := if j = 0 then fl else 0, tile := true }) s
    match bump with
    | some b => s.push { dest := .m 7, data := if b then 1 else 0, due := s.dueIn lat, bump := true }
    | none => s

end State

/-- BFLY (19 R404). With BLOCK it claims m7 (10 R247). -/
def execBfly (d a : BitVec 5) (r : BitVec 3) (s : BitVec 2) (p : BitVec 1) (z : State) : Out :=
  z.mSlot 0 false fun z =>
    let f := if p = 1 then f16F else f32F
    let m5 := (z.cur.rm 5).toNat
    let m6 := (z.cur.rm 6).toNat
    let rx := radixOf r.toNat
    let st := bits m5 26 14
    let ntw := bits m6 24 0
    if spanBad f m5 d.toNat a.toNat ∨ st = 0 ∨ bits m5 13 0 % (rx * st) ≠ 0 ∨ ntw = 0 ∨ 2 ^ 24 < ntw ∨ !smooth 64 ntw then
      z.trap 0x0B
    else
      let n := bits m5 29 27 + 1
      z.transform d.toNat a.toNat n (12 + 8 * n) fun ls =>
        let (ps, fl, sh) := bflyPoints f rx s.toNat m5 m6 (pointsOf f ls)
        (linesOf f (16 * n) ps, fl, if s = 3 then some sh else none)

/-- TPERM (19 R404). -/
def execTperm (d a : BitVec 5) (p : BitVec 1) (z : State) : Out :=
  z.mSlot 0 false fun z =>
    let f := if p = 1 then f16F else f32F
    let m5 := (z.cur.rm 5).toNat
    let m6 := (z.cur.rm 6).toNat
    let cs := digitCodes m6
    let rs := radices m6
    if spanBad f m5 d.toNat a.toNat ∨ bits m6 63 39 ≠ 0 ∨ rs = [] ∨ cs.any (decide <| 6 ≤ ·) ∨
        (cs.drop rs.length).any (· != 0) ∨ bits m5 13 0 % product rs ≠ 0 then z.trap 0x0B
    else
      let n := bits m5 29 27 + 1
      z.transform d.toNat a.toNat n (4 + 8 * n) fun ls => (linesOf f (16 * n) (tpermPoints m5 m6 (pointsOf f ls)), 0, none)

end Sys2Proof.Machine
end

