-- ==== Sys2Proof/Machine/Dispatch.lean ====
section
/-! DEFINITION. Dispatch: one arm per constructor of Instr, each one direct call of its meaning. -/

namespace Sys2Proof.Machine

def exec (i : Instr) (s : State) : Host.Outcome State Fault Refusal :=
  match i with
  | .clr rb nr => Sys2Proof.Machine.execClr rb nr s
  | .feed off => Sys2Proof.Machine.execFeed off s
  | .mac nvm1 rs rb => Sys2Proof.Machine.execMac nvm1 rs rb s
  | .scale off => Sys2Proof.Machine.execScale off s
  | .out rb nr => Sys2Proof.Machine.execOut rb nr s
  | .waith => Sys2Proof.Machine.execWaith s
  | .fliph => Sys2Proof.Machine.execFliph s
  | .microLoop cntm1 backm1 => Sys2Proof.Machine.execMicroLoop cntm1 backm1 s
  | .microEnd => Sys2Proof.Machine.execMicroEnd s
  | .nop => Sys2Proof.Machine.execNop s
  | .add pn pk d a b => Sys2Proof.Machine.execAdd pn pk d a b s
  | .sub pn pk d a b => Sys2Proof.Machine.execSub pn pk d a b s
  | .and pn pk d a b => Sys2Proof.Machine.execAnd pn pk d a b s
  | .or pn pk d a b => Sys2Proof.Machine.execOr pn pk d a b s
  | .xor pn pk d a b => Sys2Proof.Machine.execXor pn pk d a b s
  | .andn pn pk d a b => Sys2Proof.Machine.execAndn pn pk d a b s
  | .sel pn pk d a b f => Sys2Proof.Machine.execSel pn pk d a b f s
  | .shl pn pk d a b => Sys2Proof.Machine.execShl pn pk d a b s
  | .shr pn pk d a b => Sys2Proof.Machine.execShr pn pk d a b s
  | .sar pn pk d a b => Sys2Proof.Machine.execSar pn pk d a b s
  | .rotl pn pk d a b => Sys2Proof.Machine.execRotl pn pk d a b s
  | .min pn pk d a b => Sys2Proof.Machine.execMin pn pk d a b s
  | .max pn pk d a b => Sys2Proof.Machine.execMax pn pk d a b s
  | .minu pn pk d a b => Sys2Proof.Machine.execMinu pn pk d a b s
  | .maxu pn pk d a b => Sys2Proof.Machine.execMaxu pn pk d a b s
  | .mul pn pk d a b => Sys2Proof.Machine.execMul pn pk d a b s
  | .mulh pn pk d a b => Sys2Proof.Machine.execMulh pn pk d a b s
  | .mulhu pn pk d a b => Sys2Proof.Machine.execMulhu pn pk d a b s
  | .div pn pk d a b => Sys2Proof.Machine.execDiv pn pk d a b s
  | .divu pn pk d a b => Sys2Proof.Machine.execDivu pn pk d a b s
  | .rem pn pk d a b => Sys2Proof.Machine.execRem pn pk d a b s
  | .remu pn pk d a b => Sys2Proof.Machine.execRemu pn pk d a b s
  | .clz pn pk d a => Sys2Proof.Machine.execClz pn pk d a s
  | .ctz pn pk d a => Sys2Proof.Machine.execCtz pn pk d a s
  | .popc pn pk d a => Sys2Proof.Machine.execPopc pn pk d a s
  | .brev pn pk d a => Sys2Proof.Machine.execBrev pn pk d a s
  | .bswap pn pk d a => Sys2Proof.Machine.execBswap pn pk d a s
  | .extf pn pk d a b => Sys2Proof.Machine.execExtf pn pk d a b s
  | .insf pn pk d a b => Sys2Proof.Machine.execInsf pn pk d a b s
  | .addi pn pk d a j => Sys2Proof.Machine.execAddi pn pk d a j s
  | .andi pn pk d a j => Sys2Proof.Machine.execAndi pn pk d a j s
  | .ori pn pk d a j => Sys2Proof.Machine.execOri pn pk d a j s
  | .xori pn pk d a j => Sys2Proof.Machine.execXori pn pk d a j s
  | .shli pn pk d a j => Sys2Proof.Machine.execShli pn pk d a j s
  | .shri pn pk d a j => Sys2Proof.Machine.execShri pn pk d a j s
  | .sari pn pk d a j => Sys2Proof.Machine.execSari pn pk d a j s
  | .li pn pk d j => Sys2Proof.Machine.execLi pn pk d j s
  | .lih pn pk d j => Sys2Proof.Machine.execLih pn pk d j s
  | .cmp pn pk d c a b => Sys2Proof.Machine.execCmp pn pk d c a b s
  | .cmpi pn pk d c a j => Sys2Proof.Machine.execCmpi pn pk d c a j s
  | .kop pn pk d a b f => Sys2Proof.Machine.execKop pn pk d a b f s
  | .faddF32 pn pk d a b f => Sys2Proof.Machine.execFaddF32 pn pk d a b f s
  | .fsubF32 pn pk d a b f => Sys2Proof.Machine.execFsubF32 pn pk d a b f s
  | .fmulF32 pn pk d a b f => Sys2Proof.Machine.execFmulF32 pn pk d a b f s
  | .ffmaF32 pn pk d a b f => Sys2Proof.Machine.execFfmaF32 pn pk d a b f s
  | .fminF32 pn pk d a b => Sys2Proof.Machine.execFminF32 pn pk d a b s
  | .fmaxF32 pn pk d a b => Sys2Proof.Machine.execFmaxF32 pn pk d a b s
  | .fcmpF32 pn pk d c a b => Sys2Proof.Machine.execFcmpF32 pn pk d c a b s
  | .fcvt pn pk d a x y f => Sys2Proof.Machine.execFcvt pn pk d a x y f s
  | .faddF64 pn pk d a b f => Sys2Proof.Machine.execFaddF64 pn pk d a b f s
  | .fsubF64 pn pk d a b f => Sys2Proof.Machine.execFsubF64 pn pk d a b f s
  | .fmulF64 pn pk d a b f => Sys2Proof.Machine.execFmulF64 pn pk d a b f s
  | .ffmaF64 pn pk d a b f => Sys2Proof.Machine.execFfmaF64 pn pk d a b f s
  | .fminF64 pn pk d a b => Sys2Proof.Machine.execFminF64 pn pk d a b s
  | .fmaxF64 pn pk d a b => Sys2Proof.Machine.execFmaxF64 pn pk d a b s
  | .fcmpF64 pn pk d c a b => Sys2Proof.Machine.execFcmpF64 pn pk d c a b s
  | .b pn pk j => Sys2Proof.Machine.execB pn pk j s
  | .call pn pk j => Sys2Proof.Machine.execCall pn pk j s
  | .callr pn pk d a => Sys2Proof.Machine.execCallr pn pk d a s
  | .jr pn pk a => Sys2Proof.Machine.execJr pn pk a s
  | .loop pn pk l a => Sys2Proof.Machine.execLoop pn pk l a s
  | .loopi pn pk l j => Sys2Proof.Machine.execLoopi pn pk l j s
  | .brk pn pk => Sys2Proof.Machine.execBrk pn pk s
  | .trap pn pk => Sys2Proof.Machine.execTrap pn pk s
  | .yield pn pk => Sys2Proof.Machine.execYield pn pk s
  | .exit pn pk => Sys2Proof.Machine.execExit pn pk s
  | .spawn pn pk d a b => Sys2Proof.Machine.execSpawn pn pk d a b s
  | .mode f => Sys2Proof.Machine.execMode f s
  | .cnew pn pk d => Sys2Proof.Machine.execCnew pn pk d s
  | .cjoin pn pk a => Sys2Proof.Machine.execCjoin pn pk a s
  | .cleave pn pk => Sys2Proof.Machine.execCleave pn pk s
  | .cbar pn pk => Sys2Proof.Machine.execCbar pn pk s
  | .mfs pn pk d j => Sys2Proof.Machine.execMfs pn pk d j s
  | .mts pn pk m a j => Sys2Proof.Machine.execMts pn pk m a j s
  | .mput pn pk a j => Sys2Proof.Machine.execMput pn pk a j s
  | .mget pn pk d j => Sys2Proof.Machine.execMget pn pk d j s
  | .ext x => Sys2Proof.Machine.execExt x s
  | .eret pn pk => Sys2Proof.Machine.execEret pn pk s
  | .tlbi pn pk a => Sys2Proof.Machine.execTlbi pn pk a s
  | .halt pn pk => Sys2Proof.Machine.execHalt pn pk s
  | .idle pn pk => Sys2Proof.Machine.execIdle pn pk s
  | .csave pn pk a => Sys2Proof.Machine.execCsave pn pk a s
  | .cload pn pk a => Sys2Proof.Machine.execCload pn pk a s
  | .vadd q e d a b => Sys2Proof.Machine.execVadd q e d a b s
  | .vsub q e d a b => Sys2Proof.Machine.execVsub q e d a b s
  | .vadds q e d a b u => Sys2Proof.Machine.execVadds q e d a b u s
  | .vsubs q e d a b u => Sys2Proof.Machine.execVsubs q e d a b u s
  | .vmul q e d a b => Sys2Proof.Machine.execVmul q e d a b s
  | .vmulh q e d a b u => Sys2Proof.Machine.execVmulh q e d a b u s
  | .vdot4 q d a b u => Sys2Proof.Machine.execVdot4 q d a b u s
  | .vmin q e d a b u => Sys2Proof.Machine.execVmin q e d a b u s
  | .vmax q e d a b u => Sys2Proof.Machine.execVmax q e d a b u s
  | .vabs q e d a => Sys2Proof.Machine.execVabs q e d a s
  | .vneg q e d a => Sys2Proof.Machine.execVneg q e d a s
  | .vpopc q e d a => Sys2Proof.Machine.execVpopc q e d a s
  | .vclz q e d a => Sys2Proof.Machine.execVclz q e d a s
  | .vand q d a b => Sys2Proof.Machine.execVand q d a b s
  | .vor q d a b => Sys2Proof.Machine.execVor q d a b s
  | .vxor q d a b => Sys2Proof.Machine.execVxor q d a b s
  | .vandn q d a b => Sys2Proof.Machine.execVandn q d a b s
  | .vshl q e d a b => Sys2Proof.Machine.execVshl q e d a b s
  | .vshr q e d a b => Sys2Proof.Machine.execVshr q e d a b s
  | .vsar q e d a b => Sys2Proof.Machine.execVsar q e d a b s
  | .vshli q e d a j => Sys2Proof.Machine.execVshli q e d a j s
  | .vshri q e d a j => Sys2Proof.Machine.execVshri q e d a j s
  | .vcmp q e c d a b => Sys2Proof.Machine.execVcmp q e c d a b s
  | .vsel q d a b => Sys2Proof.Machine.execVsel q d a b s
  | .qop d a b f => Sys2Proof.Machine.execQop d a b f s
  | .qfromg d a => Sys2Proof.Machine.execQfromg d a s
  | .vfadd q e d a b f => Sys2Proof.Machine.execVfadd q e d a b f s
  | .vfsub q e d a b f => Sys2Proof.Machine.execVfsub q e d a b f s
  | .vfmul q e d a b f => Sys2Proof.Machine.execVfmul q e d a b f s
  | .vfma q e d a b f => Sys2Proof.Machine.execVfma q e d a b f s
  | .vfnma q e d a b f => Sys2Proof.Machine.execVfnma q e d a b f s
  | .vfmin q e d a b => Sys2Proof.Machine.execVfmin q e d a b s
  | .vfmax q e d a b => Sys2Proof.Machine.execVfmax q e d a b s
  | .vfcmp q e c d a b => Sys2Proof.Machine.execVfcmp q e c d a b s
  | .vcvt1 q r d a x y => Sys2Proof.Machine.execVcvt1 q r d a x y s
  | .vcvt2 q r d a x y => Sys2Proof.Machine.execVcvt2 q r d a x y s
  | .vcvtef1 q r d a x y => Sys2Proof.Machine.execVcvtef1 q r d a x y s
  | .vcvtef2 q r d a x y => Sys2Proof.Machine.execVcvtef2 q r d a x y s
  | .vsum q e d a f => Sys2Proof.Machine.execVsum q e d a f s
  | .vrmax q e d a f => Sys2Proof.Machine.execVrmax q e d a f s
  | .vrmin q e d a f => Sys2Proof.Machine.execVrmin q e d a f s
  | .vscan q e d a f => Sys2Proof.Machine.execVscan q e d a f s
  | .vperm q e d a b => Sys2Proof.Machine.execVperm q e d a b s
  | .vshuf q e d a j => Sys2Proof.Machine.execVshuf q e d a j s
  | .vslide q e d a j => Sys2Proof.Machine.execVslide q e d a j s
  | .vbcast q e d a => Sys2Proof.Machine.execVbcast q e d a s
  | .vextr q e d a j => Sys2Proof.Machine.execVextr q e d a j s
  | .vmovi q e d j => Sys2Proof.Machine.execVmovi q e d j s
  | .vmov q d a => Sys2Proof.Machine.execVmov q d a s
  | .vtget q d t l => Sys2Proof.Machine.execVtget q d t l s
  | .vtset q t a l => Sys2Proof.Machine.execVtset q t a l s
  | .vrdacc q d a => Sys2Proof.Machine.execVrdacc q d a s
  | .tq q d a t e w => Sys2Proof.Machine.execTq q d a t e w s
  | .tqp q d a t => Sys2Proof.Machine.execTqp q d a t s
  | .tqi q d a t e => Sys2Proof.Machine.execTqi q d a t e s
  | .tload a t => Sys2Proof.Machine.execTload a t s
  | .tinfo d t => Sys2Proof.Machine.execTinfo d t s
  | .rcp q d a e => Sys2Proof.Machine.execRcp q d a e s
  | .rsq q d a e => Sys2Proof.Machine.execRsq q d a e s
  | .exp2 q d a e => Sys2Proof.Machine.execExp2 q d a e s
  | .log2 q d a e => Sys2Proof.Machine.execLog2 q d a e s
  | .sinpi q d a e => Sys2Proof.Machine.execSinpi q d a e s
  | .cospi q d a e => Sys2Proof.Machine.execCospi q d a e s
  | .vrand q d e => Sys2Proof.Machine.execVrand q d e s
  | .mcall x r f b => Sys2Proof.Machine.execMcall x r f b s
  | .msync x => Sys2Proof.Machine.execMsync x s
  | .mreload x => Sys2Proof.Machine.execMreload x s
  | .mflip x l m => Sys2Proof.Machine.execMflip x l m s
  | .mswitch x l m d => Sys2Proof.Machine.execMswitch x l m d s
  | .mload x => Sys2Proof.Machine.execMload x s
  | .mlock d => Sys2Proof.Machine.execMlock d s
  | .bfly d a r x p => Sys2Proof.Machine.execBfly d a r x p s
  | .tperm d a p => Sys2Proof.Machine.execTperm d a p s
  | .ldb c d b j => Sys2Proof.Machine.execLdb c d b j s
  | .ldbn c d b j => Sys2Proof.Machine.execLdbn c d b j s
  | .ldh c d b j => Sys2Proof.Machine.execLdh c d b j s
  | .ldhn c d b j => Sys2Proof.Machine.execLdhn c d b j s
  | .ldw c d b j => Sys2Proof.Machine.execLdw c d b j s
  | .ldwn c d b j => Sys2Proof.Machine.execLdwn c d b j s
  | .ldd c d b j => Sys2Proof.Machine.execLdd c d b j s
  | .stb c d b j => Sys2Proof.Machine.execStb c d b j s
  | .sth c d b j => Sys2Proof.Machine.execSth c d b j s
  | .stw c d b j => Sys2Proof.Machine.execStw c d b j s
  | .std c d b j => Sys2Proof.Machine.execStd c d b j s
  | .vld c d b j => Sys2Proof.Machine.execVld c d b j s
  | .vst c d b j => Sys2Proof.Machine.execVst c d b j s
  | .vldq c q d b j => Sys2Proof.Machine.execVldq c q d b j s
  | .vstq c q d b j => Sys2Proof.Machine.execVstq c q d b j s
  | .tld c t b j => Sys2Proof.Machine.execTld c t b j s
  | .tst c t b j => Sys2Proof.Machine.execTst c t b j s
  | .vgatherW c q d a b => Sys2Proof.Machine.execVgatherW c q d a b s
  | .vgatherD c q d a b => Sys2Proof.Machine.execVgatherD c q d a b s
  | .vscatterW c q d a b => Sys2Proof.Machine.execVscatterW c q d a b s
  | .vscatterD c q d a b => Sys2Proof.Machine.execVscatterD c q d a b s
  | .aadd c p d b x z => Sys2Proof.Machine.execAadd c p d b x z s
  | .amin c p d b x z => Sys2Proof.Machine.execAmin c p d b x z s
  | .amax c p d b x z => Sys2Proof.Machine.execAmax c p d b x z s
  | .axchg c p d b x z => Sys2Proof.Machine.execAxchg c p d b x z s
  | .acas c p d b x z => Sys2Proof.Machine.execAcas c p d b x z s
  | .afadd c p d b x z => Sys2Proof.Machine.execAfadd c p d b x z s
  | .afaddh c p d b x z => Sys2Proof.Machine.execAfaddh c p d b x z s
  | .fence m p => Sys2Proof.Machine.execFence m p s
  | .waitw c k v b => Sys2Proof.Machine.execWaitw c k v b s
  | .copy c p a b h => Sys2Proof.Machine.execCopy c p a b h s
  | .copyt c p a b g h => Sys2Proof.Machine.execCopyt c p a b g h s
  | .copyx c p m a b g h => Sys2Proof.Machine.execCopyx c p m a b g h s
  | .copyg c p a b g h => Sys2Proof.Machine.execCopyg c p a b g h s
  | .copysa c p m a b g h => Sys2Proof.Machine.execCopysa c p m a b g h s
  | .copyw m a => Sys2Proof.Machine.execCopyw m a s
  | .barinit c d b j => Sys2Proof.Machine.execBarinit c d b j s
  | .barexp c d b j => Sys2Proof.Machine.execBarexp c d b j s
  | .bararv c b j => Sys2Proof.Machine.execBararv c b j s
  | .barwait c d b j => Sys2Proof.Machine.execBarwait c d b j s
  | .send c l q v g => Sys2Proof.Machine.execSend c l q v g s
  | .recv c l q v => Sys2Proof.Machine.execRecv c l q v s
  | .fbind f t a b g => Sys2Proof.Machine.execFbind f t a b g s
  | .fwr f t a => Sys2Proof.Machine.execFwr f t a s
  | .frd f t a => Sys2Proof.Machine.execFrd f t a s
  | .bnop => Sys2Proof.Machine.execBnop s
  | .bld z d a j m => Sys2Proof.Machine.execBld z d a j m s
  | .bst z a b j m => Sys2Proof.Machine.execBst z a b j m s
  | .bpop z d t => Sys2Proof.Machine.execBpop z d t s
  | .bpush a p => Sys2Proof.Machine.execBpush a p s
  | .badd z d a b t => Sys2Proof.Machine.execBadd z d a b t s
  | .bmul z d a b t => Sys2Proof.Machine.execBmul z d a b t s
  | .bfma z d a b t => Sys2Proof.Machine.execBfma z d a b t s
  | .bcmp z d a b c => Sys2Proof.Machine.execBcmp z d a b c s
  | .bsel z d a b => Sys2Proof.Machine.execBsel z d a b s
  | .bacc z d a t => Sys2Proof.Machine.execBacc z d a t s
  | .bskip => Sys2Proof.Machine.execBskip s
  | .bloop a m => Sys2Proof.Machine.execBloop a m s
  | .bend => Sys2Proof.Machine.execBend s
  | .powerOn => Sys2Proof.Machine.execPowerOn s
  | .resetInput => Sys2Proof.Machine.execResetInput s
  | .thermalTrip => Sys2Proof.Machine.execThermalTrip s
  | .powerFault => Sys2Proof.Machine.execPowerFault s
  | .powerLossErase => Sys2Proof.Machine.execPowerLossErase s
  | .watchdogExpiry => Sys2Proof.Machine.execWatchdogExpiry s
  | .thermalController => Sys2Proof.Machine.execThermalController s
  | .cycControlWrite => Sys2Proof.Machine.execCycControlWrite s
  | .timeExchange => Sys2Proof.Machine.execTimeExchange s
  | .linkRetrain => Sys2Proof.Machine.execLinkRetrain s
  | .linkDown => Sys2Proof.Machine.execLinkDown s
  | .flitReceive => Sys2Proof.Machine.execFlitReceive s
  | .retry => Sys2Proof.Machine.execRetry s
  | .retryRepeat => Sys2Proof.Machine.execRetryRepeat s
  | .idleFlit => Sys2Proof.Machine.execIdleFlit s
  | .queueMessage => Sys2Proof.Machine.execQueueMessage s
  | .creditGrant => Sys2Proof.Machine.execCreditGrant s
  | .creditReturn => Sys2Proof.Machine.execCreditReturn s
  | .memoryRequest => Sys2Proof.Machine.execMemoryRequest s
  | .memoryReply => Sys2Proof.Machine.execMemoryReply s
  | .hostmemReply => Sys2Proof.Machine.execHostmemReply s
  | .burgeeRead => Sys2Proof.Machine.execBurgeeRead s
  | .burgeeWrite => Sys2Proof.Machine.execBurgeeWrite s
  | .crbaseWrite => Sys2Proof.Machine.execCrbaseWrite s
  | .crsizeWrite => Sys2Proof.Machine.execCrsizeWrite s
  | .registerWrite => Sys2Proof.Machine.execRegisterWrite s
  | .launch => Sys2Proof.Machine.execLaunch s
  | .sessionCreate => Sys2Proof.Machine.execSessionCreate s
  | .sessionDestroy => Sys2Proof.Machine.execSessionDestroy s
  | .map => Sys2Proof.Machine.execMap s
  | .unmap => Sys2Proof.Machine.execUnmap s
  | .handleRegister => Sys2Proof.Machine.execHandleRegister s
  | .handleRelease => Sys2Proof.Machine.execHandleRelease s
  | .checkpoint => Sys2Proof.Machine.execCheckpoint s
  | .restore => Sys2Proof.Machine.execRestore s
  | .queryIdentity => Sys2Proof.Machine.execQueryIdentity s
  | .querySequence => Sys2Proof.Machine.execQuerySequence s
  | .queryFaultLog => Sys2Proof.Machine.execQueryFaultLog s
  | .queryHeatMap => Sys2Proof.Machine.execQueryHeatMap s
  | .queryAttestation => Sys2Proof.Machine.execQueryAttestation s
  | .mgmtReset => Sys2Proof.Machine.execMgmtReset s
  | .mgmtFirmwareUpdate => Sys2Proof.Machine.execMgmtFirmwareUpdate s
  | .mgmtCoreMapChange => Sys2Proof.Machine.execMgmtCoreMapChange s
  | .mgmtPowerCap => Sys2Proof.Machine.execMgmtPowerCap s
  | .mgmtTimeRoot => Sys2Proof.Machine.execMgmtTimeRoot s
  | .autoCheckpoint => Sys2Proof.Machine.execAutoCheckpoint s
  | .foldComplete => Sys2Proof.Machine.execFoldComplete s
  | .completionPost => Sys2Proof.Machine.execCompletionPost s
  | .launchEntry => Sys2Proof.Machine.execLaunchEntry s
  | .launchComplete => Sys2Proof.Machine.execLaunchComplete s
  | .sessionKill => Sys2Proof.Machine.execSessionKill s
  | .heatDecay => Sys2Proof.Machine.execHeatDecay s
  | .pageExchange => Sys2Proof.Machine.execPageExchange s
  | .exchangeSwap => Sys2Proof.Machine.execExchangeSwap s
  | .accessPerform => Sys2Proof.Machine.execAccessPerform s
  | .tableRefresh => Sys2Proof.Machine.execTableRefresh s
  | .dispatch => Sys2Proof.Machine.execDispatch s
  | .loadComplete => Sys2Proof.Machine.execLoadComplete s
  | .preemption => Sys2Proof.Machine.execPreemption s
  | .quantumExpiry => Sys2Proof.Machine.execQuantumExpiry s
  | .priorityAgeing => Sys2Proof.Machine.execPriorityAgeing s
  | .park => Sys2Proof.Machine.execPark s
  | .parkWake => Sys2Proof.Machine.execParkWake s
  | .parkPoll => Sys2Proof.Machine.execParkPoll s
  | .saveComplete => Sys2Proof.Machine.execSaveComplete s
  | .repushEntry => Sys2Proof.Machine.execRepushEntry s
  | .contextSwitch => Sys2Proof.Machine.execContextSwitch s
  | .resultLanding => Sys2Proof.Machine.execResultLanding s
  | .trapEntry => Sys2Proof.Machine.execTrapEntry s
  | .strandDone => Sys2Proof.Machine.execStrandDone s
  | .modeComplete => Sys2Proof.Machine.execModeComplete s
  | .idleEnd => Sys2Proof.Machine.execIdleEnd s
  | .tlbiComplete => Sys2Proof.Machine.execTlbiComplete s
  | .heatTokenCycle => Sys2Proof.Machine.execHeatTokenCycle s
  | .routineStart => Sys2Proof.Machine.execRoutineStart s
  | .mreloadExecute => Sys2Proof.Machine.execMreloadExecute s
  | .reloadDone => Sys2Proof.Machine.execReloadDone s
  | .mflipExecute => Sys2Proof.Machine.execMflipExecute s
  | .macroModeChange => Sys2Proof.Machine.execMacroModeChange s
  | .mloadExecute => Sys2Proof.Machine.execMloadExecute s
  | .tloadStart => Sys2Proof.Machine.execTloadStart s
  | .tloadComplete => Sys2Proof.Machine.execTloadComplete s
  | .bufferEntry => Sys2Proof.Machine.execBufferEntry s
  | .copyStart => Sys2Proof.Machine.execCopyStart s
  | .beatIssue => Sys2Proof.Machine.execBeatIssue s
  | .beatComplete => Sys2Proof.Machine.execBeatComplete s
  | .transferComplete => Sys2Proof.Machine.execTransferComplete s
  | .copyFaultTimeout => Sys2Proof.Machine.execCopyFaultTimeout s
  | .bindingResolve => Sys2Proof.Machine.execBindingResolve s
  | .rowOperationStart => Sys2Proof.Machine.execRowOperationStart s
  | .rowBoundary => Sys2Proof.Machine.execRowBoundary s
  | .guaranteedSlot => Sys2Proof.Machine.execGuaranteedSlot s
  | .waveStart => Sys2Proof.Machine.execWaveStart s
  | .waitwPoll => Sys2Proof.Machine.execWaitwPoll s
  | .mloadComplete => Sys2Proof.Machine.execMloadComplete s
  | .csaveComplete => Sys2Proof.Machine.execCsaveComplete s
  | .cloadComplete => Sys2Proof.Machine.execCloadComplete s

end Sys2Proof.Machine
end

