-- ==== Sys2Proof/Machine/Hazards.lean ====
section
/-! DEFINITION. What a bundle's slots read and write, when the results land, the read ports they count and the
rules that make a bundle illegal (06 R137, R140 to R145, 15 R313, R315, R328, R329). -/

namespace Sys2Proof.Machine

/-! ## Classes of instructions -/

/-- The scalar instructions that an EXT may extend (15 R313, R315). -/
def takesExt (i : Instr) : Bool :=
  match i with
  | .addi .. | .andi .. | .ori .. | .xori .. | .li .. | .lih .. | .cmpi .. | .b .. | .call .. | .loopi .. => true
  | _ => false

/-- The scalar instructions that stand in S0 only (15 R315). -/
def firstOnly (i : Instr) : Bool :=
  match i with
  | .b .. | .call .. | .callr .. | .jr .. | .loop .. | .loopi .. | .yield .. | .exit .. | .eret .. | .halt .. | .idle ..
  | .mode _ => true
  | _ => false

/-- The instructions that only a SYSTEM session may issue (06 R150). -/
def isPrivileged (i : Instr) : Bool :=
  match i with
  | .tlbi .. | .halt .. | .idle .. | .csave .. | .cload .. => true
  | .mfs _ _ _ n => decide (0x100 ≤ n.toNat)
  | .mts _ _ _ _ n => decide (0x100 ≤ n.toNat)
  | _ => false

/-- The waits whose condition, once seen to hold, stays satisfied (20 R413, 05 R130). -/
def isWait (i : Instr) : Bool :=
  match i with
  | .waitw .. | .copyw .. | .barwait .. | .msync _ | .cbar .. => true
  | _ => false

/-- Read ports of the vector register file (06 R140, 15 R329). -/
def readPorts (i : Instr) : Nat :=
  match i with
  | .vfma .. | .vfnma .. | .vdot4 .. => 3
  | .vadd .. | .vsub .. | .vadds .. | .vsubs .. | .vmul .. | .vmulh .. | .vmin .. | .vmax .. | .vand .. | .vor .. | .vxor ..
  | .vandn .. | .vshl .. | .vshr .. | .vsar .. | .vcmp .. | .vsel .. | .vfadd .. | .vfsub .. | .vfmul .. | .vfmin ..
  | .vfmax .. | .vfcmp .. | .vperm .. | .tqp .. | .vscatterW .. | .vscatterD .. => 2
  | .vabs .. | .vneg .. | .vpopc .. | .vclz .. | .vmov .. | .vshli .. | .vshri .. | .vcvt1 .. | .vcvt2 .. | .vcvtef1 ..
  | .vcvtef2 .. | .vsum .. | .vrmax .. | .vrmin .. | .vscan .. | .vshuf .. | .vslide .. | .vextr .. | .vtget .. | .vtset ..
  | .tq .. | .tqi .. | .rcp .. | .rsq .. | .exp2 .. | .log2 .. | .sinpi .. | .cospi .. | .vst .. | .vstq ..
  | .vgatherW .. | .vgatherD .. | .send .. => 1
  | _ => 0

/-! ## Sources -/

namespace Use
def g (x : BitVec 6) : Dest := .g x.toNat
def k (x : BitVec 3) : Dest := .k x.toNat
def q (x : BitVec 3) : Dest := .q x.toNat
def v (x : BitVec 6) : Dest := .line x.toNat
/-- A 4-bit field names g0 to g15. -/
def g4 (x : BitVec 4) : Dest := .g x.toNat
/-- The lines of the tiles from `t` to `t + n - 1`, t19 at most. -/
def tiles (t n : Nat) : List Dest :=
  (List.range (Nat.min (t + n) 20 - t)).flatMap fun i => (List.range 16).map fun j => .line (Ctx.tileLine (t + i) j)
end Use

open Use in
/-- The registers that an instruction reads, its k predicate apart, among those that a result may claim past the next
issue cycle; `n` is the span of a transform. m7 is claimed by BLOCK stages and read by MGET (10 R247). -/
def reads (n : Nat) (i : Instr) : List Dest :=
  match i with
  | .add _ _ _ a b | .sub _ _ _ a b | .and _ _ _ a b | .or _ _ _ a b | .xor _ _ _ a b | .andn _ _ _ a b
  | .shl _ _ _ a b | .shr _ _ _ a b | .sar _ _ _ a b | .rotl _ _ _ a b | .min _ _ _ a b | .max _ _ _ a b
  | .minu _ _ _ a b | .maxu _ _ _ a b | .mul _ _ _ a b | .mulh _ _ _ a b | .mulhu _ _ _ a b | .div _ _ _ a b
  | .divu _ _ _ a b | .rem _ _ _ a b | .remu _ _ _ a b | .extf _ _ _ a b | .insf _ _ _ a b | .spawn _ _ _ a b
  | .fminF32 _ _ _ a b | .fmaxF32 _ _ _ a b | .fminF64 _ _ _ a b | .fmaxF64 _ _ _ a b
  | .cmp _ _ _ _ a b | .fcmpF32 _ _ _ _ a b | .fcmpF64 _ _ _ _ a b
  | .faddF32 _ _ _ a b _ | .fsubF32 _ _ _ a b _ | .fmulF32 _ _ _ a b _
  | .faddF64 _ _ _ a b _ | .fsubF64 _ _ _ a b _ | .fmulF64 _ _ _ a b _ => [g a, g b]
  | .ffmaF32 _ _ d a b _ | .ffmaF64 _ _ d a b _ => [g a, g b, g d]
  | .sel _ _ _ a b f => [k f, g a, g b]
  | .kop _ _ _ a b _ => [k a, k b]
  | .clz _ _ _ a | .ctz _ _ _ a | .popc _ _ _ a | .brev _ _ _ a | .bswap _ _ _ a | .callr _ _ _ a
  | .addi _ _ _ a _ | .andi _ _ _ a _ | .ori _ _ _ a _ | .xori _ _ _ a _ | .shli _ _ _ a _ | .shri _ _ _ a _
  | .sari _ _ _ a _ | .cmpi _ _ _ _ a _ | .fcvt _ _ _ a _ _ _ | .jr _ _ a | .loop _ _ _ a | .cjoin _ _ a
  | .mts _ _ _ a _ | .mput _ _ a _ | .tlbi _ _ a | .csave _ _ a | .cload _ _ a => [g a]
  | .mget _ _ _ n => if n = 7 then [.m 7] else []
  | .vadd p _ _ a b | .vsub p _ _ a b | .vmul p _ _ a b | .vfmin p _ _ a b | .vfmax p _ _ a b | .vshl p _ _ a b
  | .vshr p _ _ a b | .vsar p _ _ a b | .vperm p _ _ a b | .vadds p _ _ a b _ | .vsubs p _ _ a b _
  | .vmulh p _ _ a b _ | .vmin p _ _ a b _ | .vmax p _ _ a b _ | .vfadd p _ _ a b _ | .vfsub p _ _ a b _
  | .vfmul p _ _ a b _ | .vand p _ a b | .vor p _ a b | .vxor p _ a b | .vandn p _ a b | .vsel p _ a b
  | .vcmp p _ _ _ a b | .vfcmp p _ _ _ a b => [q p, v a, v b]
  | .vdot4 p d a b _ | .vfma p _ d a b _ | .vfnma p _ d a b _ => [q p, v a, v b, v d]
  | .vabs p _ _ a | .vneg p _ _ a | .vpopc p _ _ a | .vclz p _ _ a | .vshli p _ _ a _ | .vshri p _ _ a _
  | .vshuf p _ _ a _ | .vslide p _ _ a _ | .vextr p _ _ a _ | .vcvt1 p _ _ a _ _ | .vcvt2 p _ _ a _ _
  | .vcvtef1 p _ _ a _ _ | .vcvtef2 p _ _ a _ _ | .vsum p _ _ a _ | .vrmax p _ _ a _ | .vrmin p _ _ a _
  | .vscan p _ _ a _ | .vmov p _ a | .vtset p _ a _ | .tq p _ a _ _ _ | .tqi p _ a _ _ | .rcp p _ a _
  | .rsq p _ a _ | .exp2 p _ a _ | .log2 p _ a _ | .sinpi p _ a _ | .cospi p _ a _ => [q p, v a]
  | .tqp p _ a _ => [q p, v a, v (a + 1)]
  | .qop _ a b _ => [q a, q b]
  | .qfromg _ a => [g a]
  | .vbcast p _ _ a => [q p, g a]
  | .vmovi p .. => [q p]
  | .vrdacc p .. => [q p]
  | .vrand p .. => [q p]
  | .vtget p _ t l => [q p, .line (Ctx.tileLine t.toNat l.toNat)]
  | .tload a _ => [g a]
  | .bfly _ a _ _ _ | .tperm _ a _ => tiles a.toNat n
  | .ldb _ _ b _ | .ldbn _ _ b _ | .ldh _ _ b _ | .ldhn _ _ b _ | .ldw _ _ b _ | .ldwn _ _ b _ | .ldd _ _ b _
  | .vld _ _ b _ | .tld _ _ b _ | .bararv _ b _ => [g b]
  | .stb _ d b _ | .sth _ d b _ | .stw _ d b _ | .std _ d b _ | .barinit _ d b _ | .barexp _ d b _
  | .barwait _ d b _ | .waitw _ _ d b => [g d, g b]
  | .vst _ d b _ => [v d, g b]
  | .vldq _ p _ b _ => [q p, g b]
  | .vstq _ p d b _ => [q p, v d, g b]
  | .tst _ t b _ => g b :: tiles t.toNat 1
  | .vgatherW _ p _ a b | .vgatherD _ p _ a b => [q p, v a, g b]
  | .vscatterW _ p d a b | .vscatterD _ p d a b => [q p, v d, v a, g b]
  | .aadd _ _ _ b x _ | .amin _ _ _ b x _ | .amax _ _ _ b x _ | .axchg _ _ _ b x _ | .afadd _ _ _ b x _
  | .afaddh _ _ _ b x _ => [g b, g x]
  | .acas _ _ d b x _ => [g b, g x, g d]
  | .copy _ _ a b _ => [g4 a, g4 b]
  | .copyt _ _ a b h _ | .copyx _ _ _ a b h _ | .copyg _ _ a b h _ | .copysa _ _ _ a b h _ => [g4 a, g4 b, g4 h]
  | .copyw _ a => [g4 a]
  | .send _ _ _ d x => [v d, g x]
  | .fbind _ _ a b h => [g a, g b, g h]
  | .fwr _ _ a => [g a]
  | .mcall _ _ f _ => if f = 15 then [.lc 1] else []
  | _ => []

/-! ## Destinations -/

/-- A register that an instruction writes, the latency of the result, and whether its landing counts a write port
(06 R141, R145). -/
structure Write where
  dest : Dest
  lat : Nat
  port : Bool := false
  deriving DecidableEq, Repr

namespace Write
def g (x : BitVec 6) (n : Nat) : List Write := [{ dest := .g x.toNat, lat := n }]
def k (x : BitVec 3) (n : Nat) : List Write := [{ dest := .k x.toNat, lat := n }]
def q (x : BitVec 3) (n : Nat) : List Write := [{ dest := .q x.toNat, lat := n }]
def v (x : BitVec 6) (n : Nat) : List Write := [{ dest := .line x.toNat, lat := n, port := true }]
/-- Two lines, from the one that is named. -/
def v2 (x : BitVec 6) (n : Nat) : List Write := v x n ++ [{ dest := .line (x.toNat + 1), lat := n, port := true }]
def tiles (t n lat : Nat) : List Write := (Use.tiles t n).map fun d => { dest := d, lat := lat }
end Write

open Write in
/-- The registers that an instruction writes, for a transform of span `n`. -/
def writes (n : Nat) (i : Instr) : List Write :=
  match i with
  | .add _ _ d _ _ | .sub _ _ d _ _ | .and _ _ d _ _ | .or _ _ d _ _ | .xor _ _ d _ _ | .andn _ _ d _ _
  | .shl _ _ d _ _ | .shr _ _ d _ _ | .sar _ _ d _ _ | .rotl _ _ d _ _ | .min _ _ d _ _ | .max _ _ d _ _
  | .minu _ _ d _ _ | .maxu _ _ d _ _ | .extf _ _ d _ _ | .insf _ _ d _ _ | .clz _ _ d _ | .ctz _ _ d _
  | .popc _ _ d _ | .brev _ _ d _ | .bswap _ _ d _ | .callr _ _ d _ | .sel _ _ d _ _ _ | .addi _ _ d _ _
  | .andi _ _ d _ _ | .ori _ _ d _ _ | .xori _ _ d _ _ | .shli _ _ d _ _ | .shri _ _ d _ _ | .sari _ _ d _ _
  | .li _ _ d _ | .lih _ _ d _ => g d 1
  | .call .. => g 63 1
  | .mul _ _ d _ _ | .mulh _ _ d _ _ | .mulhu _ _ d _ _ => g d 3
  | .div _ _ d _ _ | .divu _ _ d _ _ | .rem _ _ d _ _ | .remu _ _ d _ _ => g d 20
  | .faddF32 _ _ d _ _ _ | .fsubF32 _ _ d _ _ _ | .fmulF32 _ _ d _ _ _ | .faddF64 _ _ d _ _ _ | .fsubF64 _ _ d _ _ _
  | .fmulF64 _ _ d _ _ _ | .ffmaF32 _ _ d _ _ _ | .ffmaF64 _ _ d _ _ _ | .fcvt _ _ d _ _ _ _ => g d 4
  | .fminF32 _ _ d _ _ | .fmaxF32 _ _ d _ _ | .fminF64 _ _ d _ _ | .fmaxF64 _ _ d _ _ => g d 2
  | .cmp _ _ d _ _ _ | .cmpi _ _ d _ _ _ | .kop _ _ d _ _ _ => k d 1
  | .fcmpF32 _ _ d _ _ _ | .fcmpF64 _ _ d _ _ _ => k d 2
  | .mfs _ _ d _ | .mget _ _ d _ => g d 2
  | .mts _ _ m _ n =>
    if m = 1 then [{ dest := .sys 0x012, lat := 1 }, { dest := .sys 0x013, lat := 1 }] else [{ dest := .sys n.toNat, lat := 1 }]
  | .mput _ _ _ n =>
    [{ dest := if n.toNat < 8 then .m n.toNat else if n.toNat < 0x100 then .fmt (n.toNat - 0x10) else .shp (n.toNat - 0x100),
       lat := 1 }]
  | .spawn _ _ d _ _ | .cnew _ _ d => g d 48
  | .vadd _ _ d _ _ | .vsub _ _ d _ _ | .vshl _ _ d _ _ | .vshr _ _ d _ _ | .vsar _ _ d _ _ | .vadds _ _ d _ _ _
  | .vsubs _ _ d _ _ _ | .vmin _ _ d _ _ _ | .vmax _ _ d _ _ _ | .vand _ d _ _ | .vor _ d _ _ | .vxor _ d _ _
  | .vandn _ d _ _ | .vsel _ d _ _ | .vabs _ _ d _ | .vneg _ _ d _ | .vpopc _ _ d _ | .vclz _ _ d _ | .vshli _ _ d _ _
  | .vshri _ _ d _ _ | .vslide _ _ d _ _ | .vbcast _ _ d _ | .vmovi _ _ d _ | .vmov _ d _ | .vtget _ d _ _
  | .vrand _ d _ => v d 2
  | .vtset _ t _ l => [{ dest := .line (Ctx.tileLine t.toNat l.toNat), lat := 2, port := true }]
  | .vcmp _ _ _ d _ _ => q d 2
  | .qop d _ _ _ => q d 2
  | .qfromg d _ => q d 2
  | .vmul _ _ d _ _ | .vmulh _ _ d _ _ _ | .vdot4 _ d _ _ _ | .vfmul _ _ d _ _ _ | .vfma _ _ d _ _ _
  | .vfnma _ _ d _ _ _ => v d 5
  | .vfadd _ _ d _ _ _ | .vfsub _ _ d _ _ _ | .vfmin _ _ d _ _ | .vfmax _ _ d _ _ | .vcvt1 _ _ d _ _ _
  | .vcvt2 _ _ d _ _ _ | .vperm _ _ d _ _ | .vrdacc _ d _ => v d 4
  | .vfcmp _ _ _ d _ _ => q d 4
  | .vcvtef1 _ _ d _ _ _ | .vcvtef2 _ _ d _ _ _ => v2 d 4
  | .vshuf _ _ d _ _ => v d 3
  | .vextr _ _ d _ _ => g d 3
  | .vsum _ _ d _ _ | .vrmax _ _ d _ _ | .vrmin _ _ d _ _ => v d 8
  | .vscan _ _ d _ _ => v d 10
  | .tq _ d _ _ _ _ => v d 6
  | .tqp _ d _ _ => v2 d 6
  | .tqi _ d _ _ _ | .rcp _ d _ _ | .rsq _ d _ _ | .exp2 _ d _ _ | .log2 _ d _ _ => v d 8
  | .sinpi _ d _ _ | .cospi _ d _ _ => v d 10
  | .tinfo d _ => v d 4
  | .bfly d _ _ _ _ => tiles d.toNat n (12 + 8 * n)
  | .tperm d _ _ => tiles d.toNat n (4 + 8 * n)
  | .ldb _ d _ _ | .ldbn _ d _ _ | .ldh _ d _ _ | .ldhn _ d _ _ | .ldw _ d _ _ | .ldwn _ d _ _ | .ldd _ d _ _ => g d 6
  | .vld _ d _ _ | .vldq _ _ d _ _ => v d 8
  | .tld _ t _ _ => tiles t.toNat 1 22
  | .vgatherW _ _ d _ _ | .vgatherD _ _ d _ _ => v d 12
  | .aadd _ _ d _ _ _ | .amin _ _ d _ _ _ | .amax _ _ d _ _ _ | .axchg _ _ d _ _ _ | .acas _ _ d _ _ _
  | .afadd _ _ d _ _ _ | .afaddh _ _ d _ _ _ => g d 10
  | .recv _ _ _ d => v d 4
  | .frd _ _ d => g d 2
  | _ => []

/-! ## The bundle -/

/-- A slot of a bundle: its index, its instruction, and the x25 of an EXT beside it. -/
structure Slot where
  idx : Nat
  op : Instr
  ext : Option (BitVec 25) := none
  deriving DecidableEq, Repr

/-- The slots of a bundle (06 R135, 15 R309); none where a word's fate is ILLEGAL. -/
def readSlots (w : BitVec 256) : Option (List Slot) :=
  let one (k : Nat) : Option Slot := match decodeSlot k (slotWord w k) with
    | .ok i => some { idx := k, op := i }
    | .error _ => none
  (List.range 8).mapM one

/-- What the EXT of the other scalar slot gives a slot (15 R312, R313). -/
def extOf (l : List Slot) (k : Nat) : Option (BitVec 25) :=
  match l.find? fun t => t.idx == 1 - k && decide (k < 2) with
  | some { op := .ext x, .. } => some x
  | _ => none

/-- EXT's rules (15 R313). -/
def extRule (l : List Slot) : Bool :=
  l.all fun t => match t.op with
    | .ext x => (match l.find? fun u => u.idx == 1 - t.idx with
      | some { op := .loopi _ _ _ i, .. } => decide ((x ++ i).toNat < 2 ^ 32)
      | some u => takesExt u.op
      | none => false)
    | _ => true

/-- A higher slot's write to a register that a lower slot writes does not land before it (06 R143, 15 R328). -/
def orderRule : List Slot → Bool
  | [] => true
  | t :: r =>
    (r.all fun u => (writes 8 u.op).all fun y =>
      (writes 8 t.op).all fun x => x.dest != y.dest || Ctx.Dest.hard x.dest || decide (x.lat ≤ y.lat)) && orderRule r

/-- MODE shares its bundle with no operation (06 R146). -/
def modeRule (l : List Slot) : Bool :=
  l.all fun t => match t.op with
    | .mode _ => l.all fun u => u.idx == t.idx || u.op == .nop
    | _ => true

/-- The slots of a legal bundle, each with its extension (15 R328). -/
def legal (w : BitVec 256) : Option (List Slot) :=
  match readSlots w with
  | none => none
  | some l =>
    if l.all (fun t => t.idx != 1 || !firstOnly t.op) && extRule l &&
        decide ((l.foldl (fun n t => n + readPorts t.op) 0) ≤ 6) && orderRule l && modeRule l then
      some (l.map fun t => { t with ext := extOf l t.idx })
    else none

/-- The k predicate of an S format: pn and pk stand in one place (15 R311); EXT, MODE and NOP have none. -/
def scalarPred (i : Instr) (k : Nat) (w : Word) : Option (BitVec 1 × BitVec 3) :=
  if k < 2 then
    match i with
    | .ext _ | .mode _ | .nop => none
    | _ => some (fld 24 1 w, fld 21 3 w)
  else none

namespace State

/-- A slot that performs: its k predicate is true (06 R137). -/
def active (s : State) (w : BitVec 256) (t : Slot) : Bool :=
  match scalarPred t.op t.idx (slotWord w t.idx) with
  | some (pn, pk) => s.cur.pred pn pk
  | none => true

/-- The span that a transform of the context would have (10 R244). -/
def spanNow (s : State) : Nat := bits (s.cur.rm 5).toNat 29 27 + 1

/-- The parts that a writing C slot and WAITW name (20 R415 to R418, R421). -/
def otherParts (s : State) (i : Instr) : List Part :=
  let at1 (b : BitVec 6) (o : BitVec 9) (n : Nat) : List Part := [(addrOf s b o n, 0, n)]
  match i with
  | .stb _ _ b o => at1 b o 1
  | .sth _ _ b o => at1 b o 2
  | .stw _ _ b o => at1 b o 4
  | .std _ _ b o => at1 b o 8
  | .vst _ _ b o => [(addrOf s b o 256, 0, 256)]
  | .vstq _ q _ b o => maskParts (addrOf s b o 256) (s.cur.rq q)
  | .tst _ _ b o => [(addrOf s b o 4096, 0, 4096)]
  | .vscatterW _ q _ a b => (s.elemParts q b a 4).flatMap (·.2)
  | .vscatterD _ q _ a b => (s.elemParts q b a 8).flatMap (·.2)
  | .waitw _ _ _ b => [(s.cur.rg b, 0, 8)]
  | _ => []

/-- The pointer of a slot's access to host memory, which only a SYSTEM session may name (04 R84, 06 R150). -/
def hostPtr (s : State) (i : Instr) : Option DWord :=
  ((s.readParts i ++ s.otherParts i).find? fun p =>
    match ptrOf s.ncores p.1 with
    | some (.host _ _) => true
    | _ => false).map (·.1)

/-! ## Conditions at issue (06 R144) -/

/-- A register that a pending result claims (06 R142). -/
def claimed (c : Ctx) (d : Dest) : Bool := !Ctx.Dest.hard d && c.pend.any (·.dest == d)

/-- The tile that a line of the window belongs to. -/
def tileOf (d : Dest) : Option Nat :=
  match d with
  | .line n => if 64 ≤ n then some ((n - 64) / 16) else none
  | _ => none

/-- The matrix claims on the tile of a register (09 R229). -/
def tileClaims (c : Ctx) (d : Dest) : List MClaim :=
  match tileOf d with
  | some t => c.claims.filter fun k => k.tiles.getLsbD t
  | none => []

/-- The accumulator row that a slot reads. -/
def rowOf (i : Instr) : Option Nat :=
  match i with
  | .vrdacc _ _ a => some a.toNat
  | _ => none

/-- The claims on a row. -/
def rowClaims (c : Ctx) (i : Instr) : List MClaim :=
  match rowOf i with
  | some r => c.claims.filter fun k => k.rows.getLsbD r
  | none => []

/-- A claim before its landing cycle; past it, the bundle is held until the routine has finished (09 R229, R230). In a scoreboard
region, a handler's included, it counts until the routine has finished, since a stall brings no issue cycle nearer (DESIGN CHOICE,
log entry 74). -/
def early (c : Ctx) (k : MClaim) : Bool := !k.fixed || !c.fixed || decide (c.issue < k.lambda)

/-- A write of latency `lat` to a register would land before a result that is pending for it (06 R144). -/
def landsBefore (s : State) (c : Ctx) (w : Write) : Bool :=
  !Ctx.Dest.hard w.dest && c.pend.any fun p => p.dest == w.dest && (match p.due with
    | .issue n => decide (c.issue + w.lat < n)
    | .cycle n => decide (s.now + w.lat < n)
    | .access _ => true)

/-- A write to a destination tile of a routine that has not landed. -/
def beforeTile (c : Ctx) (w : Write) : Bool :=
  (tileClaims c w.dest).any fun k => !k.fixed || !c.fixed || decide (c.issue + w.lat < k.lambda)

/-- The lines that land at the moment of one of `ws` number more than 4 (06 R141). -/
def portsFull (s : State) (ws : List Write) : Bool :=
  let c := s.cur
  let isLine (d : Dest) : Bool := match d with | .line _ => true | _ => false
  ws.any fun w => w.port &&
    decide (4 < (ws.filter fun y => y.port && y.lat == w.lat).length +
      (c.pend.filter fun p => isLine p.dest && !p.tile && p.due == s.dueIn w.lat).length)

/-- The slots of a bundle that perform. -/
def activeSlots (s : State) (w : BitVec 256) (l : List Slot) : List Slot := l.filter (s.active w)

/-- The counters that a bundle reads at the end of the levels that end there (06 R148): that of an outer level where the inner
one closes. -/
def endReads (c : Ctx) : List LoopLevel → List Dest
  | [] => []
  | l :: r => .lc l.depth :: (if c.rlc l.depth = 1 then endReads c r else [])

/-- A control transfer of S0. -/
def transfers (i : Instr) : Bool := match i with | .b .. | .call .. | .callr .. | .jr .. => true | _ => false

/-- What the loop buffer reads beside the slots. -/
def loopReads (s : State) (w : BitVec 256) (l : List Slot) : List Dest :=
  if s.cur.hnd ∨ (s.activeSlots w l).any (transfers ·.op) then []
  else endReads s.cur (s.cur.loops.reverse.filter (·.last == s.cur.pc))

/-- A source, or a predicate, is claimed (06 R144). -/
def sourceClaimed (s : State) (w : BitVec 256) (l : List Slot) : Bool :=
  let c := s.cur
  let preds := l.filterMap fun t => (scalarPred t.op t.idx (slotWord w t.idx)).map fun p => Use.k p.2
  let srcs := ((s.activeSlots w l).flatMap fun t => reads s.spanNow t.op) ++ s.loopReads w l
  preds.any (claimed c) || srcs.any fun d => claimed c d || (tileClaims c d).any (early c)

/-- The first schedule condition of a bundle that holds (06 R144, R151): its subcode. -/
def schedule (s : State) (w : BitVec 256) (l : List Slot) : Option Nat :=
  let c := s.cur
  let on := s.activeSlots w l
  let ws := on.flatMap fun t => writes s.spanNow t.op
  if s.sourceClaimed w l then some 1
  else if on.any fun t => (rowClaims c t.op).any (early c) then some 2
  else if on.any fun t => s.beyondOwn (s.readParts t.op) then some 3
  else if (ws.any fun x => s.landsBefore c x || beforeTile c x) || on.any (s.lateTile ·.op) then some 4
  else if s.portsFull ws then some 5
  else none

/-- A bundle past the landing cycle of a claim that it needs, whose routine has not finished (09 R230). -/
def lateRoutine (s : State) (w : BitVec 256) (l : List Slot) : Bool :=
  let c := s.cur
  (s.activeSlots w l).any fun t =>
    (rowClaims c t.op ++ (reads s.spanNow t.op).flatMap (tileClaims c) ++
      ((writes s.spanNow t.op).flatMap fun x => tileClaims c x.dest)).any fun k => !early c k

end State
end Sys2Proof.Machine
end

