-- ==== Sys2Proof/Machine/Bundle.lean ====
section
/-! DEFINITION. Issue of a bundle: fetch, legality, the trap order, holds and waits, and the whole of its slots as one
(06 R135, R136, R142 to R151, 20 R413, R414). -/

namespace Sys2Proof.Machine

/-- What a bundle fetch gives. -/
inductive Fetched where
  | wait | mig
  | bad (eva : DWord)
  | got (w : BitVec 256)
  deriving DecidableEq, Repr

/-- How an attempt to issue ended (06 R144, R149, 05 R119, R130); `sat` are the waits found satisfied. -/
inductive Verdict where
  | issued (sat : List Slot) | trapped | waiting | stalled | held | blocked
  deriving DecidableEq, Repr

/-- The slots of a bundle as they go: the state after those done, which wait, stall or hold, and the one that traps. -/
structure Pass where
  st : State
  held : Bool := false
  stalled : List Slot := []
  waits : List Slot := []
  sat : List Slot := []
  trap : Option (Slot × State) := none
  deriving DecidableEq, Repr

namespace State

/-- The bundle at PC (06 R135): 32 bytes of space 0x0 with X; a PC that is no multiple of 32 is a fetch fault
(DEDUCED, log entry 17). -/
def fetchBundle (s : State) : Fetched × State :=
  let c := s.cur
  if c.pc % 32 ≠ 0 then (.bad c.pc, s)
  else
    let (ps, _, bad) := s.checkAccess s.curSess .fetch c.pc 32
    match bad with
    | some d => (.bad d.eva, s)
    | none =>
      if ps.any s.pieceWaits then (.mig, s)
      else match s.engineRead s.curSess 32 c.fetch ps with
        | (.wait q, s) => (.wait, s.modCur fun c => { c with fetch := q })
        | (.failed, s) => (.bad c.pc, s.modCur fun c => { c with fetch := {} })
        | (.bytes b, s) => (.got (BitVec.ofNat 256 (ofBytes b)), s.modCur fun c => { c with fetch := {} })

/-- One slot on the context in hand (06 R136): its meaning, with its EXT. No arm of `exec` stops. -/
def doSlot (s : State) (t : Slot) : State :=
  match exec t.op (State.outcome { s with curSlot := t.idx, ext := t.ext } .done) with
  | .next s => s
  | _ => s

/-- A slot that performs nothing: NOP, EXT, or a false predicate. -/
def idleSlot (s : State) (w : BitVec 256) (t : Slot) : Bool :=
  (match t.op with | .nop | .ext _ => true | _ => false) || !s.active w t

/-- The slots that end a session: they go last, since the whole bundle issues. -/
def endsSession (i : Instr) : Bool :=
  match i with
  | .halt .. => true
  | .mts _ _ _ _ n => n == 0x108
  | _ => false

/-- SEND and RECV: a condition that takes something when the bundle issues (20 R413). -/
def isCount (i : Instr) : Bool := match i with | .send .. | .recv .. => true | _ => false

def isHalt (t : Slot) : Bool := match t.op with | .halt .. => true | _ => false

/-- The slots in their order (06 R136). A slot that waits or holds leaves the state as it is, and the later slots are
looked at for traps (06 R151). -/
def doSlots : List Slot → Pass → Pass
  | [], p => p
  | t :: r, p =>
    let z := p.st.doSlot t
    match z.cur.out with
    | .trapped => { p with trap := some (t, z) }
    | .held => doSlots r { p with held := true }
    | .stalled => doSlots r { p with stalled := p.stalled ++ [t] }
    | .blocked _ => doSlots r { p with waits := p.waits ++ [t] }
    | .done | .halted => doSlots r { p with st := z, sat := if isWait t.op || isCount t.op || isHalt t then p.sat ++ [t] else p.sat }

def isEret (i : Instr) : Bool := match i with | .eret .. => true | _ => false

/-- The slots that perform, in the order in which they are taken: what ERET writes, no slot of its bundle sees (06 R136). -/
def inOrderOf (s : State) (w : BitVec 256) (l : List Slot) : List Slot :=
  let l := l.filter fun t => !s.idleSlot w t
  l.filter (fun t => !endsSession t.op && !isEret t.op) ++ l.filter (isEret ·.op) ++ l.filter (endsSession ·.op)

/-- An ERET outside a handler (06 R150). -/
def strayEret (s : State) (t : Slot) : Bool :=
  match t.op with
  | .eret .. => !s.cur.hnd
  | _ => false

/-- The privilege trap of a bundle (06 R150, R151): its EVA. -/
def privilege (s : State) (w : BitVec 256) (l : List Slot) : Option DWord :=
  if (s.activeSlots w l).any s.strayEret then some 0
  else if s.isSystem s.curSess then none
  else if l.any (isPrivileged ·.op) then some 0
  else (s.activeSlots w l).findSome? fun t => s.hostPtr t.op

/-- The trap that a slot has taken, as CAUSE and EVA. -/
def causeOfPass (s : State) : DWord × DWord :=
  match s.cur.wait with
  | .trap cause eva => (cause, eva)
  | _ => (s.cur.sys.cause, s.cur.sys.eva)

/-- The trap of a slot on the bundle's state, whose reads of peer memory are forgotten. A slot that traps only on what an
earlier slot of its bundle has done takes the trap that it took there. -/
def takeTrap (s : State) (t : Slot) (z : State) : State :=
  let y := s.doSlot t
  let y := if y.cur.out = .trapped then y
    else State.trapCause { s with curSlot := t.idx } z.causeOfPass.1 z.causeOfPass.2
  s.cur.far.foldl dropFar y

/-- The message or credit that a slot takes when its bundle issues: SEND or RECV, link, core and queue. -/
def takes (s : State) (i : Instr) : Option (Bool × Nat × Nat × Nat) :=
  match i with
  | .send _ l q _ g => some (true, l.toNat, (s.cur.rg g).toNat % 128, q.toNat)
  | .recv _ l q _ => some (false, l.toNat, s.curCore, q.toNat)
  | _ => none

/-- The waits found satisfied stay so, with what they have acquired (20 R413); a CBAR arrives when it is first evaluated
(20 R414). A message or credit that has been seen is kept for its slot; FRD's result is its own strand's. MSYNC issues in its
issue cycle alone. -/
def keepSat (s : State) (l : List Slot) : State :=
  let l := l.filter fun t => !s.cur.met.contains t.idx
  let runs := l.filter (isWait ·.op)
  let s := (runs.foldl doSlot s).modCur fun c => { c with met := runs.map (·.idx) ++ c.met, lastM := s.cur.lastM }
  let new := l.filterMap fun t => if s.cur.holds.any (·.1 == t.idx) then none else (s.takes t.op).map fun k => (t.idx, k)
  s.modCur fun c => { c with holds := c.holds ++ new }

/-- The bundle stalls on a slot: what that slot does while it waits is done (04 R99, 06 R142). -/
def stallOn (s : State) (p : Pass) (t : Slot) : State := (s.keepSat (p.sat.filter (!isHalt ·))).doSlot t

/-- The context is BLOCKED on the slots that wait: what a wait does while it lasts is done (05 R123, R130). -/
def blockAll (s : State) (p : Pass) : State :=
  let s := s.modCur fun c => { c with conds := [] }
  let step (a : State × Bool) (t : Slot) : State × Bool :=
    let z := a.1.doSlot t
    (z, a.2 && z.cur.out == .blocked true)
  let (s, park) := p.waits.foldl step (s.keepSat (p.sat.filter (!isHalt ·)), true)
  s.modCur fun c => { c with out := .blocked park }

/-- The bundle issues: the next one is found, and an issue cycle has passed; MODE stays the next bundle until its wait
ends (06 R135, R142, R146). A strand that has issued EXIT leaves its crew once the slots beside EXIT have performed (16
R350). The arrival that a CBAR of the bundle waited with is over. -/
def issueBundle (s : State) (before : Nat) (bar : Bool) : State :=
  let s := if s.cur.exits then s.leaveCrew s.curAge else s
  let s := if bar then s.modCur fun c => { c with arrivedIn := none } else s
  s.modCur fun c => match c.wait with
    | .mode _ => { c with out := .done, since := none, met := [], conds := [], polls := [], holds := [], stalledFor := 0, before := none }
    | _ => retire { c with out := .done } s.now before

/-- An attempt to issue the bundle at the PC of the context in hand (06 R151). -/
def attempt (s : State) : State × Verdict :=
  let crew := (s.crewOf? s.curAge).map fun k => (k.id, k.episode)
  let s := s.modCur fun c =>
    let c := c.landDue s.now
    { c with out := .done, before := some { sys := c.sys, crew := crew } }
  match s.fetchBundle with
  | (.wait, s) => (s, .waiting)
  | (.mig, s) => (s, .stalled)
  | (.bad eva, s) => (s.trapWith 0x02 0 eva, .trapped)
  | (.got w, z) =>
    match legal w with
    | none => (z.trapWith 0x01 0 0, .trapped)
    | some l =>
      let fixed := s.cur.fixed
      let sub := s.schedule w l
      if !fixed ∧ (sub = some 1 ∨ sub = some 2) then (s, .stalled)
      else match s.privilege w l with
        | some eva => (z.trapWith 0x03 0 eva, .trapped)
        | none =>
          if fixed ∧ sub.isSome then (z.trapWith 0x04 (sub.getD 0) 0, .trapped)
          else
            let p := doSlots (s.inOrderOf w l) { st := z }
            match p.trap with
            | some (t, y) => (z.takeTrap t y, .trapped)
            | none =>
              if sub.isSome then (s, .stalled)
              else if s.lateRoutine w l then (s, .held)
              else if p.waits ≠ [] then (s.blockAll p, .blocked)
              else if p.held then (s, .held)
              else match p.stalled with
              | t :: _ => (s.stallOn p t, .stalled)
              | [] =>
                -- the other slots of a HALT bundle perform nothing (21 R435)
                let y := match p.sat.find? isHalt with
                  | some t => z.doSlot t
                  | none => p.st
                let bar (t : Slot) : Bool := match t.op with | .cbar .. => true | _ => false
                (y.issueBundle s.cur.pend.length (p.sat.any bar), .issued (p.sat.filter (!isHalt ·)))

/-- The context may be looked at: it holds a strand, waits for nothing else, no access of it has faulted, and it is not
frozen for heat or a retry (05 R119). -/
def attemptable (s : State) (c x : Nat) : Bool :=
  let t := s.ctx c x
  (t.st == .issuable || t.st == .blocked || t.st == .frozen) && t.strand.isSome && t.wait == .none && t.fault.isNone &&
    t.stall == 0 && !s.heatFrozen c x

/-- The context is in a state of waiting, since the first cycle of it. -/
def waitIn (s : State) (st : CtxState) : State :=
  s.modCur fun c => { c with st := st, since := some (c.since.getD s.now) }

/-- A context is looked at: an ISSUABLE one issues where `run` says that it is the selector's choice, one that waited
becomes ISSUABLE where its bundle can go (05 R119, R130). A scoreboard stall of more than 8 cycles blocks. -/
def lookAt (s : State) (c x : Nat) (run : Bool) : State :=
  if !s.attemptable c x then s
  else
    let s : State := { s with curCore := c, curCtx := x }
    let go : Bool := s.cur.st == .issuable
    let ready (s : State) : State := s.modCur fun t => { t with st := .issuable }
    match s.attempt with
    | (z, .issued sat) =>
      if go then z.modCore c fun k => { k with thawTo := none }
      else
        let s := ready (s.keepSat sat)
        if run then s.modCore c fun k => { k with switching := 2 } else s
    | (z, .trapped) =>
      if go then z
      else
        let s := ready s
        if run then s.modCore c fun k => { k with switching := 2 } else s
    | (z, .waiting) => z
    | (z, .held) => z.waitIn .frozen
    | (z, .blocked) => z.waitIn .blocked
    | (z, .stalled) =>
      let z := z.modCur fun t => { t with stalledFor := t.stalledFor + 1 }
      if 8 < z.cur.stalledFor then (z.outcome (.blocked false)).waitIn .blocked else z

/-- The running context waits after a bundle that it has issued: a scoreboard stall, which blocks it after 8 cycles
(05 R130, 06 R146, 21 R434, R436). -/
def waitStall (s : State) (c x : Nat) : State :=
  s.modCtx c x fun t =>
    if t.st = .issuable ∧ t.wait ≠ .none ∧ t.stall = 0 then
      { t with
        stalledFor := t.stalledFor + 1, st := if 8 ≤ t.stalledFor then .blocked else .issuable
        out := if 8 ≤ t.stalledFor then .blocked false else t.out }
    else t

/-- A cycle of issue of a core: contexts that wait are looked at, and the running one issues (06 R135, 05 R131). -/
def issueCore (s : State) (c : Nat) : State :=
  let run := (s.core c).running
  let waits (s : State) (x : Nat) : Bool := x != run && (s.ctx c x).st != .issuable
  let s := (List.range 4).foldl (fun s x => if waits s x then s.lookAt c x false else s) s
  if (s.core c).switching = 0 then (s.waitStall c run).lookAt c run true else s

end State
end Sys2Proof.Machine
end

