-- ==== Sys2Proof/Machine/Turns.lean ====
section
/-! DEFINITION. The turns of the machine's agents (DESIGN CHOICE, log entry 1): one turn of a core, a matrix unit, a bank unit or an
event; the turns of one cycle of the device when the agenda is empty, and the passing of a cycle. -/

namespace Sys2Proof.Machine.State

/-! ## One turn -/

/-- The unit of a core does its next microword, or lets go of a command that is done; a routine whose context is being
halted stops before the word and becomes a remainder (09 R225, R234). -/
def microTurn (s : State) (c : Nat) : Out :=
  match (s.core c).unit with
  | none => .next s
  | some r =>
    if !s.unitReady c then .next s
    else if r.last ∨ s.cutShort r then .next (s.letGo c r)
    else if s.halting c r then .next (s.saveRemainder c r)
    else match r.entry.kind with
      | .mcall => (match decodeMicro (s.microWord c r) with
        | .ok i => exec i { s with curCore := c }
        | .error _ => .next (s.setRunning c none))
      | .mload => .next s
      | .mflip => .next (s.flipTurn c r)
      | _ => .next (s.setRunning c none)

/-- The unit has gone past a WAITH that had nothing to wait for, which takes no cycle (19 R407). -/
def passedWaith (c : Nat) (s z : State) : Bool :=
  match (s.core c).unit, (z.core c).unit with
  | some r, some q =>
    (match decodeMicro (s.microWord c r) with | .ok .waith => true | _ => false) && r.entry.kind == .mcall && q.entry.pc != r.entry.pc
  | _, _ => false

/-- What a matrix unit does at a moment of a cycle: a turn, and the next one where a turn took no cycle. `fuel` bounds them. -/
def unitTurns (c : Nat) : Nat → State → Out
  | 0, s => .next s
  | n + 1, s => match s.microTurn c with
    | .next z => if passedWaith c s z then unitTurns c n z else .next z
    | o => o

/-- A bank unit does the next instruction of its running slot (13 R281, R283). Outside a row operation a checkpoint
that quiesces keeps it (03 R79), but for the guaranteed slot (13 R284). -/
def bankTurn (s : State) (ch : Nat) : Out :=
  match (s.unit ch).cur.bind fun k => slot? (s.unit ch) k with
  | none => .next s
  | some b =>
    let given : Bool := (s.unit ch).guaranteed.any fun g => some g.1 == (s.unit ch).cur
    if s.ckpt.isSome ∧ (s.unit ch).rowOp.isNone ∧ !given then .next s
    else exec (s.nextBank ch b) { s with curChan := ch }

/-- What a bank unit does in a cycle (13 R281, 21 R443). Outside a row operation an instruction takes a cycle, and a column access
waits for its row operation. In one, column `n` comes 14 + 2n cycles after the start, the other instructions overlap the columns,
and the operation ends after the precharge. `fuel` bounds the instructions between two columns (21 R442). -/
def rowTurn (ch : Nat) : Nat → State → Out
  | 0, s => .next s
  | fuel + 1, s =>
    let u := s.unit ch
    match u.cur.bind fun k => slot? u k with
    | none => .next s
    | some b =>
      let column := isColumn (s.nextBank ch b)
      match u.rowOp, u.closeAt with
      | none, _ =>
        if s.now < u.stepAt ∨ (s.wanted ch b).isSome then .next s
        else match s.bankTurn ch with
          | .next z => .next (z.modUnit ch fun u => { u with stepAt := s.now + 1 })
          | o => o
      | some (_, _, _), some t =>
        if s.now < t then .next s
        else match s.nextBank ch b with
          | .bend | .bskip => s.bankTurn ch
          | _ => if column ∧ (s.wanted ch b).isNone then s.bankTurn ch else .next (State.boundary { s with curChan := ch })
      | some (bank, row, n), none =>
        if s.endsRow ch b bank row n then
          rowTurn ch fuel (s.modUnit ch fun u => { u with closeAt := some (u.opFrom + rowLength n) })
        else if column ∧ s.now < u.opFrom + 14 + 2 * n then .next s
        else match s.bankTurn ch with
          | .next z => rowTurn ch fuel z
          | o => o

/-- The event that an ordinary access is. -/
def ordinaryEvent (k : BankKey) : Instr × EventArg :=
  match k with
  | .access c x id => (.accessPerform, { core := c, ctx := x, n := id })
  | .beat c h _ => (.beatComplete, { core := c, chan := h })
  | .request l => (.memoryRequest, { link := l })

/-- An ordinary access in a cycle: where its banks let it start it performs, if nothing else keeps it, and then occupies them (13
R282, 26 R472). -/
def ordinaryTurn (s : State) (k : BankKey) : Out :=
  if !s.bankTurnOf k then .next s
  else
    let e := ordinaryEvent k
    let ps := s.keyPieces k
    match exec e.1 { s with arg := e.2 } with
    | .next z =>
      let ended : Bool := match k with | .request _ => z.inbound != s.inbound | _ => z.keyPieces k == []
      .next (if bankParts ps ≠ [] ∧ ended then z.occupyBanks k ps else z)
    | o => o

/-- A copy channel in a cycle: a beat that has been acknowledged is done, or the first that has not performed does so. -/
def beatTurn (s : State) (c h : Nat) : Out :=
  let k := s.chan c h
  match k.beats.find? (!·.posted) with
  | some b =>
    if k.beats.any fun b => b.posted && b.acks.all fun q => s.acknowledged q.1 q.2 then
      exec .beatComplete { s with arg := { core := c, chan := h } }
    else s.ordinaryTurn (.beat c h b.seq)
  | none => exec .beatComplete { s with arg := { core := c, chan := h } }

/-- An operation or event of the module, which has no encoding. -/
def isEvent (i : Instr) : Bool := (encodeWord i).isNone && (encodeMicro i).isNone

/-- The messages that come to the command arbiter (02 R32). -/
def isMessage (i : Instr) : Bool :=
  match i with
  | .launch | .sessionCreate | .sessionDestroy | .map | .unmap | .handleRegister | .handleRelease | .checkpoint | .restore
  | .queryIdentity | .querySequence | .queryFaultLog | .queryHeatMap | .queryAttestation | .mgmtReset
  | .mgmtFirmwareUpdate | .mgmtCoreMapChange | .mgmtPowerCap | .mgmtTimeRoot
  | .burgeeRead | .burgeeWrite | .crbaseWrite | .crsizeWrite | .registerWrite => true
  | _ => false

/-- A retry that succeeds: the fault is transient, it is logged and counted, and the operation's result stands (03 R72, R73,
21 R439). -/
def retriedTurn (s : State) (c unit place cycles : Nat) : State :=
  if c < s.ncores ∧ 3 ≤ unit ∧ unit ≤ 5 then
    (s.modCore c (addRetry unit cycles)).logFault 0 unit (s.coreMap.getD c c) place 0
  else s

/-- A retry that fails: a page of HBM4 or of the capacity tier is lost, and a lasting fault of a macro, a table tier or an
elevator is package-fatal (03 R72, R74). -/
def lastingTurn (s : State) (unit index place paddr : Nat) : State :=
  match unit with
  | 1 | 2 => (s.losePage unit index place paddr).runJournal
  | 3 | 4 | 5 => (s.packageFatal unit index place paddr).runJournal
  | _ => s

/-- An event brings its argument, and what it tells of the module's condition. -/
def withArg (s : State) (a : EventArg) : State :=
  let bad (n : Nat) (x : Striped) : Striped := { x with bad := (a.units.filter (·.1 == n)).map (·.2) ++ x.bad }
  { s with
    arg := a, found := a.found.getD s.found, errors := a.errors ++ s.errors
    baseArea := bad 0 s.baseArea, deltaArea := bad 1 s.deltaArea, logArea := bad 2 s.logArea }

/-- One turn. A message only reaches the arbiter, which takes it in the cycle that follows. -/
def doTurn (s : State) (t : Turn) : Out :=
  match t with
  | .event i a =>
    if !isEvent i then .next s
    else if isMessage i then .next (s.arrive i a)
    else exec i (s.withArg a)
  | .issue c => .next (s.issueCore c)
  | .micro c => s.microTurn c
  | .unit c => unitTurns c 4096 s
  | .bank ch => s.bankTurn ch
  | .row ch => rowTurn ch 512 s
  | .ordinary k => s.ordinaryTurn k
  | .beat c h => s.beatTurn c h
  | .late => .next s.flushLate
  | .retried c u p n => .next (s.retriedTurn c u p n)
  | .lasting u x p a => .next (s.lastingTurn u x p a)

/-- Turns one after another, each with what follows it. -/
def doTurns : State → List Turn → Out
  | s, [] => .next s
  | s, t :: r =>
    match s.doTurn t with
    | .next z => doTurns z.after r
    | o => o

/-- The messages at the arbiter are taken one after another, those of port A first (02 R32). -/
def takeMessages : State → List (Instr × EventArg) → Out
  | s, [] => .next s
  | s, (i, a) :: r =>
    match exec i (s.withArg a) with
    | .next z => takeMessages z.after r
    | o => o

def arbitrate (s : State) : Out :=
  takeMessages { s with arrivals := [] } (s.arrivals.filter (·.2.port == 1) ++ s.arrivals.filter (·.2.port != 1))

/-! ## A cycle of the device -/

/-- Nothing of the core is in use. -/
def restingCore (s : State) (c : Nat) : Bool :=
  let k := s.core c
  k.ctxs.toList.all (fun t => t.st == .free && t.strand.isNone) && k.unit.isNone && k.reloads == [] && k.tload.isNone &&
    k.chans.toList.all (· == {}) && !s.strands.any fun t => t.core == c && t.st == .ready

/-- The events of a context, in the order in which a cycle tries them; then a core's. -/
def ctxEvents : List Instr :=
  [.resultLanding, .waitwPoll, .trapEntry, .modeComplete, .csaveComplete, .cloadComplete, .tlbiComplete, .idleEnd, .strandDone,
   .loadComplete, .saveComplete, .park]
def chanEvents : List Instr := [.bufferEntry, .copyStart, .beatIssue]
def chanEnds : List Instr := [.transferComplete, .copyFaultTimeout]
/-- The ends of a matrix unit's work come before what waits for them. -/
def unitEnds : List Instr := [.mloadComplete, .reloadDone]
def coreEvents : List Instr :=
  [.tloadStart, .tloadComplete, .routineStart, .mreloadExecute, .mflipExecute, .macroModeChange,
   .mloadExecute]
def placeEvents : List Instr := [.dispatch, .preemption, .quantumExpiry, .contextSwitch]
def bankEvents : List Instr := [.rowBoundary, .guaranteedSlot, .rowOperationStart]

/-- The turns of a core. -/
def coreTurns (s : State) (c : Nat) : List Turn :=
  let ev (l : List Instr) (a : EventArg) : List Turn := l.map fun i => .event i a
  let at1 (x : Nat) : List Turn :=
    ((s.ctx c x).accesses.map fun a => Turn.ordinary (.access c x a.id)) ++
      ev ctxEvents { core := c, ctx := x } ++
      ((List.range 8).map fun f => Turn.event .bindingResolve { core := c, ctx := x, idx := f }) ++
      ((List.range 2).map fun h => Turn.event .repushEntry { core := c, ctx := x, chan := h })
  ev unitEnds { core := c } ++ [.unit c] ++ (List.range 4).flatMap at1 ++
    ((List.range 2).flatMap fun h => ev chanEvents { core := c, chan := h } ++ [.beat c h] ++ ev chanEnds { core := c, chan := h }) ++
    (Turn.event .copyFaultTimeout { core := c, chan := 2 } :: ev coreEvents { core := c }) ++
    [.unit c, .event .heatTokenCycle { core := c }] ++ ev placeEvents { core := c } ++ [.issue c]

/-- The turns of the links: IDLE, RETRY and TIME flits whose time has come, and the requests of peers that wait (01 R21, R22,
R31, 13 R282). -/
def linkTurns (s : State) : List Turn :=
  ((List.range 18).flatMap fun l =>
    let k := s.link l
    (if k.up ∧ k.lastIdle + 1_100 ≤ s.now then [Turn.event .idleFlit { link := l }] else []) ++
      (if k.retrying ∧ k.lastRetry + 2_200 ≤ s.now then [Turn.event .retryRepeat { link := l }] else [])) ++
    (s.children.map fun l => Turn.event .timeExchange { link := l }) ++
    ((s.inbound.map (·.1)).eraseDups.map fun l => Turn.ordinary (.request l))

/-- The turns of the thermal controller, every 10 µs, and of the trips (01 R26). -/
def thermalTurns (s : State) : List Turn :=
  (if s.thermalAt + 11_000 ≤ s.now then [Turn.event .thermalController {}] else []) ++
    (if s.tripping.isSome then [Turn.event .thermalTrip {}] else []) ++
    (if s.inputLow then [Turn.event .powerFault {}] else [])

/-- The turns of a cycle: bank units, cores, then the device (DESIGN CHOICE, log entry 1). What comes from outside, and the migration
engine's choice of pages, is in no cycle by itself. -/
def cycleTurns (s : State) : List Turn :=
  (s.units.flatMap fun u => Turn.row u.chan :: bankEvents.map fun i => Turn.event i { n := u.chan }) ++
    (((List.range Config.maxCores).filter (!s.restingCore ·)).flatMap s.coreTurns) ++
    [.late, .event .waveStart {}] ++
    (s.strands.filterMap fun t => if t.st = .parked then some (.event .parkPoll { age := t.age }) else none) ++
    (s.exchanges.map fun x => .event .exchangeSwap { sess := x.sess }) ++
    [.event .launchEntry {}] ++
    (s.launches.map fun l => .event .launchComplete { n := l.id }) ++
    [.event .autoCheckpoint {}, .event .foldComplete {}, .event .completionPost { port := 1 },
     .event .completionPost { port := 2 }, .event .cycControlWrite {}] ++
    s.linkTurns ++ s.thermalTurns ++
    (if s.now % 2 ^ 20 = 0 then [.event .heatDecay {}] else [])

/-- By how much CYC advances in this cycle (01 R28): 1, but 0 or 2 in a correction cycle, 1,024 cycles at least after the last. -/
def cycStep (s : State) : Nat := if s.corrWait ≠ 0 ∨ s.correction = 0 then 1 else if 0 < s.correction then 0 else 2

/-- A cycle passes: the count of cycles, CYC, the buckets, the lost cycles of contexts, switches and retries. -/
def tick (s : State) : State :=
  let n := s.cycStep
  let cyc := s.cyc + BitVec.ofNat 64 n
  let ctx (t : Ctx) : Ctx := { t with stall := t.stall - 1 }
  let core (k : Core) : Core :=
    let k := heatCore s.now k
    { k with
      heatAt := s.now + 1, switching := k.switching - 1, retrying := if k.stopped then k.retrying else k.retrying - 1
      ctxs := k.ctxs.mapFinIdx fun _ t _ => ctx t }
  { s with
    now := s.now + 1, cyc := cyc, cores := s.cores.mapFinIdx fun _ k _ => core k
    correction := s.correction - (1 - (n : Int)), corrWait := if n = 1 then s.corrWait - 1 else 1023 }

/-- A cycle of the device: the arbiter's messages, its turns, and then time. -/
def cycle (s : State) : Out :=
  match s.arbitrate with
  | .next y => match y.doTurns y.cycleTurns with
    | .next z => .next z.queueBanks.tick
    | o => o
  | o => o

/-! ## A program put in place -/

/-- The leaf of a 512 MiB page at HBM4 address 0 with W, X and P (04 R96). -/
def openLeaf : Nat := 1 + 2 + 4 + 8 + 32

/-- The bundle that holds one word in the first slot of its class; an EXT has the LI of zero to g0 as its partner. -/
def loneBundle (k : SlotClass) (i : Instr) (w : Word) : BitVec 256 :=
  let at1 (n : Nat) (w : Word) : BitVec 256 := w.setWidth 256 <<< (32 * n)
  match k, i with
  | .s, .ext _ => at1 0 w ||| at1 1 ((encodeWord (.li 0 0 0 0)).getD 0)
  | .s, _ => at1 0 w
  | .v, _ => at1 2 w
  | .x, _ => at1 4 w
  | .m, _ => at1 5 w
  | _, _ => at1 6 w

/-- A SYSTEM session with a table of one page, and its strand RESIDENT in context 0 of core 0 at the page's start
(DESIGN CHOICE, log entry 18). -/
def place (s : State) : State :=
  let t := Config.tableArea
  let s := (s.writeNat t 8 (Pte.table (t + 65536))).writeNat (t + 65536) 8 openLeaf
  let ses : Session := { id := 1, system := true, table := t }
  let str : Strand := { age := s.ageCounter, launch := 0, sess := 1, index := 0, core := 0, prio := 0, st := .resident }
  let s := { s with sessions := ses :: s.sessions.filter (·.id != 1), strands := s.strands ++ [str], ageCounter := s.ageCounter + 1 }
  (s.modCore 0 fun k => { k with running := 0, switching := 0 }).setCtx 0 0 { st := .issuable, strand := some str.age }

/-- A bundle at the PC of a placed strand; the next turn issues it. -/
def placeBundle (s : State) (w : BitVec 256) : State :=
  { s.place.writeNat 0 32 w.toNat with agenda := [.issue 0] }

/-- A microword as a routine that the unit of core 0 runs. -/
def placeMicro (s : State) (w : DWord) : State :=
  let s := s.place.writeNat (storeHome 0 0) 8 w.toNat
  let e : MEntry := { id := s.seq, cmd := .mcall 0 0 0 0, len := 1 }
  { s.setRunning 0 (some { ctx := 0, stream := 0, entry := e }) with seq := s.seq + 1, agenda := [.micro 0] }

/-- A word as the routine of a binding on channel 0. -/
def placeBank (s : State) (w : Word) : State :=
  let s := s.place.writeNat (bankStoreHome 0 0) 4 w.toNat
  let u : BankUnit := { chan := 0, slots := [(0, { age := s.ageCounter - 1, sess := 1, len := 1 })], cur := some 0 }
  { s with units := u :: s.units.filter (·.chan != 0), agenda := [.bank 0] }

end Sys2Proof.Machine.State
end

