-- ==== Sys2Proof/Machine/Step.lean ====
section
/-! DEFINITION. The step: the next turn of the agenda, or a cycle of the device; and a lone instruction put where the
next step runs it. -/

namespace Sys2Proof.Machine

/-- One step (DESIGN CHOICE, log entry 1): the agent that the agenda names moves; with none named, the device lives through a cycle. -/
def step (s : State) : Host.Outcome State Fault Refusal :=
  match s.agenda with
  | t :: r => State.doTurns { s with agenda := r } [t]
  | [] => s.cycle

/-- An instruction's bits stored where the next step takes its instruction (DESIGN CHOICE, log entry 18): a slot word in a bundle, a
microword in a routine, a bank-unit word in a binding's routine. -/
def State.withFetchWord (s : State) (nbits w : Nat) : State :=
  if nbits = 64 then s.placeMicro (BitVec.ofNat 64 w)
  else
    let w := BitVec.ofNat 32 w
    match decodeAny w with
    | some (.bank, _) => s.placeBank w
    | some (k, i) => s.placeBundle (State.loneBundle k i w)
    | none => s.placeBundle (w.setWidth 256)

end Sys2Proof.Machine
end

