-- ==== Sys2Proof/Safety.lean ====
section
/-! DEFINITION. What counts as a safe run: no step stops, and the invariants of the machine's data. -/

namespace Sys2Proof.Machine

/-- The step goes on. -/
def Goes (s : State) : Prop := ∃ t, step s = .next t

/-- A striped area has its canonical form: its data, and its parity (03 R77). -/
def Striped.Wf (x : Striped) : Prop := Memory.wf x.data = true ∧ Memory.wf x.parity = true

/-- Memory has its canonical form, and so have the areas of the safe region and the memories that its records keep. -/
def MemOk (s : State) : Prop :=
  Memory.wf s.mem = true ∧ s.baseArea.Wf ∧ s.deltaArea.Wf ∧ s.logArea.Wf ∧
    (∀ b, s.base = some b → Memory.wf b.mem = true) ∧ ∀ b, s.delta = some b → Memory.wf b.mem = true

/-- The context in hand exists. -/
def State.InHand (s : State) : Prop := s.curCore < 128 ∧ s.curCtx < 4

/-- A byte of memory, by home address. -/
def State.byteAt (s : State) (a : Nat) : Byte := memGet s.mem a

end Sys2Proof.Machine
end

