-- ==== Sys2Proof/Certificates/Slice0/Obligations.lean ====
section
/-! DEFINITION. The statements about this machine, for the provers: what the spec's numbered rules say an instruction,
an event or the whole machine does. Each is a proposition of its own; OBLIGATIONS.json names the rules. -/

namespace Sys2Proof.Machine

/-! ## How a statement names a result -/

/-- Instruction `i` completes with one pending result, `x` for general register `d` after `lat`, and changes nothing
else. -/
def GivesG (i : Instr) (s : State) (d : BitVec 6) (x : DWord) (lat : Nat) (flags : BitVec 5 := 0) : Prop :=
  exec i s = .next (s.push { dest := .g d.toNat, data := x.setWidth 2048, due := s.dueIn lat, flags := flags })

/-- The same for predicate `d`. -/
def GivesK (i : Instr) (s : State) (d : BitVec 3) (x : Bool) (lat : Nat) (flags : BitVec 5 := 0) : Prop :=
  exec i s = .next (s.push { dest := .k d.toNat, data := if x then 1 else 0, due := s.dueIn lat, flags := flags })

/-- The same for lane predicate `d`, on the bits that `q` enables. -/
def GivesQ (i : Instr) (s : State) (d : BitVec 3) (x q : QReg) (lat : Nat) (flags : BitVec 5 := 0) : Prop :=
  exec i s = .next (s.push { dest := .q d.toNat, data := x.setWidth 2048, mask := q, byLane := true, due := s.dueIn lat,
                             flags := flags })

/-- The same for line `n` of the context's window, on the bytes that `q` enables. -/
def GivesLine (i : Instr) (s : State) (n : Nat) (x : Line) (q : QReg) (lat : Nat) (flags : BitVec 5 := 0) : Prop :=
  exec i s = .next (s.push { dest := .line n, data := x, mask := q, byLane := true, due := s.dueIn lat, flags := flags })

/-- The same for another register of the context. -/
def GivesR (i : Instr) (s : State) (d : Dest) (x : DWord) (lat : Nat) : Prop :=
  exec i s = .next (s.push { dest := d, data := x.setWidth 2048, due := s.dueIn lat })

/-- Element `j` of `w` bits of a line. -/
def elemOf (w : Nat) (x : Line) (j : Nat) : Nat := x.toNat / 2 ^ (w * j) % 2 ^ w

/-- Byte `j` of a line. -/
def byteOf (x : Line) (j : Nat) : Byte := x.extractLsb' (8 * j) 8

/-- Every register of a context and every system register stands as before. -/
def SameRegs (s t : State) : Prop := ∀ c x, (t.ctx c x).regs = (s.ctx c x).regs ∧ (t.ctx c x).sys = (s.ctx c x).sys

/-- Every byte of memory reads as before. -/
def SameBytes (s t : State) : Prop := ∀ a, t.byteAt a = s.byteAt a

/-- The S format's word with three 6-bit register fields and the 3-bit field (15 R310). -/
def sWord (op : BitVec 7) (pn : BitVec 1) (pk : BitVec 3) (d a b : BitVec 6) (f : BitVec 3) : Word :=
  op ++ pn ++ pk ++ d ++ a ++ b ++ f

end Sys2Proof.Machine

open Sys2Proof Sys2Proof.Machine

/-! ## Scalar instructions -/

/-- 16 R331: the register forms, their words and their results, in latency 1; a shift amount is the whole register. -/
def Sys2Proof.Machine.ScalarRegisterForms : Prop :=
  ∀ (s : State) (pn : BitVec 1) (pk : BitVec 3) (d a b : BitVec 6), s.cur.pred pn pk = true →
    let x := s.cur.rg a
    let y := s.cur.rg b
    GivesG (.add pn pk d a b) s d (x + y) 1 ∧ GivesG (.sub pn pk d a b) s d (x - y) 1 ∧
    GivesG (.and pn pk d a b) s d (x &&& y) 1 ∧ GivesG (.or pn pk d a b) s d (x ||| y) 1 ∧
    GivesG (.xor pn pk d a b) s d (x ^^^ y) 1 ∧ GivesG (.andn pn pk d a b) s d (x &&& ~~~y) 1 ∧
    GivesG (.shl pn pk d a b) s d (if 64 ≤ y.toNat then 0 else BitVec.ofNat 64 (x.toNat * 2 ^ y.toNat)) 1 ∧
    GivesG (.shr pn pk d a b) s d (if 64 ≤ y.toNat then 0 else BitVec.ofNat 64 (x.toNat / 2 ^ y.toNat)) 1 ∧
    GivesG (.sar pn pk d a b) s d
      (if 64 ≤ y.toNat then (if x.toInt < 0 then BitVec.allOnes 64 else 0)
       else BitVec.ofInt 64 (x.toInt / (2 ^ y.toNat : Nat))) 1 ∧
    GivesG (.rotl pn pk d a b) s d (x.rotateLeft (y.toNat % 64)) 1 ∧
    GivesG (.min pn pk d a b) s d (if x.toInt < y.toInt then x else y) 1 ∧
    GivesG (.max pn pk d a b) s d (if x.toInt < y.toInt then y else x) 1 ∧
    GivesG (.minu pn pk d a b) s d (if x.toNat < y.toNat then x else y) 1 ∧
    GivesG (.maxu pn pk d a b) s d (if x.toNat < y.toNat then y else x) 1 ∧
    [encodeWord (.add pn pk d a b), encodeWord (.sub pn pk d a b), encodeWord (.and pn pk d a b),
     encodeWord (.or pn pk d a b), encodeWord (.xor pn pk d a b), encodeWord (.andn pn pk d a b),
     encodeWord (.shl pn pk d a b), encodeWord (.shr pn pk d a b), encodeWord (.sar pn pk d a b),
     encodeWord (.rotl pn pk d a b), encodeWord (.min pn pk d a b), encodeWord (.max pn pk d a b),
     encodeWord (.minu pn pk d a b), encodeWord (.maxu pn pk d a b)] =
    [0x01, 0x02, 0x03, 0x04, 0x05, 0x06, 0x08, 0x09, 0x0A, 0x0B, 0x0C, 0x0D, 0x0E, 0x0F].map fun op =>
      some (sWord op pn pk d a b 0)

/-- 16 R333: the multiply and divide forms, their words and their results, corners included. -/
def Obligations.ScalarMultiplyDivide : Prop :=
  ∀ (s : State) (pn : BitVec 1) (pk : BitVec 3) (d a b : BitVec 6), s.cur.pred pn pk = true →
    let x := s.cur.rg a
    let y := s.cur.rg b
    GivesG (.mul pn pk d a b) s d (BitVec.ofInt 64 (x.toInt * y.toInt)) 3 ∧
    GivesG (.mulh pn pk d a b) s d (BitVec.ofInt 64 (x.toInt * y.toInt / 2 ^ 64)) 3 ∧
    GivesG (.mulhu pn pk d a b) s d (BitVec.ofNat 64 (x.toNat * y.toNat / 2 ^ 64)) 3 ∧
    GivesG (.div pn pk d a b) s d
      (if y = 0 then BitVec.allOnes 64 else if x.toInt = -(2 ^ 63) ∧ y.toInt = -1 then x
       else BitVec.ofInt 64 (x.toInt.tdiv y.toInt)) 20 ∧
    GivesG (.divu pn pk d a b) s d (if y = 0 then BitVec.allOnes 64 else BitVec.ofNat 64 (x.toNat / y.toNat)) 20 ∧
    GivesG (.rem pn pk d a b) s d
      (if y = 0 then x else if x.toInt = -(2 ^ 63) ∧ y.toInt = -1 then 0
       else BitVec.ofInt 64 (x.toInt - y.toInt * x.toInt.tdiv y.toInt)) 20 ∧
    GivesG (.remu pn pk d a b) s d (if y = 0 then x else BitVec.ofNat 64 (x.toNat % y.toNat)) 20 ∧
    [encodeWord (.mul pn pk d a b), encodeWord (.mulh pn pk d a b), encodeWord (.mulhu pn pk d a b),
     encodeWord (.div pn pk d a b), encodeWord (.divu pn pk d a b), encodeWord (.rem pn pk d a b),
     encodeWord (.remu pn pk d a b)] =
    [0x10, 0x11, 0x12, 0x13, 0x14, 0x15, 0x16].map fun op => some (sWord op pn pk d a b 0)

/-- 16 R334: the unary bit forms, each result told by its bits. -/
def Sys2Proof.Machine.ScalarBitForms : Prop :=
  ∀ (s : State) (pn : BitVec 1) (pk : BitVec 3) (d a : BitVec 6), s.cur.pred pn pk = true →
    let x := s.cur.rg a
    (∃ n : Nat, GivesG (.clz pn pk d a) s d (BitVec.ofNat 64 n) 1 ∧ n ≤ 64 ∧
      (∀ j, 64 - n ≤ j → x.getLsbD j = false) ∧ (n < 64 → x.getLsbD (63 - n) = true)) ∧
    (∃ n : Nat, GivesG (.ctz pn pk d a) s d (BitVec.ofNat 64 n) 1 ∧ n ≤ 64 ∧
      (∀ j, j < n → x.getLsbD j = false) ∧ (n < 64 → x.getLsbD n = true)) ∧
    GivesG (.popc pn pk d a) s d (BitVec.ofNat 64 ((List.range 64).filter (x.getLsbD ·)).length) 1 ∧
    (∃ r : DWord, GivesG (.brev pn pk d a) s d r 1 ∧ ∀ i, i < 64 → r.getLsbD i = x.getLsbD (63 - i)) ∧
    (∃ r : DWord, GivesG (.bswap pn pk d a) s d r 1 ∧
      ∀ i, i < 8 → r.extractLsb' (8 * i) 8 = x.extractLsb' (8 * (7 - i)) 8) ∧
    [encodeWord (.clz pn pk d a), encodeWord (.ctz pn pk d a), encodeWord (.popc pn pk d a),
     encodeWord (.brev pn pk d a), encodeWord (.bswap pn pk d a)] =
    [0x18, 0x19, 0x1A, 0x1B, 0x1C].map fun op => some (sWord op pn pk d a 0 0)

/-- 16 R335: EXTF and INSF, with the field's lowest bit `p` and its width `w` cut off at bit 63. -/
def Sys2Proof.Machine.ScalarFieldForms : Prop :=
  ∀ (s : State) (pn : BitVec 1) (pk : BitVec 3) (d a b : BitVec 6), s.cur.pred pn pk = true →
    let x := s.cur.rg a
    let y := s.cur.rg b
    let p := (y.extractLsb' 0 6).toNat
    let w := min (y.extractLsb' 8 7).toNat (64 - p)
    (∃ r : DWord, GivesG (.extf pn pk d a b) s d r 1 ∧
      ∀ i, i < 64 → r.getLsbD i =
        (if i < w then x.getLsbD (p + i) else y.getLsbD 15 && decide (0 < w) && x.getLsbD (p + (w - 1)))) ∧
    (∃ r : DWord, GivesG (.insf pn pk d a b) s d r 1 ∧
      ∀ i, i < 64 → r.getLsbD i =
        (if p ≤ i ∧ i < p + min w 32 then y.getLsbD (32 + (i - p)) else x.getLsbD i)) ∧
    encodeWord (.extf pn pk d a b) = some (sWord 0x1D pn pk d a b 0) ∧
    encodeWord (.insf pn pk d a b) = some (sWord 0x1E pn pk d a b 0)

/-- 16 R332, R336, R337, 15 R312: the immediate forms, with and without EXT, SEL, LI, LIH, NOP and EXT. -/
def Sys2Proof.Machine.ScalarImmediateForms : Prop :=
  ∀ (s : State) (pn : BitVec 1) (pk : BitVec 3) (d a b : BitVec 6) (i : BitVec 9) (j : BitVec 15) (f : BitVec 3),
    s.cur.pred pn pk = true →
    let x := s.cur.rg a
    let e : DWord := match s.ext with | none => i.signExtend 64 | some h => (h ++ i).signExtend 64
    let l : DWord := match s.ext with | none => j.signExtend 64 | some h => (h ++ j).signExtend 64
    GivesG (.addi pn pk d a i) s d (x + e) 1 ∧ GivesG (.andi pn pk d a i) s d (x &&& e) 1 ∧
    GivesG (.ori pn pk d a i) s d (x ||| e) 1 ∧ GivesG (.xori pn pk d a i) s d (x ^^^ e) 1 ∧
    GivesG (.shli pn pk d a i) s d (if 64 ≤ i.toNat then 0 else BitVec.ofNat 64 (x.toNat * 2 ^ i.toNat)) 1 ∧
    GivesG (.shri pn pk d a i) s d (if 64 ≤ i.toNat then 0 else BitVec.ofNat 64 (x.toNat / 2 ^ i.toNat)) 1 ∧
    GivesG (.sari pn pk d a i) s d
      (if 64 ≤ i.toNat then (if x.toInt < 0 then BitVec.allOnes 64 else 0)
       else BitVec.ofInt 64 (x.toInt / (2 ^ i.toNat : Nat))) 1 ∧
    GivesG (.sel pn pk d a b f) s d (if s.cur.rk f then x else s.cur.rg b) 1 ∧
    GivesG (.sel pn pk d a b 0) s d x 1 ∧
    GivesG (.li pn pk d j) s d l 1 ∧
    GivesG (.lih pn pk d j) s d (BitVec.ofInt 64 (l.toInt * 2 ^ 24)) 1 ∧
    exec .nop s = .next s ∧ ∀ y, exec (.ext y) s = .next s

/-- 16 R338, R339: CMP and CMPI by condition code, and KOP by function. -/
def Sys2Proof.Machine.ScalarCompareForms : Prop :=
  ∀ (s : State) (pn : BitVec 1) (pk d m n : BitVec 3) (a b : BitVec 6) (i : BitVec 9), s.cur.pred pn pk = true →
    let x := s.cur.rg a
    let u := s.cur.rk m
    let v := s.cur.rk n
    let e : DWord := match s.ext with | none => i.signExtend 64 | some h => (h ++ i).signExtend 64
    (∀ y, y = s.cur.rg b →
      GivesK (.cmp pn pk d 0 a b) s d (decide (x = y)) 1 ∧ GivesK (.cmp pn pk d 1 a b) s d (decide (x ≠ y)) 1 ∧
      GivesK (.cmp pn pk d 2 a b) s d (decide (x.toInt < y.toInt)) 1 ∧
      GivesK (.cmp pn pk d 3 a b) s d (decide (y.toInt ≤ x.toInt)) 1 ∧
      GivesK (.cmp pn pk d 4 a b) s d (decide (x.toNat < y.toNat)) 1 ∧
      GivesK (.cmp pn pk d 5 a b) s d (decide (y.toNat ≤ x.toNat)) 1 ∧
      GivesK (.cmp pn pk d 6 a b) s d (decide (x &&& y ≠ 0)) 1 ∧
      GivesK (.cmp pn pk d 7 a b) s d (decide (x &&& y = 0)) 1) ∧
    GivesK (.cmpi pn pk d 0 a i) s d (decide (x = e)) 1 ∧ GivesK (.cmpi pn pk d 1 a i) s d (decide (x ≠ e)) 1 ∧
    GivesK (.cmpi pn pk d 2 a i) s d (decide (x.toInt < e.toInt)) 1 ∧
    GivesK (.cmpi pn pk d 3 a i) s d (decide (e.toInt ≤ x.toInt)) 1 ∧
    GivesK (.cmpi pn pk d 4 a i) s d (decide (x.toNat < e.toNat)) 1 ∧
    GivesK (.cmpi pn pk d 5 a i) s d (decide (e.toNat ≤ x.toNat)) 1 ∧
    GivesK (.cmpi pn pk d 6 a i) s d (decide (x &&& e ≠ 0)) 1 ∧
    GivesK (.cmpi pn pk d 7 a i) s d (decide (x &&& e = 0)) 1 ∧
    GivesK (.kop pn pk d m n 0) s d (u && v) 1 ∧ GivesK (.kop pn pk d m n 1) s d (u || v) 1 ∧
    GivesK (.kop pn pk d m n 2) s d (u != v) 1 ∧ GivesK (.kop pn pk d m n 3) s d (u && !v) 1 ∧
    GivesK (.kop pn pk d m n 4) s d (u || !v) 1 ∧ GivesK (.kop pn pk d m n 5) s d (u == v) 1 ∧
    GivesK (.kop pn pk d m n 6) s d u 1 ∧ GivesK (.kop pn pk d m n 7) s d (!u) 1 ∧
    GivesK (.kop pn pk d 0 n 7) s d false 1 ∧
    (∀ (c : Ctx) (x : Line), (c.landOne { dest := .k 0, data := x }).regs = c.regs) ∧
    (∀ c : BitVec 3, encodeWord (.cmp pn pk d c a b) = some (0x2A#7 ++ pn ++ pk ++ d ++ c ++ a ++ b ++ 0#3 : Word) ∧
      encodeWord (.cmpi pn pk d c a i) = some (0x2B#7 ++ pn ++ pk ++ d ++ c ++ a ++ i : Word) ∧
      encodeWord (.kop pn pk d m n c) = some (sWord 0x2C pn pk (d.setWidth 6) (m.setWidth 6) (n.setWidth 6) c))

/-- Scalar arithmetic, logic, shift, immediate, select and compare forms: results and latencies. -/
def Obligations.ScalarForms : Prop :=
  ScalarRegisterForms ∧ ScalarImmediateForms ∧ ScalarCompareForms

/-- CLZ, CTZ, POPC, BREV, BSWAP, EXTF and INSF: each result by its bits. -/
def Obligations.ScalarBitsAndFields : Prop :=
  ScalarBitForms ∧ ScalarFieldForms

/-- 16 R341 to R344: the scalar floating-point forms, in both formats: one rounding, one draw under STO, the flags with
the result. -/
def Sys2Proof.Machine.ScalarFloatForms : Prop :=
  ∀ (s : State) (pn : BitVec 1) (pk : BitVec 3) (d a b : BitVec 6) (f : BitVec 3), s.cur.pred pn pk = true →
    let md := s.cur.scalarMode f
    let draw := (s.drawsFor md 1).1.getD 0 0
    let rd (F : FFmt) (n : BitVec 6) : FVal := F.read s.cur.ftz (s.cur.rg n).toNat
    let gives (i : Instr) (F : FFmt) (r : FRes) : Prop :=
      exec i s = .next ((s.drawsFor md 1).2.putG d (BitVec.ofNat 64 (r.put F md draw s.cur.ftz).1) 4
        (r.put F md draw s.cur.ftz).2)
    gives (.faddF32 pn pk d a b f) f32F (faddV md (rd f32F a) (rd f32F b)) ∧
    gives (.faddF64 pn pk d a b f) f64F (faddV md (rd f64F a) (rd f64F b)) ∧
    gives (.fsubF32 pn pk d a b f) f32F (faddV md (rd f32F a) (rd f32F b).neg) ∧
    gives (.fsubF64 pn pk d a b f) f64F (faddV md (rd f64F a) (rd f64F b).neg) ∧
    gives (.fmulF32 pn pk d a b f) f32F (fmulV (rd f32F a) (rd f32F b)) ∧
    gives (.fmulF64 pn pk d a b f) f64F (fmulV (rd f64F a) (rd f64F b)) ∧
    gives (.ffmaF32 pn pk d a b f) f32F (ffmaV md (rd f32F a) (rd f32F b) (rd f32F d)) ∧
    gives (.ffmaF64 pn pk d a b f) f64F (ffmaV md (rd f64F a) (rd f64F b) (rd f64F d)) ∧
    (md ≠ .sto → (s.drawsFor md 1).2 = s) ∧
    (∀ x y : BitVec 3, fcvtPair x y = true →
      let r := convert (fcvtType y) (fcvtType x) md draw s.cur.ftz ((s.cur.rg a).toNat % 2 ^ (fcvtType y).width)
      exec (.fcvt pn pk d a x y f) s = .next ((s.drawsFor md 1).2.putG d
        (if x = 2 then (BitVec.ofNat 32 r.1).signExtend 64 else BitVec.ofNat 64 r.1) 4 r.2))

/-- 16 R342, R343: FMIN, FMAX and FCMP by the order of their operands as read, with NaN operands and INVALID. -/
def Sys2Proof.Machine.ScalarFloatOrder : Prop :=
  ∀ (s : State) (pn : BitVec 1) (pk k : BitVec 3) (d a b : BitVec 6), s.cur.pred pn pk = true →
    ∀ (F : FFmt) (least most : Instr) (cmp : BitVec 3 → Instr),
    (F = f32F ∧ least = .fminF32 pn pk d a b ∧ most = .fmaxF32 pn pk d a b ∧ (cmp = fun c => .fcmpF32 pn pk k c a b)) ∨
    (F = f64F ∧ least = .fminF64 pn pk d a b ∧ most = .fmaxF64 pn pk d a b ∧ (cmp = fun c => .fcmpF64 pn pk k c a b)) →
    let x := (s.cur.rg a).toNat % 2 ^ F.w
    let y := (s.cur.rg b).toNat % 2 ^ F.w
    let u := F.decode x
    let v := F.decode y
    let o := fordV (F.read s.cur.ftz x) (F.read s.cur.ftz y)
    let px := F.flush s.cur.ftz x
    let py := F.flush s.cur.ftz y
    let sig : BitVec 5 := if u.isSnan = true ∨ v.isSnan = true then fInvalid else 0
    let any : BitVec 5 := if u.isNan = true ∨ v.isNan = true then fInvalid else 0
    (∃ r, GivesG least s d (BitVec.ofNat 64 r) 2 sig ∧
      (u.isNan = true → v.isNan = true → r = F.nan) ∧
      (u.isNan = true → v.isNan = false → r = py) ∧ (u.isNan = false → v.isNan = true → r = px) ∧
      (u.isNan = false → v.isNan = false → (o = .lt → r = px) ∧ (o = .gt → r = py) ∧
        (o = .eq → r = if u.isNeg then px else py))) ∧
    (∃ r, GivesG most s d (BitVec.ofNat 64 r) 2 sig ∧
      (u.isNan = true → v.isNan = true → r = F.nan) ∧
      (u.isNan = true → v.isNan = false → r = py) ∧ (u.isNan = false → v.isNan = true → r = px) ∧
      (u.isNan = false → v.isNan = false → (o = .lt → r = py) ∧ (o = .gt → r = px) ∧
        (o = .eq → r = if u.isNeg then py else px))) ∧
    GivesK (cmp 0) s k (decide (o = .eq)) 2 sig ∧ GivesK (cmp 1) s k (decide (o ≠ .eq)) 2 sig ∧
    GivesK (cmp 2) s k (decide (o = .lt)) 2 any ∧ GivesK (cmp 3) s k (decide (o = .lt ∨ o = .eq)) 2 any ∧
    GivesK (cmp 4) s k (decide (o = .un)) 2 sig ∧ GivesK (cmp 5) s k (decide (o ≠ .un)) 2 sig

/-- 07 R165, R166: a finite value that a format can hold is rounded to its own encoding, in every mode, with no flag. -/
def Sys2Proof.Machine.RoundingKeepsRepresentable : Prop :=
  ∀ F ∈ [f64F, f32F, bf16F, f16F, e5m2F, e4m3F], ∀ (x : Nat) (md : RMode) (draw : Nat) (n : Bool) (m : Nat) (e : Int),
    x < 2 ^ F.w → F.decode x = .fin n m e → roundTo F md draw false n m e = (x, 0)

/-- 07 R160, 16 R341: a NaN in any operand, the invalid operations, the products and sums of infinities, and the sign of an
exact zero; a NaN result is the canonical one. -/
def Sys2Proof.Machine.FloatSpecialOperands : Prop :=
  ∀ (md : RMode) (v w : FVal) (p q : Bool) (m : Nat) (e g : Int),
    faddV md (.nan p) v = .nan (p || v.isSnan) ∧ faddV md v (.nan p) = .nan (p || v.isSnan) ∧
    fmulV (.nan p) v = .nan (p || v.isSnan) ∧ fmulV v (.nan p) = .nan (p || v.isSnan) ∧
    ffmaV md (.nan p) v w = .nan (p || v.isSnan || w.isSnan) ∧ ffmaV md v (.nan p) w = .nan (p || v.isSnan || w.isSnan) ∧
    (fmulV v w = .nan true → ffmaV md v w (.nan p) = .nan true) ∧
    (fmulV v w ≠ .nan true → ffmaV md v w (.nan p) = .nan p) ∧
    faddV md (.inf p) (.inf q) = (if p = q then .inf p else .nan true) ∧
    faddV md (.inf p) (.fin q m e) = .inf p ∧ faddV md (.fin q m e) (.inf p) = .inf p ∧
    fmulV (.inf p) (.fin q 0 e) = .nan true ∧ fmulV (.fin q 0 e) (.inf p) = .nan true ∧
    fmulV (.inf p) (.inf q) = .inf (p != q) ∧
    (m ≠ 0 → fmulV (.inf p) (.fin q m e) = .inf (p != q) ∧ fmulV (.fin q m e) (.inf p) = .inf (p != q)) ∧
    (fmulV v w = .inf p → ffmaV md v w (.inf (!p)) = .nan true ∧ ffmaV md v w (.inf p) = .inf p) ∧
    ffmaV md (.inf p) (.fin q 0 e) w = .nan true ∧ ffmaV md (.fin q 0 e) (.inf p) w = .nan true ∧
    (∀ (F : FFmt) (draw : Nat) (z : Bool), (FRes.nan p).put F md draw z = (F.nan, if p then fInvalid else 0)) ∧
    (∃ h, faddV md (.fin p m e) (.fin (!p) m e) = .fin (decide (md = .rdn)) 0 h) ∧
    (∃ h, faddV md (.fin p 0 e) (.fin p 0 g) = .fin p 0 h)

/-! ## Control transfer, strand life, crews, register moves -/

/-- 16 R345, R346, 06 R145, R148: a taken B, CALL, CALLR or JR goes to its target, costs 2 cycles, and closes the active
levels whose body does not hold the target; the link register is the next bundle's address. Three cycles pass from the
issue to the next one, the cycle of issue included. -/
def Sys2Proof.Machine.ControlTransfers : Prop :=
  ∀ (s : State) (pn : BitVec 1) (pk : BitVec 3) (d a : BitVec 6) (i : BitVec 21), s.cur.pred pn pk = true →
    let off : DWord := match s.ext with | none => i.signExtend 64 | some h => (h ++ i).signExtend 64
    let to' (p : DWord) (z : State) : State := z.modCur fun c => { c with
      nextPc := some p, stall := 3
      loops := if c.hnd then c.loops else c.loops.filter fun l => decide (l.start ≤ p) && decide (p ≤ l.last) }
    let link (n : BitVec 6) : State := s.putG n (s.cur.pc + 32) 1
    exec (.b pn pk i) s = .next (to' (s.cur.pc + 32 * off) s) ∧
    exec (.call pn pk i) s = .next (to' (s.cur.pc + 32 * off) (link 63)) ∧
    (s.cur.rg a % 32 = 0 →
      exec (.callr pn pk d a) s = .next (to' (s.cur.rg a) (link d)) ∧
      exec (.jr pn pk a) s = .next (to' (s.cur.rg a) s)) ∧
    (s.cur.rg a % 32 ≠ 0 →
      exec (.callr pn pk d a) s = .next (s.trapWith 0x0C 0 (s.cur.rg a)) ∧
      exec (.jr pn pk a) s = .next (s.trapWith 0x0C 0 (s.cur.rg a)))

/-- 06 R147, 16 R347: LOOP and LOOPI open a level over the body that follows, write its count to the next loop counter,
skip a body of count 0, and raise a loop fault where the body or the depth does not allow it. -/
def Sys2Proof.Machine.LoopForms : Prop :=
  ∀ (s : State) (pn : BitVec 1) (pk : BitVec 3) (l a : BitVec 6) (i : BitVec 15) (op : Instr) (n : BitVec 32),
    s.cur.pred pn pk = true →
    (op = .loop pn pk l a ∧ n = (s.cur.rg a).setWidth 32) ∨
      (op = .loopi pn pk l i ∧
        n = (match s.ext with | none => i.setWidth 32 | some h => (h ++ i).setWidth 32)) →
    let lo := s.cur.pc + 32
    let hi := s.cur.pc + 32 * (BitVec.ofNat 64 l.toNat + 1)
    let d := s.cur.loops.length
    let fits : Prop := s.cur.hnd = false ∧ d < 4 ∧ ∀ v ∈ s.cur.loops, v.start ≤ lo ∧ hi ≤ v.last
    let counted := s.push { dest := .lc d, data := n.setWidth 2048, due := s.dueIn 1 }
    (fits → n ≠ 0 → exec op s = .next (counted.modCur fun c => { c with loops := c.loops ++ [{ depth := d, start := lo, last := hi }] })) ∧
    (fits → n = 0 → exec op s = .next (counted.modCur fun c => { c with nextPc := some (hi + 32) })) ∧
    (¬ fits → exec op s = .next (s.trap 0x10))

/-- 06 R150, R154, 16 R348: BRK and TRAP, with a handler and nothing outstanding, enter it: EPC, CAUSE, EVA, the region
saved, HND set, PC at TVEC, two cycles lost; no byte of memory and no register is written. While a result or an access
is outstanding the entry waits for it, and then lands what is left and enters (TRAP_ENTRY). -/
def Sys2Proof.Machine.SoftwareTrapsEnterTheHandler : Prop :=
  ∀ (s : State) (pn : BitVec 1) (pk : BitVec 3) (op : Instr) (code : Nat), s.InHand → s.cur.pred pn pk = true →
    (op = .brk pn pk ∧ code = 0x12) ∨ (op = .trap pn pk ∧ code = 0x13) →
    let cause : DWord := BitVec.ofNat 64 (code + s.curSlot * 256)
    let quiet : Prop := s.cur.pend = [] ∧ ∀ x ∈ s.cur.accesses, x.posted = true
    (quiet → s.cur.sys.tvec ≠ 0 → s.cur.hnd = false →
      ∃ t, exec op s = .next t ∧
        t.cur.sys.epc = s.cur.pc ∧ t.cur.sys.cause = cause ∧ t.cur.sys.eva = 0 ∧
        t.cur.fixed = false ∧ t.cur.hnd = true ∧ t.cur.pfixed = s.cur.fixed ∧
        t.cur.sys.status.getLsbD 3 = s.cur.sys.status.getLsbD 3 ∧
        t.cur.sys.status.getLsbD 4 = s.cur.sys.status.getLsbD 4 ∧
        t.cur.pc = s.cur.sys.tvec ∧ t.cur.stall = 3 ∧ t.cur.regs = s.cur.regs ∧
        t.cur.loops = s.cur.loops ∧ SameBytes s t) ∧
    (¬ quiet → ∃ t, exec op s = .next t ∧ t.cur.wait = .trap cause 0 ∧ t.cur.out = .trapped ∧
      t.cur.regs = s.cur.regs ∧ t.cur.sys = s.cur.sys ∧ t.cur.pc = s.cur.pc ∧ t.cur.pend = s.cur.pend ∧
      t.cur.accesses = s.cur.accesses ∧ SameBytes s t)

/-- 06 R150: a trap with no handler, or in one, kills the session, with every strand and launch of it. -/
def Sys2Proof.Machine.TrapWithoutHandlerKillsSession : Prop :=
  ∀ (s : State) (t : Strand) (code sub : Nat) (eva : DWord), s.InHand → s.curStrand = some t →
    (∀ x ∈ s.cur.accesses, x.posted = true) → s.cur.pend = [] → s.cur.sys.tvec = 0 ∨ s.cur.hnd = true →
    let z := s.trapWith code sub eva
    SameBytes s z ∧ (∀ u ∈ z.strands, u.sess = t.sess → u.st = .done) ∧
    (∀ l ∈ s.launches, l.sess = t.sess → { l with status := if l.status = 0 then 0x21 else l.status } ∈ z.launches) ∧
    (∀ u ∈ z.sessions, u.id = t.sess → u.killed = true) ∧
    (∀ u ∈ z.sessions, u.id ≠ t.sess → u ∈ s.sessions)

/-- 06 R150, 21 R433: ERET in a handler restores the region and the PC and clears HND, at the cost of a taken branch;
the trapping bundle issues again once the handler's results have landed; outside one it raises a privilege trap. -/
def Sys2Proof.Machine.ReturnFromHandler : Prop :=
  ∀ (s : State) (pn : BitVec 1) (pk : BitVec 3), s.InHand → s.cur.pred pn pk = true →
    (s.cur.hnd = true → ∃ t, exec (.eret pn pk) s = .next t ∧
      t.cur.nextPc = some s.cur.sys.epc ∧ t.cur.fixed = s.cur.pfixed ∧ t.cur.hnd = false ∧ t.cur.pfixed = s.cur.pfixed ∧
      t.cur.stall = 3 ∧ (s.cur.wait = .none → t.cur.wait = .land) ∧ t.cur.regs = s.cur.regs ∧ t.cur.loops = s.cur.loops ∧ t.cur.sys.epc = s.cur.sys.epc ∧
      t.cur.sys.tvec = s.cur.sys.tvec ∧ t.cur.pend = s.cur.pend ∧ SameBytes s t) ∧
    (s.cur.hnd = false → exec (.eret pn pk) s = .next (s.trap 0x03))

/-- 05 R118, 16 R349, R350: YIELD begins the halt when a READY strand of the core has at least the strand's effective
priority, and does nothing otherwise; EXIT ends the strand's issue, after whatever else its bundle makes it wait for. -/
def Sys2Proof.Machine.YieldAndExit : Prop :=
  ∀ (s : State) (pn : BitVec 1) (pk : BitVec 3) (t : Strand), s.InHand → s.cur.pred pn pk = true →
    s.cur.strand = some t.age → s.curStrand = some t → s.cur.exits = false →
    let rival : Prop := ∃ u ∈ s.strands, u.core = s.curCore ∧ u.st = .ready ∧ s.effective t ≤ s.effective u
    (rival → ∃ z, exec (.yield pn pk) s = .next z ∧
      z.cur.st = .draining ∧ z.cur.halt = some false ∧
      z.cur.since = some s.now ∧ z.cur.regs = s.cur.regs ∧ SameBytes s z ∧
      z.strands = s.strands.map fun u => if u.age = t.age then { u with st := .saving } else u) ∧
    (¬ rival → exec (.yield pn pk) s = .next s) ∧
    (∃ z, exec (.exit pn pk) s = .next z ∧ z.cur.exits = true ∧ (s.cur.wait = .none → z.cur.wait = .exit) ∧ z.cur.regs = s.cur.regs ∧ z.cur.pend = s.cur.pend ∧
      z.crews = s.crews ∧ SameBytes s z ∧
      z.strands = s.strands.map fun u => if u.age = t.age then { u with ended := true } else u)

/-- 05 R128, 16 R351: SPAWN creates a strand of the next age and index, with its entry and g1, and gives its index; where
the pool has no room it creates none and gives all ones. -/
def Sys2Proof.Machine.SpawnCreatesAStrand : Prop :=
  ∀ (s : State) (pn : BitVec 1) (pk : BitVec 3) (d a b : BitVec 6) (t : Strand) (l : Launch), s.InHand →
    s.cur.pred pn pk = true → s.curStrand = some t → s.launch? t.launch = some l →
    (State.pooled s < State.poolMax → l.nextIndex ≤ 0xFFFF_FFFF →
      ∃ z u, exec (.spawn pn pk d a b) s = .next z ∧ z.strands = s.strands ++ [u] ∧
        u.age = s.ageCounter ∧ z.ageCounter = s.ageCounter + 1 ∧ u.index = BitVec.ofNat 32 l.nextIndex ∧
        u.launch = t.launch ∧ u.sess = t.sess ∧ u.core = s.curCore ∧ u.prio = t.prio ∧ u.st = .ready ∧
        u.image.pc = s.cur.rg a ∧ u.image.rg 1 = s.cur.rg b ∧ u.image.rg 3 = 0 ∧ u.image.fixed = s.cur.fixed ∧
        z.cur.pend = s.cur.pend ++
          [{ dest := .g d.toNat, data := (BitVec.ofNat 64 l.nextIndex).setWidth 2048, due := s.dueIn 48,
             wall := s.wallOf (s.dueIn 48), order := s.slotOrder }] ∧
        z.cur.regs = s.cur.regs ∧ SameBytes s z) ∧
    (State.poolMax ≤ State.pooled s → GivesG (.spawn pn pk d a b) s d (BitVec.allOnes 64) 48)

/-- 05 R129, 16 R352 to R354: CNEW makes a crew of one with a free id, or gives 0 where none is free; CJOIN adds the
strand to a crew of its session; CLEAVE takes it out; a CBAR of a strand that its bundle found outside a crew completes at
once, and one of the last member to arrive completes the episode. -/
def Sys2Proof.Machine.CrewForms : Prop :=
  ∀ (s : State) (pn : BitVec 1) (pk : BitVec 3) (d a : BitVec 6), s.InHand → s.cur.pred pn pk = true →
    (s.crewOf? s.curAge = none → (∃ k, 1 ≤ k ∧ k ≤ 65535 ∧ ∀ j ∈ s.crews, j.id ≠ k) →
      ∃ k z, exec (.cnew pn pk d) s = .next z ∧ 1 ≤ k ∧ k ≤ 65535 ∧ (∀ j ∈ s.crews, j.id ≠ k) ∧
        z.crews = s.crews ++ [{ id := k, sess := s.curSess, members := [s.curAge] }] ∧
        z.cur.pend = s.cur.pend ++
          [{ dest := .g d.toNat, data := (BitVec.ofNat 64 k).setWidth 2048, due := s.dueIn 48,
             wall := s.wallOf (s.dueIn 48), order := s.slotOrder }] ∧
        z.cur.regs = s.cur.regs ∧ SameBytes s z) ∧
    (s.crewOf? s.curAge = none → (∀ k, 1 ≤ k → k ≤ 65535 → ∃ j ∈ s.crews, j.id = k) →
      GivesG (.cnew pn pk d) s d 0 48) ∧
    (s.crewOf? s.curAge ≠ none → exec (.cnew pn pk d) s = .next (s.trap 0x0D) ∧
      exec (.cjoin pn pk a) s = .next (s.trap 0x0D)) ∧
    (s.crewOf? s.curAge = none → (∃ k ∈ s.crews, k.id = (s.cur.rg a).toNat ∧ k.sess = s.curSess) →
      exec (.cjoin pn pk a) s = .next { s with crews := s.crews.map fun k =>
        if k.id = (s.cur.rg a).toNat then { k with members := k.members ++ [s.curAge] } else k }) ∧
    (∃ z, exec (.cleave pn pk) s = .next z ∧ (∀ k ∈ z.crews, s.curAge ∉ k.members) ∧
      (∀ k ∈ s.crews, s.curAge ∉ k.members → k.members ≠ [] → k ∈ z.crews) ∧ SameRegs s z ∧ SameBytes s z) ∧
    (s.barCrew = none → ∃ z, exec (.cbar pn pk) s = .next z ∧ z.cur.out = s.cur.out ∧ SameRegs s z ∧
      SameBytes s z ∧ z.crews = s.crews) ∧
    (∀ k, s.barCrew = some (k, k.episode) → s.cur.parkMet = false → s.curSlot ∉ s.cur.met → s.cur.arrivedIn = none →
      s.cur.accesses = [] → (∀ m ∈ k.members, m = s.curAge ∨ m ∈ k.arrived) →
      ∃ z, exec (.cbar pn pk) s = .next z ∧ z.cur.out = s.cur.out ∧ SameRegs s z ∧ SameBytes s z ∧
        ∀ j ∈ z.crews, j.id = k.id → j.episode = k.episode + 1 ∧ j.arrived = [] ∧ j.members = k.members) ∧
    (∀ k, s.barCrew = some (k, k.episode) → s.cur.parkMet = false → s.curSlot ∉ s.cur.met → s.cur.arrivedIn = none →
      s.cur.accesses = [] → (∃ m ∈ k.members, m ≠ s.curAge ∧ m ∉ k.arrived) →
      ∃ z, exec (.cbar pn pk) s = .next z ∧ z.cur.out = .blocked true ∧
        z.cur.arrivedIn = some (k.id, k.episode) ∧ SameRegs s z ∧ SameBytes s z)

/-- Scalar floating-point forms: one rounding, one draw under STO, flags with the result; FMIN, FMAX and FCMP. -/
def Obligations.ScalarFloat : Prop :=
  ScalarFloatForms ∧ ScalarFloatOrder

/-- A representable value rounds to itself without a flag; NaN operands, invalid operations and the sign of an exact zero. -/
def Obligations.FloatRounding : Prop :=
  RoundingKeepsRepresentable ∧ FloatSpecialOperands

/-- B, CALL, CALLR, JR, LOOP and LOOPI: target, link, lost cycles, levels opened and closed, loop fault. -/
def Obligations.ControlForms : Prop :=
  ControlTransfers ∧ LoopForms

/-- BRK and TRAP enter the handler with EPC, CAUSE, EVA and the saved region; ERET returns. Where the spec leaves a
point open, this states the choice of the model: log entries 20, 27 and 73. -/
def Obligations.TrapAndReturn : Prop :=
  SoftwareTrapsEnterTheHandler ∧ ReturnFromHandler

/-- YIELD, EXIT, SPAWN, CNEW, CJOIN, CLEAVE and CBAR: strands begun, halted and ended; crews and their episodes. Where
the spec leaves a point open, this states the choice of the model: log entry 10. -/
def Obligations.StrandForms : Prop :=
  YieldAndExit ∧ SpawnCreatesAStrand ∧ CrewForms

/-! ## Register moves, predication, privilege, landing -/

namespace Sys2Proof.Machine

/-- The predicate field of a scalar instruction that has one (15 R310, 06 R137). -/
def guardOf : Instr → Option (BitVec 1 × BitVec 3)
  | .add pn pk _ _ _ | .sub pn pk _ _ _ | .and pn pk _ _ _ | .or pn pk _ _ _ | .xor pn pk _ _ _ | .andn pn pk _ _ _
  | .sel pn pk _ _ _ _ | .shl pn pk _ _ _ | .shr pn pk _ _ _ | .sar pn pk _ _ _ | .rotl pn pk _ _ _
  | .min pn pk _ _ _ | .max pn pk _ _ _ | .minu pn pk _ _ _ | .maxu pn pk _ _ _ | .mul pn pk _ _ _
  | .mulh pn pk _ _ _ | .mulhu pn pk _ _ _ | .div pn pk _ _ _ | .divu pn pk _ _ _ | .rem pn pk _ _ _
  | .remu pn pk _ _ _ | .clz pn pk _ _ | .ctz pn pk _ _ | .popc pn pk _ _ | .brev pn pk _ _ | .bswap pn pk _ _
  | .extf pn pk _ _ _ | .insf pn pk _ _ _ | .addi pn pk _ _ _ | .andi pn pk _ _ _ | .ori pn pk _ _ _
  | .xori pn pk _ _ _ | .shli pn pk _ _ _ | .shri pn pk _ _ _ | .sari pn pk _ _ _ | .li pn pk _ _ | .lih pn pk _ _
  | .cmp pn pk _ _ _ _ | .cmpi pn pk _ _ _ _ | .kop pn pk _ _ _ _ | .faddF32 pn pk _ _ _ _
  | .fsubF32 pn pk _ _ _ _ | .fmulF32 pn pk _ _ _ _ | .ffmaF32 pn pk _ _ _ _ | .fminF32 pn pk _ _ _
  | .fmaxF32 pn pk _ _ _ | .fcmpF32 pn pk _ _ _ _ | .fcvt pn pk _ _ _ _ _ | .faddF64 pn pk _ _ _ _
  | .fsubF64 pn pk _ _ _ _ | .fmulF64 pn pk _ _ _ _ | .ffmaF64 pn pk _ _ _ _ | .fminF64 pn pk _ _ _
  | .fmaxF64 pn pk _ _ _ | .fcmpF64 pn pk _ _ _ _ | .b pn pk _ | .call pn pk _ | .callr pn pk _ _ | .jr pn pk _
  | .loop pn pk _ _ | .loopi pn pk _ _ | .brk pn pk | .trap pn pk | .yield pn pk | .exit pn pk | .spawn pn pk _ _ _
  | .cnew pn pk _ | .cjoin pn pk _ | .cleave pn pk | .cbar pn pk | .mfs pn pk _ _ | .mts pn pk _ _ _
  | .mput pn pk _ _ | .mget pn pk _ _ | .eret pn pk | .tlbi pn pk _ | .halt pn pk | .idle pn pk | .csave pn pk _
  | .cload pn pk _ => some (pn, pk)
  | _ => none

/-- The forms that belong to strands of SYSTEM sessions (21 R432, R439). -/
def systemForm : Instr → Bool
  | .tlbi _ _ _ | .halt _ _ | .idle _ _ | .csave _ _ _ | .cload _ _ _ => true
  | .mfs _ _ _ i | .mts _ _ _ _ i => decide (0x100 ≤ i.toNat)
  | _ => false

end Sys2Proof.Machine

/-- 06 R137: a scalar slot whose predicate is false performs nothing; a privileged form is refused to a session without
SYSTEM before that (21 R432). -/
def Obligations.FalsePredicateDoesNothing : Prop :=
  ∀ (i : Instr) (s : State) (pn : BitVec 1) (pk : BitVec 3), guardOf i = some (pn, pk) → s.cur.pred pn pk = false →
    (systemForm i = true → s.isSystem s.curSess = true) → exec i s = .next s

/-- 21 R432, R439, 06 R150: a privileged form in a strand of a session without SYSTEM raises PRIV. -/
def Sys2Proof.Machine.PrivilegedFormsTrap : Prop :=
  ∀ (i : Instr) (s : State), systemForm i = true → s.isSystem s.curSess = false → exec i s = .next (s.trap 0x03)

/-- 16 R356, 06 R153, 21 R439: the value that MFS gives for each number, in latency 2; a system register as it was before the
slots of the bundle (06 R136). -/
def Sys2Proof.Machine.SystemRegisterReads : Prop :=
  ∀ (s : State) (pn : BitVec 1) (pk : BitVec 3) (d : BitVec 6), s.cur.pred pn pk = true →
    let y := (s.cur.before.map (·.sys)).getD s.cur.sys
    let k := s.core s.curCore
    (∀ p ∈ ([(0x000, y.status ||| (if s.isSystem s.curSess then 0x20 else 0)), (0x001, y.cause), (0x002, y.epc),
        (0x003, y.eva), (0x004, y.tvec), (0x008, BitVec.ofNat 64 s.curSess), (0x00A, BitVec.ofNat 64 s.curCore),
        (0x00B, BitVec.ofNat 64 s.ncores), (0x00C, s.cyc), (0x010, y.fpflags), (0x011, y.fpctl), (0x012, y.rseed0),
        (0x013, y.rseed1), (0x018, y.wmk0), (0x019, y.wmk1), (0x01A, y.tidn0), (0x01B, y.tidn1),
        (0x01C, y.fmtix)] : List (BitVec 9 × DWord)), GivesG (.mfs pn pk d p.1) s d p.2 2) ∧
    (∀ t, s.curStrand = some t → GivesG (.mfs pn pk d 0x009) s d (t.index.setWidth 64) 2) ∧
    (s.isSystem s.curSess = true →
      (∀ p ∈ ([(0x100, k.ecccnt.setWidth 64), (0x101, k.retrycnt.setWidth 64),
          (0x102, BitVec.ofNat 64 (k.bucket + k.refill * 2 ^ 17)), (0x108, 0)] : List (BitVec 9 × DWord)),
        GivesG (.mfs pn pk d p.1) s d p.2 2) ∧
      ∀ u, s.session? s.curSess = some u → GivesG (.mfs pn pk d 0x103) s d (BitVec.ofNat 64 (s.freeAreas u)) 2)

/-- 16 R357, 07 R172: MTS writes in latency 1; what each register takes when the write lands; a flag that lands with a
write of FPFLAGS is ORed in after it, and a collision sets DWC after a clear. -/
def Sys2Proof.Machine.SystemRegisterWrites : Prop :=
  (∀ (s : State) (pn : BitVec 1) (pk : BitVec 3) (a : BitVec 6) (i : BitVec 9), s.cur.pred pn pk = true →
    i.toNat < 0x100 →
    GivesR (.mts pn pk 0 a i) s (.sys i.toNat) (s.cur.rg a) 1 ∧
    (∀ t, s.curStrand = some t →
      let x : DWord := (BitVec.ofNat 64 s.curSess <<< 32) ||| t.index.setWidth 64
      let v := s.cur.rg a
      let turn (p : DWord × DWord) : DWord × DWord := ((rngStep p.1 p.2).1, (rngStep p.1 p.2).2.1)
      let p := turn (turn (turn (turn (v ^^^ (x * 0x9E37_79B9_7F4A_7C15),
        v.rotateLeft 32 ^^^ x ^^^ 0xD1B5_4A32_D192_ED03))))
      exec (.mts pn pk 1 a i) s = .next
        ((s.push { dest := .sys 0x012, data := p.1.setWidth 2048, due := s.dueIn 1 }).push
          { dest := .sys 0x013, data := p.2.setWidth 2048, due := s.dueIn 1 }))) ∧
  (∀ (c : Ctx) (x : DWord),
    let y := c.sys
    let w (n : Nat) : Pend := { dest := .sys n, data := x.setWidth 2048 }
    let gives (n : Nat) (z : Sys) : Prop := c.landOne (w n) = { c with sys := z }
    gives 0x000 { y with status := y.status &&& ~~~(x &&& 0x18) } ∧
    gives 0x002 { y with epc := x &&& ~~~0x1F } ∧ gives 0x004 { y with tvec := x &&& ~~~0x1F } ∧
    gives 0x010 { y with fpflags := y.fpflags &&& ~~~(x &&& 0x1F) } ∧
    gives 0x011 { y with fpctl := (x &&& 0x8) ||| (if (x &&& 7).toNat ≤ 4 then x &&& 7 else y.fpctl &&& 7) } ∧
    gives 0x012 { y with rseed0 := x } ∧ gives 0x013 { y with rseed1 := x } ∧
    gives 0x018 { y with wmk0 := y.wmk0 &&& ~~~(x &&& 0x1_0000_0000) } ∧
    gives 0x019 { y with wmk1 := y.wmk1 &&& ~~~(x &&& 0x1_0000_0000) } ∧
    (∀ (p : Pend) (n : Nat), p.dest = .g n → ∀ l ∈ [[p, w 0x010], [w 0x010, p]],
      (c.landAll l).sys.fpflags = (y.fpflags &&& ~~~(x &&& 0x1F)) ||| p.flags.setWidth 64) ∧
    (∀ (p q : Pend) (n : Nat), p.dest = .g (n + 1) → q.dest = .g (n + 1) → p.byLane = false → q.byLane = false →
      p.bump = false → q.bump = false → (c.landAll [w 0x000, p, q]).sys.status.getLsbD 3 = true))

/-- 21 R439, 05 R118: an MTS of KILL by a SYSTEM session ends the session that bits [5:0] name. -/
def Sys2Proof.Machine.KillEndsASession : Prop :=
  ∀ (s : State) (pn : BitVec 1) (pk : BitVec 3) (a : BitVec 6), s.cur.pred pn pk = true →
    s.isSystem s.curSess = true → ∃ z, exec (.mts pn pk 0 a 0x108) s = .next z ∧
      let n := (s.cur.rg a).toNat % 64
      SameBytes s z ∧ (∀ u ∈ z.strands, u.sess = n → u.st = .done) ∧
      (∀ l ∈ s.launches, l.sess = n → { l with status := if l.status = 0 then 0x21 else l.status } ∈ z.launches) ∧
      (∀ l ∈ s.launches, l.sess ≠ n → l ∈ z.launches) ∧
      (∀ u ∈ z.sessions, u.id = n → u.killed = true) ∧ (∀ u ∈ s.sessions, u.id ≠ n → u ∈ z.sessions) ∧
      ((∀ u ∈ s.strands, u.sess ≠ n) → z.strands = s.strands)

/-- 15 R317, 16 R358: MPUT and MGET by target; eight bytes of a shape register land, and no other bit of it. -/
def Sys2Proof.Machine.ConfigurationMoves : Prop :=
  (∀ (s : State) (pn : BitVec 1) (pk : BitVec 3) (r : BitVec 6) (i : BitVec 9), s.cur.pred pn pk = true →
    (i.toNat < 8 → GivesR (.mput pn pk r i) s (.m i.toNat) (s.cur.rg r) 1 ∧
      GivesG (.mget pn pk r i) s r (s.cur.rm i.toNat) 2) ∧
    (0x10 ≤ i.toNat → i.toNat < 0x20 → GivesR (.mput pn pk r i) s (.fmt (i.toNat - 0x10)) (s.cur.rg r) 1 ∧
      GivesG (.mget pn pk r i) s r (s.cur.rfmt (i.toNat - 0x10)) 2) ∧
    (0x100 ≤ i.toNat → GivesR (.mput pn pk r i) s (.shp (i.toNat - 0x100)) (s.cur.rg r) 1 ∧
      GivesG (.mget pn pk r i) s r
        ((s.cur.rshp ((i.toNat - 0x100) / 16)).extractLsb' ((i.toNat - 0x100) % 16 * 64) 64) 2)) ∧
  ∀ (c : Ctx) (x : DWord) (n : Nat),
    (n < 8 → (c.landOne { dest := .m n, data := x.setWidth 2048 }).rm n = x) ∧
    (n < 16 → (c.landOne { dest := .fmt n, data := x.setWidth 2048 }).rfmt n = x) ∧
    (n < 256 → ∀ k j, k < 16 → j < 16 →
      ((c.landOne { dest := .shp n, data := x.setWidth 2048 }).rshp k).extractLsb' (64 * j) 64 =
        if k = n / 16 ∧ j = n % 16 then x else (c.rshp k).extractLsb' (64 * j) 64)

/-- 16 R359, 06 R146, 09 R238: MODE waits as the context's next bundle; to scoreboard while locked it raises HAZARD. -/
def Sys2Proof.Machine.ModeWaits : Prop :=
  ∀ (s : State) (f : BitVec 1),
    (s.cur.locked = false ∨ f = 1 → exec (.mode f) s =
      .next (s.modCur fun c => { c with wait := .mode (f == 1), nextPc := some c.pc })) ∧
    (s.cur.locked = true → f = 0 → exec (.mode f) s = .next (s.trap 0x11))

/-- 21 R434 to R438: TLBI, IDLE, HALT, CSAVE and CLOAD of a SYSTEM session: what each waits for, the end of the session,
the checks of the image, and the image that CLOAD reads where it meets no error. Two of them in a bundle wait one after the
other. -/
def Sys2Proof.Machine.SupervisionForms : Prop :=
  ∀ (s : State) (pn : BitVec 1) (pk : BitVec 3) (a : BitVec 6), s.InHand → s.cur.pred pn pk = true →
    s.isSystem s.curSess = true →
    let x := s.cur.rg a
    (∀ (c : Ctx) (w v : Wait), (c.wait = .none → c.addWait w = { c with wait := w }) ∧
      (c.wait = v → v ≠ .none → v ≠ .exit → c.addWait w = { c with wait2 := w }) ∧
      (c.wait = .exit → c.addWait w = { c with wait := w, wait2 := .exit })) ∧
    exec (.tlbi pn pk a) s = .next (s.modCur fun c => c.addWait (.tlbi x)) ∧
    exec (.idle pn pk) s = .next (s.modCur fun c => c.addWait (.idle s.now)) ∧
    (s.cur.pend ≠ [] →
      exec (.halt pn pk) s = .next (s.modCur fun c => { c with wait := .halt, out := .halted })) ∧
    (s.cur.pend = [] → ∃ z, exec (.halt pn pk) s = .next z ∧ z.cur.out = .halted ∧ SameBytes s z ∧
      (∀ u ∈ z.strands, u.sess = s.curSess → u.st = .done) ∧ ∀ l ∈ s.launches, l.sess = s.curSess →
      { l with status := if l.status = 0 then 0x21 else l.status } ∈ z.launches) ∧
    (s.cur.loops ≠ [] → exec (.csave pn pk a) s = .next (s.trap 0x10) ∧
      exec (.cload pn pk a) s = .next (s.trap 0x10)) ∧
    (s.cur.loops = [] → s.imageReady = false →
      let z := (s.modCur fun c => { c with mwait := true }).outcome .stalled
      exec (.csave pn pk a) s = .next z ∧ exec (.cload pn pk a) s = .next z) ∧
    (s.cur.loops = [] → s.imageReady = true →
      (2 ≤ x.toNat / 2 ^ 60 → exec (.csave pn pk a) s = .next (s.trapWith 0x05 0 x) ∧
        exec (.cload pn pk a) s = .next (s.trapWith 0x05 0 x)) ∧
      (x.toNat / 2 ^ 60 < 2 → x.toNat % 64 ≠ 0 → exec (.csave pn pk a) s = .next (s.trapWith 0x0C 0 x) ∧
        exec (.cload pn pk a) s = .next (s.trapWith 0x0C 0 x)) ∧
      (x.toNat / 2 ^ 60 < 2 → x.toNat % 64 = 0 → ∀ ps w, s.checkAccess s.curSess .write x areaBytes = (ps, w, none) →
        ps.any s.pieceWaits = false → ps.any (s.portTaken s.curSess) = false → s.granuleHold ps = false →
        s.roomFor (State.cutPieces ps) = true →
        exec (.csave pn pk a) s = .next (s.modCur fun c => c.addWait (.csave x (c.pc + 32)))) ∧
      (x.toNat / 2 ^ 60 < 2 → x.toNat % 64 = 0 → ∀ ps w, s.checkAccess s.curSess .read x areaBytes = (ps, w, none) →
        ps.any s.pieceWaits = false → ps.any (s.portTaken s.curSess) = false → s.errors = [] → (∀ p ∈ ps, ∃ h, p.home = .here h) →
        let b := s.gather areaBytes ps []
        (∀ y ∈ (b.drop 0x1_CD00).take 64, y = 0) → ofBytes ((b.drop 0x1_CC80).take 8) % 32 = 0 →
        ∃ z, exec (.cload pn pk a) s = .next z ∧ (s.cur.wait = .none → z.cur.wait = .cload b) ∧ z.cur.regs = s.cur.regs ∧
          z.cur.sys = s.cur.sys ∧ SameBytes s z))

/-- 06 R138: g0, k0 and q0 read as the spec says in every state, and a result for them leaves every register. -/
def Sys2Proof.Machine.HardwiredRegisters : Prop :=
  ∀ (c : Ctx) (p : Pend),
    c.rg 0 = 0 ∧ c.rk 0 = true ∧ c.rq 0 = BitVec.allOnes 256 ∧
    (p.dest = .g 0 ∨ p.dest = .k 0 ∨ p.dest = .q 0 → (c.landOne p).regs = c.regs)

/-- 06 R143, 17 R360: a result that lands writes its own register, only the bytes its mask enables, and the FPFLAGS bits
it sets; every other register and all else of the context stays. -/
def Sys2Proof.Machine.ResultsLandInTheirRegister : Prop :=
  ∀ (c : Ctx) (p : Pend), p.bump = false →
    let t := c.landOne p
    t.pc = c.pc ∧ t.loops = c.loops ∧ t.accesses = c.accesses ∧ t.pend = c.pend ∧ t.regs.acc = c.regs.acc ∧
    t.regs.feed = c.regs.feed ∧ ((∀ n, p.dest ≠ .sys n) → t.sys = { c.sys with fpflags := c.sys.fpflags ||| p.flags.setWidth 64 }) ∧
    (∀ n : BitVec 6, p.dest ≠ .g n.toNat → t.rg n = c.rg n) ∧
    (∀ n : BitVec 3, p.dest ≠ .k n.toNat → t.rk n = c.rk n) ∧
    (∀ n : BitVec 3, p.dest ≠ .q n.toNat → t.rq n = c.rq n) ∧
    (∀ n, p.dest ≠ .line n → t.line n = c.line n) ∧
    (∀ n, p.dest ≠ .m n → t.rm n = c.rm n) ∧ (∀ n, p.dest ≠ .fmt n → t.rfmt n = c.rfmt n) ∧
    (∀ n, p.dest ≠ .lc n → t.rlc n = c.rlc n) ∧
    (∀ n, (∀ k, k / 16 = n → p.dest ≠ .shp k) → t.rshp n = c.rshp n) ∧
    (∀ n : BitVec 6, p.dest = .g n.toNat → n ≠ 0 → p.byLane = false → t.rg n = p.data.setWidth 64) ∧
    (∀ n : BitVec 3, p.dest = .k n.toNat → n ≠ 0 → t.rk n = p.data.getLsbD 0) ∧
    (∀ n : BitVec 3, p.dest = .q n.toNat → n ≠ 0 → ∀ j, j < 256 →
      (t.rq n).getLsbD j = if p.mask.getLsbD j then p.data.getLsbD j else (c.rq n).getLsbD j) ∧
    (∀ n, p.dest = .line n → n < 384 → ∀ j, j < 256 →
      byteOf (t.line n) j = if p.mask.getLsbD j then byteOf p.data j else byteOf (c.line n) j) ∧
    (∀ n, p.dest = .lc n → n < 4 → t.rlc n = p.data.setWidth 32)

/-- 06 R142: an instruction that leaves a pending result changes no register, system register or byte of memory; the results
that are due land in rising order of their moments, and the others stay pending in their order; while the context waits
without issuing, a result is due in its wall cycle. -/
def Sys2Proof.Machine.ResultsLandWhenDue : Prop :=
  (∀ (s : State) (p : Pend), SameRegs s (s.push p) ∧ SameBytes s (s.push p) ∧ (s.push p).strands = s.strands ∧
    (s.InHand → (s.push p).cur.pend = s.cur.pend ++ [{ p with wall := s.wallOf p.due, order := s.slotOrder }])) ∧
  ∀ (c : Ctx) (t : Nat),
    (c.landDue t).pend = c.pend.filter (fun p => !c.pendDue t p) ∧
    (∀ p, c.pendDue t p = true ↔ Ctx.Due.reached c.issue t p.due = true ∨
      (c.waiting = true ∧ p.wall ≤ t ∧ ∀ n, p.due ≠ .access n)) ∧
    (∀ p, c.pend = [p] → c.claims = [] → c.pendDue t p = true →
      (c.landDue t).regs = (c.landOne p).regs ∧ (c.landDue t).sys = (c.landOne p).sys) ∧
    (∀ p q m n, c.pend = [p, q] → c.claims = [] → p.due = .cycle m → q.due = .cycle n → n < m → m ≤ t →
      (c.landDue t).regs = (({ c with pend := [] }.landOne q).landOne p).regs) ∧
    ((∀ p ∈ c.pend, c.pendDue t p = false) → c.claims = [] → c.landDue t = c)

/-- A trap without a handler, and an MTS of KILL, end the session with its strands and launches. Where the spec leaves a
point open, this states the choice of the model: log entry 21. -/
def Obligations.SessionEnds : Prop :=
  TrapWithoutHandlerKillsSession ∧ KillEndsASession

/-- MFS and MTS by number, the privilege of the SYSTEM numbers, and what a landing write leaves. -/
def Obligations.SystemRegisters : Prop :=
  PrivilegedFormsTrap ∧ SystemRegisterReads ∧ SystemRegisterWrites

/-- MPUT, MGET, MODE, TLBI, IDLE, HALT, CSAVE and CLOAD: what each writes, waits for and checks. Where the spec leaves a
point open, this states the choice of the model: log entries 14, 15, 20, 41 and 73. -/
def Obligations.Supervision : Prop :=
  ConfigurationMoves ∧ ModeWaits ∧ SupervisionForms

/-- Hard-wired registers; a result that lands writes its own register, when it is due, and nothing else. Where the spec
leaves a point open, this states the choice of the model: log entries 28, 72 and 74. -/
def Obligations.ResultsLand : Prop :=
  HardwiredRegisters ∧ ResultsLandInTheirRegister ∧ ResultsLandWhenDue

/-! ## Vector instructions -/

namespace Sys2Proof.Machine

/-- Instruction `i` completes with one result for line `n`, whose element `j` of `w` bits is `f j`. -/
def GivesElems (i : Instr) (s : State) (n w : Nat) (f : Nat → Nat) (q : QReg) (lat : Nat) : Prop :=
  ∃ r : Line, GivesLine i s n r q lat ∧ ∀ j, j < 2048 / w → elemOf w r j = f j

/-- Element `j` of `w` bits is enabled: one of the bytes that it occupies is (17 R360). -/
def laneOn (w : Nat) (q : QReg) (j : Nat) : Prop :=
  ∃ k, w * j < 8 * k + 8 ∧ 8 * k < w * j + w ∧ q.getLsbD k = true

/-- `fl` is the union of the flags that the elements below `n` for which `on` holds set. -/
def FlagsOf (fl : BitVec 5) (n : Nat) (on : Nat → Prop) (f : Nat → BitVec 5) : Prop :=
  ∀ k, k < 5 → (fl.getLsbD k = true ↔ ∃ j, j < n ∧ on j ∧ (f j).getLsbD k = true)

/-- Instruction `i`, having drawn so that the state is `t`, completes with one result for line `n`: element `j` and its
flags are `f j` for `j` below `m`, and the elements from `m` on are zero; `tab` says whether it is table work. -/
def GivesFlagged (i : Instr) (s t : State) (n w m : Nat) (f : Nat → Nat × BitVec 5) (q : QReg) (lat : Nat)
    (tab : Bool := false) : Prop :=
  ∃ (r : Line) (fl : BitVec 5),
    exec i s = .next (t.push { dest := .line n, data := r, mask := q, byLane := true, due := t.dueIn lat, flags := fl,
                               table := tab }) ∧
    (∀ j, j < 2048 / w → elemOf w r j = if j < m then (f j).1 % 2 ^ w else 0) ∧
    FlagsOf fl m (laneOn w q) fun j => (f j).2

/-- The tree of a reduction of `2 ^ k` elements: at each level element i meets element i + h, h halving (17 R372). -/
def foldTree (op : Nat → Nat → Nat) : Nat → (Nat → Nat) → Nat
  | 0, s => s 0
  | k + 1, s => foldTree op k fun i => op (s i) (s (i + 2 ^ k))

/-- The steps of a scan, the distance doubling from `d` (17 R373). -/
def scanFrom (op : Nat → Nat → Nat) : Nat → Nat → (Nat → Nat) → Nat → Nat
  | 0, _, s => s
  | k + 1, d, s => scanFrom op k (2 * d) fun i => if d ≤ i then op (s i) (s (i - d)) else s i

end Sys2Proof.Machine

/-- 17 R363: each element of the integer forms, and the latencies of R362; VDOT4 is of width 32 and no other. -/
def Obligations.VectorIntegerForms : Prop :=
  (∀ (s : State) (q : BitVec 3) (e : BitVec 2) (d a b : BitVec 6),
    let w := 8 * 2 ^ e.toNat
    let m := s.cur.rq q
    let A := elemOf w (s.cur.rv a)
    let B := elemOf w (s.cur.rv b)
    let S (x : Nat) : Int := signed w x
    let lo : Int := -(2 ^ (w - 1) : Nat)
    let hi : Int := (2 ^ (w - 1) : Nat) - 1
    let gives (i : Instr) (f : Nat → Nat) (lat : Nat) : Prop := GivesElems i s d.toNat w f m lat
    gives (.vadd q e d a b) (fun j => (A j + B j) % 2 ^ w) 2 ∧
    gives (.vsub q e d a b) (fun j => unsigned w ((A j : Int) - B j)) 2 ∧
    gives (.vadds q e d a b 0) (fun j => unsigned w (max lo (min hi (S (A j) + S (B j))))) 2 ∧
    gives (.vadds q e d a b 1) (fun j => min (2 ^ w - 1) (A j + B j)) 2 ∧
    gives (.vsubs q e d a b 0) (fun j => unsigned w (max lo (min hi (S (A j) - S (B j))))) 2 ∧
    gives (.vsubs q e d a b 1) (fun j => A j - B j) 2 ∧
    gives (.vmul q e d a b) (fun j => A j * B j % 2 ^ w) 5 ∧
    gives (.vmulh q e d a b 0) (fun j => unsigned w (S (A j) * S (B j) / (2 ^ w : Nat))) 5 ∧
    gives (.vmulh q e d a b 1) (fun j => A j * B j / 2 ^ w) 5 ∧
    gives (.vmin q e d a b 0) (fun j => if S (A j) ≤ S (B j) then A j else B j) 2 ∧
    gives (.vmin q e d a b 1) (fun j => min (A j) (B j)) 2 ∧
    gives (.vmax q e d a b 0) (fun j => if S (A j) ≤ S (B j) then B j else A j) 2 ∧
    gives (.vmax q e d a b 1) (fun j => max (A j) (B j)) 2 ∧
    gives (.vabs q e d a) (fun j => (S (A j)).natAbs % 2 ^ w) 2 ∧
    gives (.vneg q e d a) (fun j => unsigned w (0 - (A j : Int))) 2 ∧
    gives (.vpopc q e d a) (fun j => ((List.range w).filter fun k => (A j).testBit k).length) 2 ∧
    gives (.vclz q e d a) (fun j => if A j = 0 then w else w - 1 - Nat.log2 (A j)) 2 ∧
    let A := elemOf 32 (s.cur.rv a)
    let B := elemOf 32 (s.cur.rv b)
    let D := elemOf 32 (s.cur.rv d)
    let S (x k : Nat) : Int := signed 8 (x / 2 ^ (8 * k) % 256)
    let U (x k : Nat) : Nat := x / 2 ^ (8 * k) % 256
    GivesElems (.vdot4 q d a b 0) s d.toNat 32 (fun j => unsigned 32 ((D j : Int) + S (A j) 0 * S (B j) 0 +
      S (A j) 1 * S (B j) 1 + S (A j) 2 * S (B j) 2 + S (A j) 3 * S (B j) 3)) m 5 ∧
    GivesElems (.vdot4 q d a b 1) s d.toNat 32 (fun j => (D j + U (A j) 0 * U (B j) 0 +
      U (A j) 1 * U (B j) 1 + U (A j) 2 * U (B j) 2 + U (A j) 3 * U (B j) 3) % 2 ^ 32) m 5) ∧
  ∀ (v : Word) (i : Instr), v.extractLsb' 25 7 = 0x07 → v.extractLsb' 20 2 ≠ 2 → decode .v v ≠ .ok i

/-- 17 R364: the logic forms and VMOV, bytewise; a word of theirs with et other than 00 is no instruction. -/
def Sys2Proof.Machine.VectorLogicForms : Prop :=
  (∀ (s : State) (q : BitVec 3) (d a b : BitVec 6),
    let x := s.cur.rv a
    let y := s.cur.rv b
    let m := s.cur.rq q
    GivesLine (.vand q d a b) s d.toNat (x &&& y) m 2 ∧ GivesLine (.vor q d a b) s d.toNat (x ||| y) m 2 ∧
    GivesLine (.vxor q d a b) s d.toNat (x ^^^ y) m 2 ∧ GivesLine (.vandn q d a b) s d.toNat (x &&& ~~~y) m 2 ∧
    GivesLine (.vmov q d a) s d.toNat x m 2) ∧
  ∀ (w : Word) (i : Instr), w.extractLsb' 25 7 ∈ ([0x10, 0x11, 0x12, 0x13, 0x4B] : List (BitVec 7)) →
    w.extractLsb' 20 2 ≠ 0 → decode .v w ≠ .ok i

/-- 17 R365: the shifts by element, the amount taken whole. -/
def Sys2Proof.Machine.VectorShiftForms : Prop :=
  ∀ (s : State) (q : BitVec 3) (e : BitVec 2) (d a b : BitVec 6) (i : BitVec 8),
    let w := 8 * 2 ^ e.toNat
    let m := s.cur.rq q
    let A := elemOf w (s.cur.rv a)
    let B := elemOf w (s.cur.rv b)
    let n := i.toNat
    let gives (k : Instr) (f : Nat → Nat) : Prop := GivesElems k s d.toNat w f m 2
    gives (.vshl q e d a b) (fun j => if w ≤ B j then 0 else A j * 2 ^ B j % 2 ^ w) ∧
    gives (.vshr q e d a b) (fun j => if w ≤ B j then 0 else A j / 2 ^ B j) ∧
    gives (.vsar q e d a b) (fun j => if w ≤ B j then (if signed w (A j) < 0 then 2 ^ w - 1 else 0)
      else unsigned w (signed w (A j) / (2 ^ B j : Nat))) ∧
    gives (.vshli q e d a i) (fun j => if w ≤ n then 0 else A j * 2 ^ n % 2 ^ w) ∧
    gives (.vshri q e d a i) (fun j => if w ≤ n then 0 else A j / 2 ^ n)

/-- 17 R366: VCMP and VFCMP set every bit of an element to its condition; VFCMP with the flags of the enabled elements. -/
def Sys2Proof.Machine.VectorCompareForms : Prop :=
  ∀ (s : State) (q c d : BitVec 3) (e : BitVec 2) (a b : BitVec 6),
    let w := 8 * 2 ^ e.toNat
    let m := s.cur.rq q
    (∃ r : QReg, GivesQ (.vcmp q e c d a b) s d r m 2 ∧ ∀ j, j < 256 →
      r.getLsbD j = cond c (BitVec.ofNat w (elemOf w (s.cur.rv a) (8 * j / w)))
        (BitVec.ofNat w (elemOf w (s.cur.rv b) (8 * j / w)))) ∧
    let F := vtype e
    let A (j : Nat) := F.read s.cur.ftz (elemOf F.w (s.cur.rv a) j)
    let B (j : Nat) := F.read s.cur.ftz (elemOf F.w (s.cur.rv b) j)
    ∃ (r : QReg) (fl : BitVec 5), GivesQ (.vfcmp q e c d a b) s d r m 4 fl ∧
      (∀ j, j < 256 → r.getLsbD j = fcond c (fordV (A (8 * j / F.w)) (B (8 * j / F.w)))) ∧
      FlagsOf fl (2048 / F.w) (laneOn F.w m) fun j =>
        if fcondInvalid c ((A j).isNan || (B j).isNan) ((A j).isSnan || (B j).isSnan) then fInvalid else 0

/-- 17 R367: VSEL takes each byte by its q bit, and writes the register whole. -/
def Sys2Proof.Machine.VectorSelect : Prop :=
  ∀ (s : State) (q : BitVec 3) (d a b : BitVec 6),
    (∃ r : Line, GivesLine (.vsel q d a b) s d.toNat r (BitVec.allOnes 256) 2 ∧ ∀ j, j < 256 →
      byteOf r j = if (s.cur.rq q).getLsbD j then byteOf (s.cur.rv a) j else byteOf (s.cur.rv b) j) ∧
    GivesLine (.vsel 0 d a b) s d.toNat (s.cur.rv a) (BitVec.allOnes 256) 2

/-- 17 R368: QOP by function and QFROMG, their Reserved fields, and the discarded write of q0. -/
def Sys2Proof.Machine.PredicateForms : Prop :=
  (∀ (s : State) (d a b : BitVec 3) (g : BitVec 6),
    let x := s.cur.rq a
    let y := s.cur.rq b
    let m := BitVec.allOnes 256
    GivesQ (.qop d a b 0) s d (x &&& y) m 2 ∧ GivesQ (.qop d a b 1) s d (x ||| y) m 2 ∧
    GivesQ (.qop d a b 2) s d (x ^^^ y) m 2 ∧ GivesQ (.qop d a b 3) s d (x &&& ~~~y) m 2 ∧
    GivesQ (.qop d 0 b 3) s d (~~~y) m 2 ∧
    (∃ r : QReg, GivesQ (.qfromg d g) s d r m 2 ∧ ∀ j, j < 256 →
      r.getLsbD j = decide (j < min (s.cur.rg g).toNat 256))) ∧
  (∀ (w : Word) (i : Instr), (w.extractLsb' 25 7 = 0x22 ∧ w &&& 0x1CE38E0 ≠ 0) ∨
    (w.extractLsb' 25 7 = 0x23 ∧ w &&& 0x1CE00FF ≠ 0) → decode .v w ≠ .ok i) ∧
  ∀ (c : Ctx) (p : Pend), p.dest = .q 0 → (c.landOne p).regs = c.regs

/-- 17 R369: each element of the floating forms is rounded once, every element draws in ascending order under STO, and
the enabled elements set the flags; VFMIN and VFMAX as FMIN and FMAX. -/
def Sys2Proof.Machine.VectorFloatForms : Prop :=
  ∀ (s : State) (q : BitVec 3) (e : BitVec 2) (d a b : BitVec 6) (f : BitVec 2),
    let F := vtype e
    let c := s.cur
    let n := 2048 / F.w
    let md : RMode := if f = 0 then c.rm0 else if f = 1 then .rne else if f = 2 then .rtz else .sto
    let z := s.drawsFor md n
    let rd (r : BitVec 6) (j : Nat) : FVal := F.read c.ftz (elemOf F.w (c.rv r) j)
    let gives (i : Instr) (lat : Nat) (g : FVal → FVal → FVal → FRes) : Prop :=
      GivesFlagged i s z.2 d.toNat F.w n
        (fun j => (g (rd a j) (rd b j) (rd d j)).put F md (z.1.getD j 0) c.ftz) (c.rq q) lat
    gives (.vfadd q e d a b f) 4 (fun x y _ => faddV md x y) ∧
    gives (.vfsub q e d a b f) 4 (fun x y _ => faddV md x y.neg) ∧
    gives (.vfmul q e d a b f) 5 (fun x y _ => fmulV x y) ∧
    gives (.vfma q e d a b f) 5 (fun x y v => ffmaV md x y v) ∧
    gives (.vfnma q e d a b f) 5 (fun x y v => ffmaV md x.neg y v) ∧
    (md ≠ .sto → z.2 = s) ∧ (md = .sto → z.1.length = n) ∧
    GivesFlagged (.vfmin q e d a b) s s d.toNat F.w n
      (fun j => fminmax F c.ftz false (elemOf F.w (c.rv a) j) (elemOf F.w (c.rv b) j)) (c.rq q) 4 ∧
    GivesFlagged (.vfmax q e d a b) s s d.toNat F.w n
      (fun j => fminmax F c.ftz true (elemOf F.w (c.rv a) j) (elemOf F.w (c.rv b) j)) (c.rq q) 4

/-- 17 R370, R371: VCVT converts as many elements as the wider format holds and zeroes the rest; VCVTEF narrows and gives
residuals; the format codes that raise FORMAT. -/
def Sys2Proof.Machine.VectorConversions : Prop :=
  ∀ (s : State) (q : BitVec 3) (d a : BitVec 6) (x y : BitVec 4) (i : Instr) (md : RMode),
    let m := s.cur.rq q
    ((∃ r, i = .vcvt1 q r d a x y ∧ md = s.cur.vecMode r) ∨
        (∃ r : BitVec 1, i = .vcvt2 q r d a x y ∧ md = if r = 0 then .rdn else .rup) →
      (∀ D S, codeFmt x.toNat = some D → codeFmt y.toNat = some S →
        let n := 2048 / max S.width D.width
        let z := if drawsPer S D then s.drawsFor md n else ([], s)
        GivesFlagged i s z.2 d.toNat D.width n (fun j =>
          convert S D md (z.1.getD j 0) s.cur.ftz (elemOf S.width (s.cur.rv a) j)) m 4) ∧
      (codeFmt x.toNat = none ∨ codeFmt y.toNat = none → exec i s = .next (s.trap 0x0B))) ∧
    ((∃ r, i = .vcvtef1 q r d a x y ∧ md = s.cur.vecMode r) ∨
        (∃ r : BitVec 1, i = .vcvtef2 q r d a x y ∧ md = if r = 0 then .rdn else .rup) →
      (∀ N S : FFmt, codeFmt x.toNat = some (.flt N) → codeFmt y.toNat = some (.flt S) → N.w < S.w →
        let n := 2048 / S.w
        let z := s.drawsFor md n
        let v (j : Nat) := convertEF S N md (z.1.getD j 0) s.cur.ftz (elemOf S.w (s.cur.rv a) j)
        ∃ (r t : Line) (fl : BitVec 5), 
          exec i s = .next (
            (z.2.push { dest := .line d.toNat, data := r, mask := m, byLane := true, due := z.2.dueIn 4, flags := fl }).push
              { dest := .line (d.toNat + 1), data := t, mask := m, byLane := true, due := z.2.dueIn 4 }) ∧
          (∀ j, j < 2048 / N.w → elemOf N.w r j = if j < n then (v j).1 % 2 ^ N.w else 0) ∧
          (∀ j, j < n → elemOf S.w t j = (v j).2.1 % 2 ^ S.w) ∧
          FlagsOf fl n (fun j => laneOn N.w m j ∨ laneOn S.w m j) fun j => (v j).2.2) ∧
      ((∀ N S : FFmt, codeFmt x.toNat = some (.flt N) → codeFmt y.toNat = some (.flt S) → S.w ≤ N.w) →
        exec i s = .next (s.trap 0x0B)))

/-- 17 R372: the reductions give every element the value of the fixed tree; integer sums modulo 2^W, and the greatest or
least element. -/
def Sys2Proof.Machine.VectorReductions : Prop :=
  ∀ (s : State) (q : BitVec 3) (e : BitVec 2) (d a : BitVec 6),
    let w := 8 * 2 ^ e.toNat
    let n := 2048 / w
    let A := elemOf w (s.cur.rv a)
    let m := s.cur.rq q
    let all (i : Instr) (x : Nat) : Prop := GivesElems i s d.toNat w (fun _ => x) m 8
    all (.vsum q e d a 0) (((List.range n).map A).sum % 2 ^ w) ∧
    (∃ x, all (.vrmax q e d a 0) x ∧ (∃ k, k < n ∧ x = A k) ∧ ∀ k, k < n → signed w (A k) ≤ signed w x) ∧
    (∃ x, all (.vrmax q e d a 1) x ∧ (∃ k, k < n ∧ x = A k) ∧ ∀ k, k < n → A k ≤ x) ∧
    (∃ x, all (.vrmin q e d a 0) x ∧ (∃ k, k < n ∧ x = A k) ∧ ∀ k, k < n → signed w x ≤ signed w (A k)) ∧
    (∃ x, all (.vrmin q e d a 1) x ∧ (∃ k, k < n ∧ x = A k) ∧ ∀ k, k < n → x ≤ A k) ∧
    let F := vtype e
    let A := elemOf F.w (s.cur.rv a)
    let k := Nat.log2 (2048 / F.w)
    let all (i : Instr) (x : Nat) : Prop :=
      ∃ (r : Line) (fl : BitVec 5), GivesLine i s d.toNat r m 8 fl ∧ ∀ j, j < 2048 / F.w → elemOf F.w r j = x % 2 ^ F.w
    all (.vsum q e d a 2)
      (foldTree (fun x y => ((faddV .rne (F.read s.cur.ftz x) (F.read s.cur.ftz y)).put F .rne 0 s.cur.ftz).1) k A) ∧
    all (.vrmax q e d a 2) (foldTree (fun x y => (fminmax F s.cur.ftz true x y).1) k A) ∧
    all (.vrmin q e d a 2) (foldTree (fun x y => (fminmax F s.cur.ftz false x y).1) k A)

/-- 17 R373: VSCAN gives the inclusive prefix, in the order of doubling distances. -/
def Sys2Proof.Machine.VectorScan : Prop :=
  ∀ (s : State) (q : BitVec 3) (e : BitVec 2) (d a : BitVec 6),
    let w := 8 * 2 ^ e.toNat
    GivesElems (.vscan q e d a 0) s d.toNat w
      (fun j => ((List.range (j + 1)).map (elemOf w (s.cur.rv a))).sum % 2 ^ w) (s.cur.rq q) 10 ∧
    let F := vtype e
    ∃ (r : Line) (fl : BitVec 5), GivesLine (.vscan q e d a 2) s d.toNat r (s.cur.rq q) 10 fl ∧
      ∀ j, j < 2048 / F.w → elemOf F.w r j =
        scanFrom (fun x y => ((faddV .rne (F.read s.cur.ftz x) (F.read s.cur.ftz y)).put F .rne 0 s.cur.ftz).1)
          (Nat.log2 (2048 / F.w)) 1 (elemOf F.w (s.cur.rv a)) j % 2 ^ F.w

/-- 17 R374 to R377: permutations move whole elements; VBCAST, VMOVI and VEXTR; the tile lines and accumulator rows; a
VEXTR of a disabled element leaves its register. -/
def Sys2Proof.Machine.VectorMoves : Prop :=
  ∀ (s : State) (q : BitVec 3) (e : BitVec 2) (d a b : BitVec 6) (i : BitVec 8) (l : BitVec 4),
    let w := 8 * 2 ^ e.toNat
    let n := 2048 / w
    let m := s.cur.rq q
    let A := elemOf w (s.cur.rv a)
    let gives (k : Instr) (lat : Nat) (f : Nat → Nat) : Prop := GivesElems k s d.toNat w f m lat
    gives (.vperm q e d a b) 4 (fun j => A (elemOf w (s.cur.rv b) j % n)) ∧
    gives (.vshuf q e d a i) 3 (fun j => A (j ^^^ (i.toNat % n))) ∧
    gives (.vslide q e d a i) 2 (fun j => A ((j + n - i.toNat % n) % n)) ∧
    gives (.vbcast q e d a) 2 (fun _ => (s.cur.rg a).toNat % 2 ^ w) ∧
    gives (.vmovi q e d i) 2 (fun _ => i.toNat) ∧
    GivesLine (.vtget q d a l) s d.toNat (s.cur.line (64 + 16 * a.toNat + l.toNat)) m 2 ∧
    GivesLine (.vtset q d a l) s (64 + 16 * d.toNat + l.toNat) (s.cur.rv a) m 2 ∧
    GivesLine (.vrdacc q d a) s d.toNat (s.cur.acc a.toNat) m 4 ∧
    ∃ p : Pend, exec (.vextr q e d a i) s = .next (s.push p) ∧ p.dest = .g d.toNat ∧ p.due = s.dueIn 3 ∧ p.flags = 0 ∧
      (m.getLsbD (i.toNat * 2 ^ e.toNat) = true → d ≠ 0 → ∀ c : Ctx, (c.landOne p).rg d = BitVec.ofNat 64 (A i.toNat)) ∧
      (m.getLsbD (i.toNat * 2 ^ e.toNat) = false → ∀ c : Ctx, (c.landOne p).regs = c.regs)

/-! ## The X slot -/

namespace Sys2Proof.Machine

/-- Instruction `i` completes with one result of table work, `x` for line `n` (11 R261). -/
def GivesTable (i : Instr) (s : State) (n : Nat) (x : Line) (q : QReg) (lat : Nat) (flags : BitVec 5 := 0) : Prop :=
  exec i s = .next (s.push { dest := .line n, data := x, mask := q, byLane := true, due := s.dueIn lat, flags := flags,
                             table := true })

end Sys2Proof.Machine

/-- 11 R252, R255 to R258, 18 R385: TQ, TQP, TQI and TINFO of a slot that passes the checks, where they meet no error. -/
def Sys2Proof.Machine.TableQueries : Prop :=
  ∀ (s : State) (q : BitVec 3) (d a t : BitVec 6) (e : BitVec 2) (w : BitVec 1),
    let x := s.tdesc s.curCore t.toNat
    let k := Desc.kind x
    let m := s.cur.rq q
    let T := s.tableEntry s.curCore t.toNat
    s.slotForeign s.curCore t.toNat s.curSess = false → s.slotBusy s.curCore t.toNat = false →
    s.errors = [] →
    (k = 1 → Desc.ew x = e.toNat →
      let iw := 8 * (w.toNat + 1)
      let l := max (8 * 2 ^ e.toNat) iw
      ∃ r : Line, GivesTable (.tq q d a t e w) s d.toNat r m 6 ∧ ∀ j, j < 2048 / l →
        elemOf l r j = T (elemOf l (s.cur.rv a) j % 2 ^ iw % Desc.count x) % 2 ^ l) ∧
    (k = 2 → ∃ r u : Line, exec (.tqp q d a t) s =
        .next ((s.push { dest := .line d.toNat, data := r, mask := m, byLane := true, due := s.dueIn 6,
                           table := true }).push
          { dest := .line (d.toNat + 1), data := u, mask := m, byLane := true, due := s.dueIn 6, table := true }) ∧
      let P (j : Nat) : Nat := T (elemOf 4 (s.cur.rv (a + 1)) j * 16 + elemOf 4 (s.cur.rv a) j) % 256
      ∀ j, j < 256 → elemOf 8 r j = P j ∧ elemOf 8 u j = P (256 + j)) ∧
    (k = 3 → let F := if e = 1 then f16F else f32F
      let g (j : Nat) := tqiLane F x (fun v => f32F.decode (T v)) (elemOf F.w (s.cur.rv a) j)
      ∃ (r : Line) (fl : BitVec 5), GivesTable (.tqi q d a t e) s d.toNat r m 8 fl ∧
        (∀ j, j < 2048 / F.w → elemOf F.w r j = (g j).1 % 2 ^ F.w) ∧
        FlagsOf fl (2048 / F.w) (laneOn F.w m) fun j => (g j).2) ∧
    (k ≠ 0 → GivesLine (.tinfo d t) s d.toNat (x.setWidth 2048) (BitVec.allOnes 256) 4)

/-- 11 R255: the hold while the slot is busy, whoever owns it, and the refusals of a query, in their order. -/
def Sys2Proof.Machine.TableQueryRefusals : Prop :=
  ∀ (s : State) (q : BitVec 3) (d a t : BitVec 6) (e : BitVec 2) (w : BitVec 1) (i : Instr) (good : Bool),
    let x := s.tdesc s.curCore t.toNat
    (i = .tq q d a t e w ∧ good = (Desc.kind x == 1 && Desc.ew x == e.toNat)) ∨
      (i = .tqp q d a t ∧ good = (Desc.kind x == 2)) ∨ (i = .tqi q d a t e ∧ good = (Desc.kind x == 3)) ∨
      (i = .tinfo d t ∧ good = true) →
    let foreign := s.slotForeign s.curCore t.toNat s.curSess
    let busy := s.slotBusy s.curCore t.toNat
    (busy = true → exec i s = .next (s.outcome .held)) ∧
    (foreign = true → busy = false → exec i s = .next (s.trap 0x14)) ∧
    (foreign = false → busy = false → Desc.kind x = 0 → exec i s = .next (s.trap 0x14)) ∧
    (foreign = false → busy = false → Desc.kind x ≠ 0 → good = false → exec i s = .next (s.trap 0x0B))

/-- 18 R383: TLOAD checks its pointer, its alignment and its slot in this order, waits for room in the table queue, and
then queues the load with a release of every class at device scope. -/
def Sys2Proof.Machine.TableLoadQueues : Prop :=
  ∀ (s : State) (a t : BitVec 6),
    let p := s.cur.rg a
    let badSpace : Prop := ptrOf s.ncores p = none ∨ 1 < p.toNat / 2 ^ 60
    let badSlot : Prop := 60 ≤ t.toNat ∨ s.slotForeign s.curCore t.toNat s.curSess = true
    (badSpace → exec (.tload a t) s = .next (s.trapWith 0x05 0 p)) ∧
    (¬ badSpace → p.toNat % 64 ≠ 0 → exec (.tload a t) s = .next (s.trapWith 0x0C 0 p)) ∧
    (¬ badSpace → p.toNat % 64 = 0 → badSlot → exec (.tload a t) s = .next (s.trap 0x14)) ∧
    (¬ badSpace → p.toNat % 64 = 0 → ¬ badSlot → 8 ≤ s.cur.tableQ.length →
      exec (.tload a t) s = .next (s.outcome .held)) ∧
    (¬ badSpace → p.toNat % 64 = 0 → ¬ badSlot → s.cur.tableQ.length < 8 →
      exec (.tload a t) s = .next (State.modCur { s with seq := s.seq + 1 } fun c => { c with
        tableQ := c.tableQ ++ [{ ptr := p, slot := t, rel := { mask := 0xFFFF, scope := 1, before := s.seq }, seq := s.seq }] }))

/-- 18 R386 to R389: the special functions act lane by lane in latency 8, SINPI and COSPI in 10, the enabled lanes setting
their flags; EXP2 and LOG2 are table work (11 R261), here where they meet no error. -/
def Sys2Proof.Machine.SpecialFunctionForms : Prop :=
  ∀ (s : State) (q : BitVec 3) (d a : BitVec 6) (e : BitVec 2),
    let F := if e = 1 then f16F else f32F
    let gives (i : Instr) (lat : Nat) (g : FFmt → Nat → Nat × BitVec 5) (tab : Bool) : Prop :=
      GivesFlagged i s s d.toNat F.w (2048 / F.w) (fun j => g F (elemOf F.w (s.cur.rv a) j)) (s.cur.rq q) lat tab
    gives (.rcp q d a e) 8 fnRcp false ∧ gives (.rsq q d a e) 8 fnRsq false ∧
    (s.errors = [] → gives (.exp2 q d a e) 8 fnExp2 true ∧ gives (.log2 q d a e) 8 fnLog2 true) ∧
    gives (.sinpi q d a e) 10 fnSinpi false ∧ gives (.cospi q d a e) 10 fnCospi false

/-- 18 R386 to R389: the special cases of the functions, and the values the chapter says are exact. -/
def Sys2Proof.Machine.SpecialFunctionCorners : Prop :=
  ∀ F ∈ [f16F, f32F], ∀ x : Nat,
    let inf (n : Bool) : Nat := F.withSign n (F.inf.getD 0)
    let v := F.decode x
    (∀ b, v = .nan b → ∀ g ∈ [fnRcp, fnRsq, fnExp2, fnLog2, fnSinpi, fnCospi],
      g F x = (F.nan, if b then fInvalid else 0)) ∧
    (∀ n e, v = .fin n 0 e → fnRcp F x = (inf n, fDivZero) ∧ fnRsq F x = (inf n, fDivZero) ∧
      fnLog2 F x = (inf true, fDivZero) ∧ fnSinpi F x = (F.withSign n 0, 0)) ∧
    (v = .inf false → fnRcp F x = (0, 0) ∧ fnRsq F x = (0, 0) ∧ fnExp2 F x = (inf false, 0) ∧
      fnLog2 F x = (inf false, 0) ∧ fnSinpi F x = (F.nan, fInvalid) ∧ fnCospi F x = (F.nan, fInvalid)) ∧
    (v = .inf true → fnRcp F x = (F.withSign true 0, 0) ∧ fnRsq F x = (F.nan, fInvalid) ∧ fnExp2 F x = (0, 0) ∧
      fnLog2 F x = (F.nan, fInvalid) ∧ fnSinpi F x = (F.nan, fInvalid) ∧ fnCospi F x = (F.nan, fInvalid)) ∧
    (∀ m e, v = .fin true (m + 1) e → fnRsq F x = (F.nan, fInvalid) ∧ fnLog2 F x = (F.nan, fInvalid)) ∧
    (∀ n m e, v = .fin n m e → 0 ≤ e → m ≠ 0 → fnSinpi F x = (F.withSign n 0, 0))

/-- 18 R390, 07 R170: VRAND takes 32 fresh outputs whatever q holds, leaves the generator's state after them, and sets no
flag. -/
def Sys2Proof.Machine.RandomVector : Prop :=
  ∀ (s : State) (q : BitVec 3) (d : BitVec 6) (e : BitVec 2),
    let o := rngSteps 32 s.cur.sys.rseed0 s.cur.sys.rseed1
    let t := s.modCur fun c => { c with sys := { c.sys with rseed0 := o.2.1, rseed1 := o.2.2 } }
    let k (j : Nat) : Nat := (o.1.getD j 0).toNat
    ∃ r : Line, exec (.vrand q d e) s = .next
        (t.push { dest := .line d.toNat, data := r, mask := s.cur.rq q, byLane := true, due := t.dueIn 2 }) ∧
      (e = 0 → ∀ j, j < 32 → elemOf 64 r j = k j) ∧
      (e = 1 → ∀ j, j < 128 → elemOf 16 r j =
        (roundTo f16F .rne 0 false false (k (j / 4) / 2 ^ (16 * (j % 4)) % 2 ^ 10) (-10)).1 % 2 ^ 16) ∧
      (e = 2 → ∀ j, j < 64 → elemOf 32 r j =
        (roundTo f32F .rne 0 false false (k (j / 2) / 2 ^ (32 * (j % 2)) % 2 ^ 24) (-24)).1 % 2 ^ 32)

/-- Vector logic, shifts, compares, VSEL, QOP and QFROMG: each element, byte or predicate bit. -/
def Obligations.VectorLogic : Prop :=
  VectorLogicForms ∧ VectorShiftForms ∧ VectorCompareForms ∧ VectorSelect ∧ PredicateForms

/-- Vector floating-point forms and conversions: each element rounded once, draws in order, flags of enabled elements. -/
def Obligations.VectorFloat : Prop :=
  VectorFloatForms ∧ VectorConversions

/-- Reductions, scan, permutations, broadcast, extract, tile lines and accumulator rows. -/
def Obligations.VectorAcrossLanes : Prop :=
  VectorReductions ∧ VectorScan ∧ VectorMoves

/-- TQ, TQP, TQI, TINFO and TLOAD: answers, refusals in their order, hold while busy. -/
def Obligations.Tables : Prop :=
  TableQueries ∧ TableQueryRefusals ∧ TableLoadQueues

/-- RCP, RSQ, EXP2, LOG2, SINPI, COSPI by lane with their special cases; VRAND. -/
def Obligations.SpecialFunctions : Prop :=
  SpecialFunctionForms ∧ SpecialFunctionCorners ∧ RandomVector

/-! ## Memory, atomics, synchronisation, copies and messages -/

namespace Sys2Proof.Machine

/-- Instruction `i` completes by issuing access `a`, the next in the order of issue, whose results `ps` wait for it; it
changes nothing else. -/
def Issues (i : Instr) (s : State) (a : Access) (ps : List Pend) : Prop :=
  exec i s = .next (State.modCur { s with seq := s.seq + 1 } fun c => { c with
    pend := c.pend ++ ps.map fun p => { p with due := .access s.seq, wall := 0, order := s.slotOrder }
    accesses := c.accesses ++ [{ a with id := s.seq, slot := s.curSlot, bundle := s.cur.issue }] })

/-- The parts pass their checks for `why`, in pieces `ps`; no granule holds a write, no older access of another session is to
claim a macro first, and outside a fixed region no page of them is being exchanged. -/
def Passes (s : State) (why : Purpose) (inTurn : Bool) (l : List Part) (ps : List Piece) : Prop :=
  (∃ mig, s.checkParts why inTurn l = (ps, mig, none)) ∧ (why = .write → s.granuleHold ps = false) ∧
    ps.any (s.portTaken s.curSess) = false ∧ (s.cur.fixed = false → ∀ p ∈ ps, p.mig = false)

/-- A part reaches a byte beyond the slice of the issuing core (20 R418). -/
def leavesOwn (s : State) (l : List Part) : Prop :=
  ∃ p ∈ l, s.ownPtr p.1 = false ∨ s.ownPtr (p.1 + BitVec.ofNat 64 (p.2.2 - 1)) = false

/-- Nothing keeps the pieces from being reached for a session by what was issued at number `n`: no exchange of their pages, no
change of mode, no row operation, no older claim of a macro; and no error stands in memory. -/
def ReachAt (s : State) (n sess : Nat) (ps : List Piece) : Prop :=
  ps.any (s.pieceWaitsAt n) = false ∧ ps.any (s.portTaken sess) = false ∧ s.errors = []

/-- The same for what is issued now. -/
def Reach (s : State) (sess : Nat) (ps : List Piece) : Prop := ReachAt s s.seq sess ps

/-- What a load or a store names: its address, the alignment of it, its parts, its results and its data. -/
structure Form where
  op : Instr
  addr : DWord
  align : Nat
  parts : List Part
  pends : List Pend := []
  size : Nat := 0
  sext : Bool := false
  lat : Nat := 0
  data : BitVec 32768 := 0

/-- The address of a C slot: base plus scaled offset (20 R412). -/
def based {n : Nat} (s : State) (b : BitVec 6) (o : BitVec n) (scale : DWord) : DWord :=
  s.cur.rg b + o.signExtend 64 * scale

/-- The loads with a base and an offset (20 R415, R416). -/
def loadForms (s : State) (c : BitVec 4) (d b : BitVec 6) (i : BitVec 9) (j : BitVec 6) (q : BitVec 3) : List Form :=
  let one (op : Instr) (n : Nat) (x : Bool) : Form :=
    { op := op, addr := based s b i (BitVec.ofNat 64 n), align := n, parts := [(based s b i (BitVec.ofNat 64 n), 0, n)]
      pends := [{ dest := .g d.toNat }], size := n, sext := x, lat := 6 }
  let v := based s b j 256
  let t := based s b j 4096
  [one (.ldb c d b i) 1 true, one (.ldbn c d b i) 1 false, one (.ldh c d b i) 2 true, one (.ldhn c d b i) 2 false,
   one (.ldw c d b i) 4 true, one (.ldwn c d b i) 4 false, one (.ldd c d b i) 8 false,
   { op := .vld c d b j, addr := v, align := 64, parts := [(v, 0, 256)],
     pends := [{ dest := .line d.toNat, mask := BitVec.allOnes 256 }], lat := 8 },
   { op := .vldq c q d b j, addr := v, align := 64, parts := State.maskParts v (s.cur.rq q),
     pends := [{ dest := .line d.toNat, mask := s.cur.rq q, byLane := true }], lat := 8 },
   { op := .tld c d b j, addr := t, align := 256, parts := [(t, 0, 4096)], lat := 22,
     pends := (List.range 16).map fun k =>
       { dest := .line (64 + 16 * d.toNat + k), mask := BitVec.allOnes 256, tile := true, part := k } }]

/-- The stores with a base and an offset (20 R415, R416). -/
def storeForms (s : State) (c : BitVec 4) (d b : BitVec 6) (i : BitVec 9) (j : BitVec 6) (q : BitVec 3) : List Form :=
  let one (op : Instr) (n : Nat) : Form :=
    { op := op, addr := based s b i (BitVec.ofNat 64 n), align := n, parts := [(based s b i (BitVec.ofNat 64 n), 0, n)]
      data := (s.cur.rg d).setWidth 32768 }
  let v := based s b j 256
  let t := based s b j 4096
  [one (.stb c d b i) 1, one (.sth c d b i) 2, one (.stw c d b i) 4, one (.std c d b i) 8,
   { op := .vst c d b j, addr := v, align := 64, parts := [(v, 0, 256)], data := (s.cur.rv d).setWidth 32768 },
   { op := .vstq c q d b j, addr := v, align := 64, parts := State.maskParts v (s.cur.rq q),
     data := (s.cur.rv d).setWidth 32768 },
   { op := .tst c d b j, addr := t, align := 256, parts := [(t, 0, 4096)], data := s.tileData d.toNat }]

/-- The atomics, with their operation code (20 R419). -/
def atomicForms (c : BitVec 4) (p : BitVec 2) (d b x : BitVec 6) (z : BitVec 1) : List (Instr × BitVec 3) :=
  [(.aadd c p d b x z, 0), (.amin c p d b x z, 1), (.amax c p d b x z, 2), (.axchg c p d b x z, 3),
   (.acas c p d b x z, 4), (.afadd c p d b x z, 5), (.afaddh c p d b x z, 6)]

/-- The gathers, whose elements are all aligned (20 R417). -/
def gatherForms (s : State) (c : BitVec 4) (q : BitVec 3) (d a b : BitVec 6) : List Form :=
  let one (op : Instr) (n : Nat) : Form :=
    { op := op, addr := 0, align := n, parts := (s.elemParts q b a n).flatMap (·.2), lat := 12
      pends := [{ dest := .line d.toNat, mask := s.cur.rq q, byLane := true }] }
  [one (.vgatherW c q d a b) 4, one (.vgatherD c q d a b) 8].filter fun f =>
    (s.elemParts q b a f.align).all fun e => e.1.toNat % f.align == 0

/-- A read of a fixed region takes its bytes at once, and lands in its latency (08 R197). -/
def OwnRead (s : State) (f : Form) (turn : Bool) : Prop :=
  ¬ leavesOwn s f.parts → ∀ ps, Passes s .read turn f.parts ps → (∀ p ∈ ps, ∃ h, p.home = .here h) →
  Reach s s.curSess ps → s.cur.accesses = [] → ∃ z, exec f.op s = .next z ∧
    (let v := ofBytes (s.gather (State.spanOf ps) ps [])
     z.cur.pend = s.cur.pend ++ f.pends.map fun p =>
       { p with data := State.valueOf f.size f.sext v p, due := s.dueIn f.lat, wall := s.wallOf (s.dueIn f.lat),
                order := s.slotOrder }) ∧
    z.cur.accesses = s.cur.accesses ∧ SameRegs s z ∧ SameBytes s z

/-- What a request names of a piece: its place beyond the device, which bytes of the access it is. -/
def askKey (p : Piece) : Option Home × Nat × Nat :=
  (if (State.farOf p.home).isSome then some p.home else none, p.off, p.len)

/-- The bundle of an access to peer memory in pieces `ps` waits until the far device has answered, asks anew where the translation
has changed what is asked, and takes a precise ACCESS fault where the far device has refused; where it has not, and `free` holds
of the request `g`, `lands` holds of the request and of the state after. -/
def FarWait (s : State) (op : Instr) (ps : List Piece) (free : Prop) (lands : FarRead → State → Prop) : Prop :=
  (s.cur.far = [] → s.cur.accesses = [] → ∃ z, exec op s = .next z ∧ z.cur.out = .stalled ∧
    z.cur.pend = s.cur.pend ∧ z.cur.accesses = [] ∧ SameRegs s z ∧ SameBytes s z ∧
    ((State.cutPieces ps).any s.pieceWaits = false → (State.cutPieces ps).any (s.portTaken s.curSess) = false →
      ∃ g : FarRead, z.cur.far = [g] ∧ g.slot = s.curSlot ∧ g.pieces = State.cutPieces ps ∧ g.src.asked = true)) ∧
  ∀ g : FarRead, s.cur.far = [g] → g.slot = s.curSlot →
    (g.pieces.map askKey ≠ (State.cutPieces ps).map askKey → ∃ z, exec op s = .next z ∧ z.cur.out = .stalled ∧
      z.cur.pend = s.cur.pend ∧ z.cur.far = [] ∧ SameRegs s z ∧ SameBytes s z) ∧
    (g.pieces.map askKey = (State.cutPieces ps).map askKey → s.answered g.pieces g.src.tags = false →
      ∃ z, exec op s = .next z ∧ z.cur.out = .stalled ∧
      z.cur.pend = s.cur.pend ∧ z.cur.far = [g] ∧ SameRegs s z ∧ SameBytes s z) ∧
    (g.pieces.map askKey = (State.cutPieces ps).map askKey → s.answered g.pieces g.src.tags = true →
      (∀ va, s.refusedAt g.pieces g.src.tags = some va → s.cur.pend = [] → s.cur.accesses = [] →
        s.cur.sys.tvec ≠ 0 → s.cur.hnd = false → ∃ z, exec op s = .next z ∧ z.cur.out = .trapped ∧
        z.cur.sys.eva = va ∧ z.cur.sys.epc = s.cur.pc ∧ z.cur.regs = s.cur.regs ∧ SameBytes s z) ∧
      (s.refusedAt g.pieces g.src.tags = none → free → ∃ z, exec op s = .next z ∧ z.cur.out = s.cur.out ∧
        z.cur.far = [] ∧ lands g z ∧ SameRegs s z ∧ SameBytes s z))

/-- A read that reaches peer memory, and that no access of its own bundle keeps back, lands with the bytes of the replies and of
the pieces at home. -/
def FarReads (s : State) (f : Form) (turn : Bool) : Prop :=
  ∀ ps, Passes s .read turn f.parts ps → ps.any State.isPeer = true →
    let cut := State.cutPieces ps
    FarWait s f.op ps ((∀ b ∈ s.cur.accesses, b.bundle ≠ s.cur.issue) ∧ Reach s s.curSess cut) fun g z =>
      let v := ofBytes (s.gather (State.spanOf cut) cut g.src.tags)
      z.cur.accesses = s.cur.accesses ∧
      z.cur.pend = s.cur.pend ++ f.pends.map fun p =>
        { p with data := State.valueOf f.size f.sext v p, due := s.dueIn f.lat, wall := s.wallOf (s.dueIn f.lat),
                 order := s.slotOrder, flags := 0 }

/-- Byte `x` of home memory lies in a piece. -/
def inPiece (p : Piece) (x : Nat) : Prop := ∃ a, p.home = .here a ∧ a ≤ x ∧ x < a + p.len

end Sys2Proof.Machine

/-- 20 R412, R415, R416, 08 R196, 06 R142: in a scoreboard region an aligned load that passes its checks and reads no
peer memory is issued with its results pending on it; in a fixed region a load of the own slice takes its bytes at once
and lands in its latency, a scalar one in 6. -/
def Sys2Proof.Machine.LoadForms : Prop :=
  ∀ (s : State) (c : BitVec 4) (d b : BitVec 6) (i : BitVec 9) (j : BitVec 6) (q : BitVec 3), s.InHand →
    ∀ f ∈ loadForms s c d b i j q,
    (s.cur.fixed = false → f.parts = [] ∨ f.addr.toNat % f.align = 0 → ∀ ps, Passes s .read false f.parts ps →
      ps.any State.isPeer = false →
      Issues f.op s
        { id := 0, cls := c, act := .load, own := ps.any (State.ownPiece s.curCore), pieces := State.cutPieces ps,
          size := f.size, sext := f.sext, landAt := s.now + f.lat } f.pends) ∧
    (s.cur.fixed = true → f.size ≠ 0 → ¬ leavesOwn s f.parts → f.addr.toNat % f.align = 0 → ∀ a (pc : Piece),
      pc.home = .here a → pc.off = 0 → pc.len = f.size → Passes s .read false f.parts [pc] → Reach s s.curSess [pc] →
      s.cur.accesses = [] → ∃ z, exec f.op s = .next z ∧
        z.cur.pend = s.cur.pend ++ [
          { dest := .g d.toNat, data := (extendTo f.size f.sext (s.readNat a f.size)).setWidth 2048, due := s.dueIn 6,
            wall := s.wallOf (s.dueIn 6), order := s.slotOrder }] ∧
        z.cur.accesses = s.cur.accesses ∧ SameRegs s z ∧ SameBytes s z) ∧
    (s.cur.fixed = true → f.parts = [] ∨ f.addr.toNat % f.align = 0 → OwnRead s f false)

/-- 04 R94, R99, 01 R20: a load of peer memory stalls its bundle until the far device has answered, and then lands with the
bytes of the replies, or takes a precise ACCESS fault where one was refused. -/
def Sys2Proof.Machine.PeerLoadForms : Prop :=
  ∀ (s : State) (c : BitVec 4) (d b : BitVec 6) (i : BitVec 9) (j : BitVec 6) (q : BitVec 3), s.InHand →
    ∀ f ∈ loadForms s c d b i j q, s.cur.fixed = false → f.parts = [] ∨ f.addr.toNat % f.align = 0 → FarReads s f false

/-- 20 R412, R415, R416: an aligned store that passes its checks is issued with its data; no byte changes before it
performs. -/
def Sys2Proof.Machine.StoreForms : Prop :=
  ∀ (s : State) (c : BitVec 4) (d b : BitVec 6) (i : BitVec 9) (j : BitVec 6) (q : BitVec 3), s.InHand →
    ∀ f ∈ storeForms s c d b i j q,
    f.parts = [] ∨ f.addr.toNat % f.align = 0 → ∀ ps, Passes s .write false f.parts ps →
      Issues f.op s
        { id := 0, cls := c, act := .store, own := ps.any (State.ownPiece s.curCore),
          pieces := State.cutPieces ps, data := f.data, landAt := s.now } []

/-- 20 R412, 04 R85, R88, R102, 20 R418: a load or store of one region traps where a read of a fixed region leaves the own slice,
where its address is misaligned, and where a check fails, in this order, with EVA the address at fault; a write
that would add a granule to a nearly full area is held, and so is a read of a fixed region from a macro that is to change
its mode. Where an older access of another session is to claim the macro the bundle is held or, outside a fixed region, stalls,
as it does there on a page that is being exchanged. -/
def Sys2Proof.Machine.AccessRefusals : Prop :=
  ∀ (s : State) (c : BitVec 4) (d b : BitVec 6) (i : BitVec 9) (j : BitVec 6) (q : BitVec 3) (f : Form) (why : Purpose),
    f ∈ loadForms s c d b i j q ∧ why = .read ∨ f ∈ storeForms s c d b i j q ∧ why = .write →
    let far : Prop := why = .read ∧ s.cur.fixed = true ∧ leavesOwn s f.parts
    let askew : Prop := f.parts ≠ [] ∧ f.addr.toNat % f.align ≠ 0
    let r := s.checkParts why false f.parts
    (far → exec f.op s = .next (s.trapWith 0x04 3 0)) ∧
    (¬ far → askew → exec f.op s = .next (s.trapWith 0x0C 0 f.addr)) ∧
    (¬ far → ¬ askew → ∀ x, r.2.2 = some x → exec f.op s = .next (s.trapWith x.code 0 x.eva)) ∧
    (¬ far → ¬ askew → r.2.2 = none → why = .write → s.granuleHold r.1 = true → exec f.op s = .next (s.outcome .held)) ∧
    (¬ far → ¬ askew → r.2.2 = none → why = .read → s.cur.fixed = true → r.1.any s.switching = true →
      exec f.op s = .next (s.outcome .held)) ∧
    (¬ far → ¬ askew → r.2.2 = none → s.cur.fixed = true → r.1.any (s.portTaken s.curSess) = true →
      exec f.op s = .next (s.outcome .held)) ∧
    (¬ far → ¬ askew → r.2.2 = none → s.cur.fixed = false → (why = .write → s.granuleHold r.1 = false) →
      (∃ p ∈ r.1, p.mig = true) ∨ r.1.any (s.portTaken s.curSess) = true → exec f.op s = .next (s.outcome .stalled))

/-- 20 R417, R418, 04 R85: a gather or scatter whose enabled elements are all aligned and pass is issued as one access: a
gather of a fixed region takes its bytes at once, and one from peer memory waits as a load does. A gather of a fixed
region that leaves the own slice traps; then, of the elements in order, the first check that fails or the first misaligned
address decides; a scatter that would add a granule to a nearly full area is held. Where the spec leaves a point open,
this states the choice of the model: log entries 12 and 24. -/
def Obligations.GatherScatterForms : Prop :=
  ∀ (s : State) (c : BitVec 4) (q : BitVec 3) (d a b : BitVec 6), s.InHand →
    (∀ f ∈ gatherForms s c q d a b, (s.cur.fixed = true → OwnRead s f true) ∧ (s.cur.fixed = false → FarReads s f true)) ∧
    ∀ f ∈ [(Instr.vgatherW c q d a b, true, 4), (Instr.vgatherD c q d a b, true, 8),
      (Instr.vscatterW c q d a b, false, 4), (Instr.vscatterD c q d a b, false, 8)],
    let els := s.elemParts q b a f.2.2
    let why : Purpose := if f.2.1 then .read else .write
    let parts := els.flatMap (·.2)
    let leaves : Prop := f.2.1 = true ∧ s.cur.fixed = true ∧ leavesOwn s parts
    (leaves → exec f.1 s = .next (s.trapWith 0x04 3 0)) ∧
    (¬ leaves → (∀ e ∈ els, e.1.toNat % f.2.2 = 0) → ∀ ps, Passes s why true parts ps →
      (f.2.1 = true → s.cur.fixed = false → ps.any State.isPeer = false →
        Issues f.1 s
          { id := 0, cls := c, act := .load, own := ps.any (State.ownPiece s.curCore), pieces := State.cutPieces ps,
            landAt := s.now + 12 } [{ dest := .line d.toNat, mask := s.cur.rq q, byLane := true }]) ∧
      (f.2.1 = false →
        Issues f.1 s
          { id := 0, cls := c, act := .store, own := ps.any (State.ownPiece s.curCore), pieces := State.cutPieces ps,
            data := (s.cur.rv d).setWidth 32768, landAt := s.now } [])) ∧
    (¬ leaves → ∀ l r, els = l ++ r → (∀ x ∈ l, x.1.toNat % f.2.2 = 0) → (∀ e, r.head? = some e → e.1.toNat % f.2.2 ≠ 0) →
      let k := s.checkParts why true (l.flatMap (·.2))
      (∀ x, k.2.2 = some x → exec f.1 s = .next (s.trapWith x.code 0 x.eva)) ∧
      (k.2.2 = none → ∀ e, r.head? = some e → exec f.1 s = .next (s.trapWith 0x0C 0 e.1)) ∧
      (k.2.2 = none → r = [] → f.2.1 = false → s.granuleHold k.1 = true → exec f.1 s = .next (s.outcome .held)) ∧
      (k.2.2 = none → r = [] → f.2.1 = true → s.cur.fixed = true → k.1.any s.switching = true →
        exec f.1 s = .next (s.outcome .held)))

/-- 06 R137, 20 R416: the parts of a masked vector access are the enabled bytes of its 256, each at its own address. -/
def Sys2Proof.Machine.MaskedAccessBytes : Prop :=
  ∀ (p : DWord) (q : QReg) (j : Nat), j < 256 →
    (q.getLsbD j = true ↔ ∃ r ∈ State.maskParts p q, r.2.1 ≤ j ∧ j < r.2.1 + r.2.2) ∧
    ∀ r ∈ State.maskParts p q, r.1 = p + BitVec.ofNat 64 r.2.1 ∧ 0 < r.2.2 ∧ r.2.1 + r.2.2 ≤ 256

/-- 20 R419, 08 R197, R204, 04 R85: an aligned atomic that passes its checks is issued in a scoreboard region, waits for the
far device where it reaches peer memory, and acts at once in a fixed region; what refuses one, in its order; the
operations' new values; what gd receives. -/
def Sys2Proof.Machine.AtomicForms : Prop :=
  (∀ (s : State) (c : BitVec 4) (p : BitVec 2) (d b x : BitVec 6) (z : BitVec 1), s.InHand →
    ∀ f ∈ atomicForms c p d b x z,
    let n := if f.2 = 6 then 2 else if z = 1 then 8 else 4
    let a := s.cur.rg b
    let leaves : Prop := s.cur.fixed = true ∧ leavesOwn s [(a, 0, n)]
    let r := s.checkParts .write false [(a, 0, n)]
    (leaves → exec f.1 s = .next (s.trapWith 0x04 3 0)) ∧
    (¬ leaves → a.toNat % n ≠ 0 → exec f.1 s = .next (s.trapWith 0x0C 0 a)) ∧
    (¬ leaves → a.toNat % n = 0 → ∀ y, r.2.2 = some y → exec f.1 s = .next (s.trapWith y.code 0 y.eva)) ∧
    (¬ leaves → a.toNat % n = 0 → r.2.2 = none → s.granuleHold r.1 = true ∨ (s.cur.fixed = true ∧ (r.1.any s.switching = true ∨ r.1.any (s.portTaken s.curSess) = true)) →
      exec f.1 s = .next (s.outcome .held)) ∧
    (¬ leaves → a.toNat % n = 0 → r.2.2 = none → s.granuleHold r.1 = false → s.cur.fixed = false →
      (∃ p ∈ r.1, p.mig = true) ∨ r.1.any (s.portTaken s.curSess) = true → exec f.1 s = .next (s.outcome .stalled)) ∧
    (¬ leaves → a.toNat % n = 0 → ∀ ps, Passes s .write false [(a, 0, n)] ps →
      (s.cur.fixed = false → ps.any State.isPeer = false →
        Issues f.1 s
          { id := 0, cls := c, act := .atomic f.2 (z == 1) (s.cur.rg x) (s.cur.rg d),
            own := ps.any (State.ownPiece s.curCore), pieces := State.cutPieces ps, landAt := s.now + 10 }
          [{ dest := .g d.toNat }]) ∧
      (s.cur.fixed = false → ps.any State.isPeer = true → FarWait s f.1 ps True fun _ t =>
        t.cur.accesses = s.cur.accesses ++ [
          { id := s.seq, cls := c, act := .atomic f.2 (z == 1) (s.cur.rg x) (s.cur.rg d),
            own := ps.any (State.ownPiece s.curCore), pieces := State.cutPieces ps, landAt := s.now + 10, slot := s.curSlot,
            bundle := s.cur.issue }] ∧
        t.cur.pend = s.cur.pend ++ [{ dest := .g d.toNat, due := .access s.seq, order := s.slotOrder }]) ∧
      (s.cur.fixed = true → MemOk s → s.cur.accesses = [] → ∀ (pc : Piece) (h : Nat), ps = [pc] → pc.home = .here h →
        pc.len = n → pc.off = 0 → Reach s s.curSess [pc] →
        let old := s.readNat h n
        let w := atomNew f.2 (z == 1) old (s.cur.rg x).toNat (s.cur.rg d).toNat
        ∃ t, exec f.1 s = .next t ∧
          (∀ k, k < n → t.byteAt (h + k) = BitVec.ofNat 8 (w.1 / 2 ^ (8 * k))) ∧
          (∀ k, k < h ∨ h + n ≤ k → t.byteAt k = s.byteAt k) ∧ SameRegs s t ∧ t.cur.accesses = [] ∧
          t.cur.pend = s.cur.pend ++
            [{ dest := .g d.toNat, data := (atomOld f.2 (z == 1) old).setWidth 2048, due := s.dueIn 10,
               wall := s.wallOf (s.dueIn 10), order := s.slotOrder, flags := w.2 }]))) ∧
  ∀ (old x y : Nat) (z : Bool),
    let w := if z then 64 else 32
    let u := x % 2 ^ w
    (old < 2 ^ w →
      atomNew 0 z old x y = ((old + u) % 2 ^ w, 0) ∧
      atomNew 1 z old x y = (if signed w u < signed w old then u else old, 0) ∧
      atomNew 2 z old x y = (if signed w old < signed w u then u else old, 0) ∧
      atomNew 3 z old x y = (u, 0) ∧ atomNew 4 z old x y = (if old = y % 2 ^ w then u else old, 0) ∧
      atomNew 5 z old x y =
        (let F := if z then f64F else f32F; (faddV .rne (F.decode old) (F.decode u)).put F .rne 0 false) ∧
      (∀ k : BitVec 3, k.toNat ≤ 4 → atomOld k z old = BitVec.ofInt 64 (signed w old)) ∧
      atomOld 5 z old = BitVec.ofNat 64 old) ∧
    (old < 2 ^ 16 →
      atomNew 6 z old x y =
        (let F := if z then bf16F else f16F; (faddV .rne (F.decode old) (F.decode (x % 2 ^ 16))).put F .rne 0 false) ∧
      atomOld 6 z old = BitVec.ofNat 64 old)

/-- 20 R420, 08 R201: FENCE is issued as an access of its classes and scope; one of no class waits for
nothing and holds nothing; the second of a bundle joins the first. -/
def Sys2Proof.Machine.FenceForms : Prop :=
  ∀ (s : State) (m : BitVec 16) (p : BitVec 2), s.InHand →
    (∀ a b : Access, a.act = .fence 0 p →
      State.blocks a b = false ∧ State.blocks b a = false ∧ State.awaitsAck b a = false) ∧
    (s.curSlot ≠ 7 ∨ (∀ a, s.cur.accesses.getLast? = some a → a.bundle ≠ s.cur.issue) →
      Issues (.fence m p) s { id := 0, cls := 0, act := .fence m p } []) ∧
    (s.curSlot = 7 → ∀ l a n r, s.cur.accesses = l ++ [a] → (∀ x ∈ l, x.id ≠ a.id) → a.act = .fence n r →
      a.bundle = s.cur.issue →
      exec (.fence m p) s = .next (s.modCur fun c => { c with
        accesses := l ++ [{ a with act := .fence (m ||| n) (if p.toNat < r.toNat then r else p) }] }))

/-- 20 R421, R426, 12 R267: WAITW and COPYW complete when their condition holds, and block the bundle when not; WAITW may
park its strand, also where its word cannot be reached. COPYW sees the identifiers of before its bundle. -/
def Sys2Proof.Machine.WaitForms : Prop :=
  ∀ (s : State) (c : BitVec 4) (k : BitVec 3) (v b : BitVec 6) (a : BitVec 4), s.InHand →
    let p := s.cur.rg b
    (s.cur.parkMet = true ∨ s.curSlot ∈ s.cur.met → exec (.waitw c k v b) s = .next s) ∧
    (s.cur.parkMet = false → s.curSlot ∉ s.cur.met →
      (p.toNat % 8 ≠ 0 → exec (.waitw c k v b) s = .next (s.trapWith 0x0C 0 p)) ∧
      (p.toNat % 8 = 0 → ∀ h (pc : Piece) mig, s.checkAccess s.curSess .read p 8 = ([pc], mig, none) →
        pc.home = .here h → Reach s s.curSess [pc] → s.cur.accesses = [] →
        (cond k (BitVec.ofNat 64 (s.readNat h 8)) (s.cur.rg v) = true → ∃ z, exec (.waitw c k v b) s = .next z ∧
          z.cur = s.cur ∧ SameRegs s z ∧ SameBytes s z) ∧
        (cond k (BitVec.ofNat 64 (s.readNat h 8)) (s.cur.rg v) = false → ∃ z, exec (.waitw c k v b) s = .next z ∧
          z.cur.out = .blocked true ∧ (s.curSlot, ParkCond.waitw pc.va k (s.cur.rg v)) ∈ z.cur.conds ∧
          SameRegs s z ∧ SameBytes s z)) ∧
      (p.toNat % 8 = 0 → ∀ ps mig, s.checkAccess s.curSess .read p 8 = (ps, mig, none) → ps.any s.pieceWaits = true →
        ∃ z, exec (.waitw c k v b) s = .next z ∧ z.cur.out = .blocked true ∧
          (s.curSlot, ParkCond.waitw p k (s.cur.rg v)) ∈ z.cur.conds ∧ SameRegs s z ∧ SameBytes s z)) ∧
    (s.curSlot ∉ s.cur.met → ∀ m : BitVec 1,
      let y := (s.cur.before.map (·.sys)).getD s.cur.sys
      let wmk := (if m = 0 then y.wmk0 else y.wmk1).toNat % 2 ^ 32
      let next := (if m = 0 then y.tidn0 else y.tidn1).toNat % 2 ^ 32
      let t := (s.cur.rg (a.setWidth 6)).toNat % 2 ^ 32
      let since (x : Nat) : Nat := (x + 2 ^ 33 - wmk - 1) % 2 ^ 32
      (since next ≤ since t → exec (.copyw m a) s = .next s) ∧
      (since t < since next → exec (.copyw m a) s = .next (s.outcome (.blocked false))))

/-- 20 R427, 12 R273: the barrier updates are issued as accesses of their class; BARWAIT completes when the phase has
turned, traps on a poisoned or overrun barrier, and blocks otherwise; the checks come first. -/
def Sys2Proof.Machine.BarrierForms : Prop :=
  ∀ (s : State) (c : BitVec 4) (d b : BitVec 6) (i : BitVec 9), s.InHand →
    let p := s.cur.rg b + i.signExtend 64 * 16
    ∀ f ∈ [(Instr.barinit c d b i, Act.barInit ((s.cur.rg d).setWidth 32)),
      (Instr.barexp c d b i, Act.barExp ((s.cur.rg d).setWidth 32)), (Instr.bararv c b i, Act.barArv)],
    (p.toNat % 16 ≠ 0 → exec f.1 s = .next (s.trapWith 0x0C 0 p)) ∧
    (p.toNat % 16 = 0 → p.toNat / 2 ^ 60 ≠ 1 → exec f.1 s = .next (s.trapWith 0x05 0 p)) ∧
    (s.curSlot ∉ s.cur.met → p.toNat % 16 ≠ 0 → exec (.barwait c d b i) s = .next (s.trapWith 0x0C 0 p)) ∧
    (s.curSlot ∉ s.cur.met → p.toNat % 16 = 0 → p.toNat / 2 ^ 60 ≠ 1 →
      exec (.barwait c d b i) s = .next (s.trapWith 0x05 0 p)) ∧
    (p.toNat % 16 = 0 → p.toNat / 2 ^ 60 = 1 → ∀ ps mig, s.checkAccess s.curSess .write p 16 = (ps, mig, none) →
      (s.granuleHold ps = true → exec f.1 s = .next (s.outcome .held)) ∧
      (s.granuleHold ps = false →
        Issues f.1 s
          { id := 0, cls := c, act := f.2, own := ps.any (State.ownPiece s.curCore),
            pieces := State.cutPieces ps, landAt := s.now } []) ∧
      ∀ h (pc : Piece), ps = [pc] → pc.home = .here h → Reach s s.curSess [pc] → s.cur.accesses = [] →
        s.curSlot ∉ s.cur.met →
        let x := s.readNat h 16
        let turned : Prop := Bar.phase x ≠ (s.cur.rg d).toNat % 2
        (turned → ∃ z, exec (.barwait c d b i) s = .next z ∧ z.cur = s.cur ∧ SameRegs s z ∧ SameBytes s z) ∧
        (¬ turned → 2 ≤ Bar.state x → exec (.barwait c d b i) s = .next (s.trap 0x0F)) ∧
        (¬ turned → Bar.state x < 2 → ∃ z, exec (.barwait c d b i) s = .next z ∧ z.cur.out = .blocked false ∧
          SameRegs s z ∧ SameBytes s z))

/-- 12 R270, R271: the fields of a barrier after each update: BarInit, BarExp, BarArv, Report and Poison. -/
def Sys2Proof.Machine.BarrierUpdates : Prop :=
  ∀ b n : Nat, b < 2 ^ 128 → n < 2 ^ 32 →
    let checked (r : Nat) (P : Int) (E A st : Nat) : Prop :=
      Bar.pending r = P ∧ Bar.expected r = E ∧ Bar.arrived r = A ∧
      (if st = 0 ∧ P = 0 ∧ A = E then Bar.state r = 1 ∧ Bar.phase r = 1 - Bar.phase b
        else Bar.state r = st ∧ Bar.phase r = Bar.phase b)
    let st := if b / 2 ^ 99 ≠ 0 ∧ Bar.state b ≠ 3 then 2 else Bar.state b
    let bump (r : Nat) (v : Int) : Prop :=
      checked r (max (-(2 ^ 31)) (min v (2 ^ 31 - 1))) (Bar.expected b) (Bar.arrived b)
        (if v < 0 ∨ 2 ^ 31 - 1 < v then 3 else st)
    (checked (Bar.init b n) 0 n 0 0 ∧ Bar.init b n / 2 ^ 99 = 0) ∧
    bump (Bar.exp b n) (Bar.pending b + n) ∧ bump (Bar.report b n) (Bar.pending b - n) ∧
    (Bar.arrived b + 1 < 2 ^ 32 → checked (Bar.arv b) (Bar.pending b) (Bar.expected b) (Bar.arrived b + 1)
      (if Bar.expected b < Bar.arrived b + 1 then 3 else st)) ∧
    (Bar.pending (Bar.poison b) = Bar.pending b ∧ Bar.expected (Bar.poison b) = Bar.expected b ∧
      Bar.arrived (Bar.poison b) = Bar.arrived b ∧ Bar.phase (Bar.poison b) = Bar.phase b ∧
      Bar.state (Bar.poison b) = if Bar.state b = 3 then 3 else 2)

namespace Sys2Proof.Machine

/-- The event in hand performs access `a` of context `x` of core `c`, whose turn has come, at home, with nothing in its way, in no
macro that another session has claimed since (04 R88, 08 R193, R196). -/
def Performs (s : State) (c x id : Nat) (a : Access) : Prop :=
  c < 128 ∧ x < 4 ∧ s.arg.core = c ∧ s.arg.ctx = x ∧ s.arg.n = id ∧
    (s.ctx c x).accesses.find? (·.id == id) = some a ∧ a.id = id ∧ a.posted = false ∧ a.src.asked = false ∧
    State.inOrder (s.ctx c x) a = true ∧
    (let sess := (((s.ctx c x).strand.bind s.strand?).map (·.sess)).getD 0
     ReachAt s id sess a.pieces ∧ s.claimedAway sess a.pieces = none) ∧
    ∀ p ∈ a.pieces, ∃ h, p.home = .here h

end Sys2Proof.Machine

/-- 08 R193, R196, 20 R415, R416: ACCESS_PERFORM of a load whose turn has come gives its results the bytes at home and
retires it; no byte changes. -/
def Sys2Proof.Machine.LoadPerforms : Prop :=
  ∀ (s : State) (c x id : Nat) (a : Access), Performs s c x id a → a.act = .load →
    let t := s.ctx c x
    let v := ofBytes (s.gather (State.spanOf a.pieces) a.pieces [])
    let val (p : Pend) : Line :=
      if a.size ≠ 0 then (extendTo a.size a.sext v).setWidth 2048 else BitVec.ofNat 2048 (v / 2 ^ (2048 * p.part))
    let at_ := max a.landAt s.now
    ∃ z, exec .accessPerform s = .next z ∧ SameBytes s z ∧
      (z.ctx c x).pend = (t.pend.map fun p => if p.due = .access id then
        { p with data := val p, due := .cycle at_, wall := at_, flags := 0 } else p) ∧
      (z.ctx c x).accesses = t.accesses.filter (·.id != id) ∧ (z.ctx c x).regs = t.regs ∧ (z.ctx c x).sys = t.sys

/-- 08 R193, 20 R415, R416: ACCESS_PERFORM of a store whose turn has come writes the bytes of its data to its pieces, and
no other byte of memory changes. -/
def Sys2Proof.Machine.StorePerforms : Prop :=
  ∀ (s : State) (c x id : Nat) (a : Access), Performs s c x id a → a.act = .store → MemOk s →
    let t := s.ctx c x
    a.pieces.Pairwise (fun p r => ∀ y, ¬ (inPiece p y ∧ inPiece r y)) →
    ∃ z, exec .accessPerform s = .next z ∧ (z.ctx c x).accesses = t.accesses.filter (·.id != id) ∧
      (z.ctx c x).regs = t.regs ∧ (z.ctx c x).pend = t.pend ∧
      (∀ p ∈ a.pieces, ∀ h, p.home = .here h → ∀ k, k < p.len →
        z.byteAt (h + k) = a.data.extractLsb' (8 * (p.off + k)) 8) ∧
      ∀ y, (∀ p ∈ a.pieces, ¬ inPiece p y) → z.byteAt y = s.byteAt y

/-- 20 R419, 08 R193, 01 R20: ACCESS_PERFORM of an atomic at home writes the new value, gives gd the old one, and changes no
other byte; of one of peer memory whose reply has come it gives gd the old value and the flags, and changes no byte here. -/
def Sys2Proof.Machine.AtomicPerforms : Prop :=
  (∀ (s : State) (c x id : Nat) (a : Access) (op : BitVec 3) (sz : Bool) (v y : DWord) (pc : Piece) (l h : Nat)
      (b : List Byte) (old : DWord),
    c < 128 → x < 4 → s.arg.core = c → s.arg.ctx = x → s.arg.n = id →
    let t := s.ctx c x
    t.accesses.find? (·.id == id) = some a → a.id = id → a.posted = false → State.inOrder t a = true →
    a.act = .atomic op sz v y → a.pieces = [pc] → pc.home = .peer l h → pc.mig = false → a.src.asked = true →
    s.answered a.pieces a.src.tags = true → s.refusedAt a.pieces a.src.tags = none →
    s.replyOf pc ((a.src.tags.head?).join) = some (0, b, old) →
    let at_ := max a.landAt s.now
    ∃ z, exec .accessPerform s = .next z ∧ SameBytes s z ∧
      (z.ctx c x).accesses = t.accesses.filter (·.id != id) ∧ (z.ctx c x).regs = t.regs ∧
      (z.ctx c x).pend = t.pend.map fun p => if p.due = .access id then
        { p with data := (atomOld op sz old.toNat).setWidth 2048, due := .cycle at_, wall := at_,
                 flags := (atomNew op sz old.toNat v.toNat y.toNat).2 }
        else p) ∧
  ∀ (s : State) (c x id : Nat) (a : Access) (op : BitVec 3) (sz : Bool) (v y : DWord) (h : Nat) (pc : Piece),
    Performs s c x id a → a.act = .atomic op sz v y → MemOk s →
    let t := s.ctx c x
    let n := atomSize op sz
    a.pieces = [pc] → pc.home = .here h → pc.len = n →
    let old := s.readNat h n
    let r := atomNew op sz old v.toNat y.toNat
    let at_ := max a.landAt s.now
    ∃ z, exec .accessPerform s = .next z ∧
      (∀ k, k < n → z.byteAt (h + k) = BitVec.ofNat 8 (r.1 / 2 ^ (8 * k))) ∧
      (∀ k, k < h ∨ h + n ≤ k → z.byteAt k = s.byteAt k) ∧
      (z.ctx c x).accesses = t.accesses.filter (·.id != id) ∧ (z.ctx c x).regs = t.regs ∧
      (z.ctx c x).pend = t.pend.map fun p => if p.due = .access id then
        { p with data := (atomOld op sz old).setWidth 2048, due := .cycle at_, wall := at_, flags := r.2 }
        else p

/-- 12 R262, R267, 20 R422: a copy command takes the next identifier of its channel and enters its queue with what it
read; a full queue, or entries that wait to come back, hold the bundle. -/
def Sys2Proof.Machine.CopyCommandsQueue : Prop :=
  ∀ (s : State) (c : BitVec 4) (p : BitVec 2) (m : BitVec 1) (a b g h : BitVec 4), s.InHand →
    let r (n : BitVec 4) : DWord := s.cur.rg (n.setWidth 6)
    ∀ f ∈ [(Instr.copy c p a b h, CopyKind.copy, (0 : DWord), false, none),
      (Instr.copyt c p a b g h, CopyKind.copyt, 0, false, some (r g).toNat),
      (Instr.copyx c p m a b g h, CopyKind.copyx, r g, m == 1, none),
      (Instr.copyg c p a b g h, CopyKind.copyg, r g, false, none),
      (Instr.copysa c p m a b g h, CopyKind.copysa, r g, m == 1, none)],
    let n := if s.curSlot = 7 then 1 else 0
    let tid := (if n = 1 then s.cur.sys.tidn1 else s.cur.sys.tidn0).toNat % 2 ^ 32
    let full : Prop := (if n = 1 then s.cur.repush1 else s.cur.repush0) ≠ [] ∨ s.repushWaits s.curCore n = true ∨ 16 ≤ (s.chan s.curCore n).queue.length
    (full → exec f.1 s = .next (s.outcome .held)) ∧
    (¬ full → ∃ z, exec f.1 s = .next z ∧
      (z.chan s.curCore n).queue = (s.chan s.curCore n).queue ++
        [{ kind := f.2.1, age := s.curAge, sess := s.curSess, tid := tid, dst := r a, src := r b, aux := f.2.2.1,
           mode := f.2.2.2.1, shape := s.cur.rshp h.toNat, issueCyc := s.cyc.toNat, time := f.2.2.2.2,
           rel := { mask := 1 <<< c.toNat, scope := p, before := s.seq } }] ∧
      z.cur.sys = (if n = 1 then { s.cur.sys with tidn1 := BitVec.ofNat 64 ((tid + 1) % 2 ^ 32) }
        else { s.cur.sys with tidn0 := BitVec.ofNat 64 ((tid + 1) % 2 ^ 32) }) ∧
      z.cur.regs = s.cur.regs ∧ z.cur.pend = s.cur.pend ∧ z.cur.accesses = s.cur.accesses ∧ SameBytes s z)

/-- 05 R133, R134, 01 R14, 20 R413, R428, R429: SEND consumes a credit and is issued as a write of its class; RECV of a session
with a peer pops the oldest message of its queue, or claims an unowned queue; each waits or traps as the rules say, leaving the
credits and messages that other waiting bundles have seen, and over a link that is down it blocks and its session ends. -/
def Sys2Proof.Machine.MessageForms : Prop :=
  ∀ (s : State) (c l q : BitVec 4) (v g : BitVec 6), s.InHand →
    let core := (s.cur.rg g).toNat % 128
    let peer := ((s.session? s.curSess).map (·.peer)).getD false
    let gone (i : Instr) : Prop := ∃ z, exec i s = .next z ∧ z.cur.out = .blocked false ∧
      z.agenda = .event .sessionKill { sess := s.curSess } :: s.agenda ∧ z.cur.regs = s.cur.regs ∧ SameBytes s z
    ((s.link l.toNat).up = false → gone (.send c l q v g) ∧ (peer = true → gone (.recv c l q v))) ∧
    (peer = false → exec (.recv c l q v) s = .next (s.trap 0x07)) ∧
    ((s.link l.toNat).up = true →
      (s.credit? l.toNat core q.toNat = none → exec (.send c l q v g) s = .next (s.outcome (.blocked false))) ∧
      (∀ k, s.credit? l.toNat core q.toNat = some k →
        (k.owner ≠ s.curSess → exec (.send c l q v g) s = .next (s.trap 0x07)) ∧
        (k.owner = s.curSess → k.count ≤ s.kept true l.toNat core q.toNat → exec (.send c l q v g) s = .next (s.outcome (.blocked false))) ∧
        (k.owner = s.curSess → s.kept true l.toNat core q.toNat < k.count → ∃ z, exec (.send c l q v g) s = .next z ∧
          z.credits = (s.credits.map fun j => if j = k then { j with count := j.count - 1 } else j) ∧
          (∃ a : Access, z.cur.accesses = s.cur.accesses ++ [a] ∧ a.id = s.seq ∧ a.cls = c ∧
            a.act = .send l q (BitVec.ofNat 7 core) ∧ a.data = (s.cur.rv v).setWidth 32768) ∧
          z.cur.regs = s.cur.regs ∧ z.cur.pend = s.cur.pend ∧ SameBytes s z)) ∧
      (peer = true → s.queue? l.toNat s.curCore q.toNat = none → ∃ z, exec (.recv c l q v) s = .next z ∧
        z.recvQueues = s.recvQueues ++ [{ link := l.toNat, core := s.curCore, rq := q.toNat, owner := s.curSess }] ∧
        z.cur.out = .blocked false ∧ z.cur.regs = s.cur.regs ∧ SameBytes s z) ∧
      ∀ k, peer = true → s.queue? l.toNat s.curCore q.toNat = some k →
        (k.owner ≠ s.curSess → exec (.recv c l q v) s = .next (s.trap 0x07)) ∧
        (k.owner = s.curSess → k.msgs.length ≤ s.kept false l.toNat s.curCore q.toNat ∨ s.classFree c .recv [] = false →
          exec (.recv c l q v) s = .next (s.outcome (.blocked false))) ∧
        ∀ m r, k.owner = s.curSess → k.msgs = m :: r → s.kept false l.toNat s.curCore q.toNat < k.msgs.length →
          s.classFree c .recv [] = true →
          ∃ z, exec (.recv c l q v) s = .next z ∧
          (∀ j ∈ z.recvQueues, j.link = k.link → j.core = k.core → j.rq = k.rq → j.msgs = r) ∧
          z.cur.pend = s.cur.pend ++
            [{ dest := .line v.toNat, data := m, mask := BitVec.allOnes 256, due := s.dueIn 4,
               wall := s.wallOf (s.dueIn 4), order := s.slotOrder }] ∧
          z.cur.regs = s.cur.regs ∧ SameBytes s z)

/-- Loads and stores: issued with what they need, taken at once in a fixed region, refused in the order of their checks.
Where the spec leaves a point open, this states the choice of the model: log entries 12, 24 and 25. -/
def Obligations.LoadStoreForms : Prop :=
  LoadForms ∧ StoreForms ∧ PeerLoadForms ∧ AccessRefusals

/-- Atomics: issue, fixed regions, peer memory, refusals; the new value of each operation, the old one to gd, no other byte.
Where the spec leaves a point open, this states the choice of the model: log entries 12, 23 and 24. -/
def Obligations.Atomics : Prop :=
  AtomicForms ∧ AtomicPerforms

/-- FENCE, WAITW, COPYW and the barrier instructions: issue, completion, block, trap; the barrier fields after an update.
Where the spec leaves a point open, this states the choice of the model: log entries 22, 24 and 66. -/
def Obligations.FencesWaitsBarriers : Prop :=
  FenceForms ∧ WaitForms ∧ BarrierForms ∧ BarrierUpdates

/-- A load or store performs: the bytes at home, the enabled bytes of a masked access, and no other byte of memory.
Where the spec leaves a point open, this states the choice of the model: log entries 24 and 25. -/
def Obligations.AccessesPerform : Prop :=
  MaskedAccessBytes ∧ LoadPerforms ∧ StorePerforms

/-- Copy commands enter their queue or hold; SEND and RECV move messages, wait or trap. Where the spec leaves a point
open, this states the choice of the model: log entries 22, 31 and 66. -/
def Obligations.CopyAndMessages : Prop :=
  CopyCommandsQueue ∧ MessageForms

/-! ## The M slot -/

namespace Sys2Proof.Machine

/-- The operations of the M slot, with the stream and the barrier dependence that the hazard monitor looks at. -/
def mForms (x : BitVec 2) (r : BitVec 12) (f : BitVec 4) (b : BitVec 1) (l : BitVec 3) (m : BitVec 4) (d : BitVec 1)
    (u v : BitVec 5) (rx : BitVec 3) (w : BitVec 2) : List (Instr × Nat × Bool) :=
  [(.mcall x r f b, x.toNat, b == 1), (.msync x, x.toNat, false), (.mreload x, x.toNat, false),
   (.mflip x l m, x.toNat, false), (.mswitch x l m d, x.toNat, false), (.mload x, x.toNat, false), (.mlock d, 0, false),
   (.bfly u v rx w d, 0, false), (.tperm u v d, 0, false)]

/-- The hazard monitor lets an M-slot operation pass (09 R238). -/
def Calm (s : State) (st : Nat) (bd : Bool) : Prop :=
  s.cur.locked = false ∨ (st = 0 ∧ bd = false ∧ ∀ i, s.cur.lastM = some i → i + 8 ≤ s.cur.issue)

/-- Bits `[hi:lo]` of a register. -/
def rb (x : DWord) (hi lo : Nat) : Nat := bits x.toNat hi lo

/-- The arrays of a column that a layer mask and a macro number name. -/
def arraysOf (mask m : Nat) : List Nat := ((List.range 8).filter fun l => mask.testBit l).map fun l => l * 16 + m

/-- What MCALL checks of its registers and of the slice (09 R221 to R226, 19 R393); `d` is the routine's entry. -/
def CallOk (s : State) (rt : Nat) (fmt : DWord) (bd : Bool) (d : DirEntry) : Prop :=
  let m0 := s.cur.rm 0
  let m1 := s.cur.rm 1
  let m2 := s.cur.rm 2
  let af := rb fmt 3 0
  let wf := rb fmt 7 4
  let arrs := arraysOf (rb m1 11 4) (rb m1 3 0)
  let nl := (layersOf (rb m1 11 4)).length
  let a := State.actSpan m0 fmt d.n
  let b := State.actScaleSpan m0 fmt nl d.n
  let o := if !m2.getLsbD 6 then none
    else if d.loaded then outSpan d.outs (rb m2 35 12) (codeBits (rb fmt 11 8)) else some (0, Config.sliceBytes)
  rb m0 63 55 = 0 ∧ rb m1 63 12 = 0 ∧ rb m2 36 36 = 0 ∧ rb fmt 15 14 = 0 ∧ actCode af = true ∧ wtCode wf = true ∧
  outCode (rb fmt 11 8) = true ∧ ¬ (isDx af = true ∧ isDx wf = true) ∧
  ¬ (fmt.getLsbD 12 = true ∧ isBlock af = true) ∧ ¬ (fmt.getLsbD 13 = true ∧ isBlock wf = true) ∧
  s.dirEntry? s.curCore rt s.curSess = some d ∧ s.foreignArr arrs = false ∧ s.inStorage arrs = false ∧
  State.pastSlice a = false ∧ State.pastSlice b = false ∧ State.pastSlice o = false ∧
  (bd = true → rb m2 63 57 < s.ncores) ∧ ∀ g ∈ State.groupsOf a, g ∉ State.groupsOf b

end Sys2Proof.Machine

/-- 09 R238: in a locked context an M-slot operation of another stream than 0, of a barrier dependence, or within eight
issue cycles of the last raises HAZARD; MLOCK set in a scoreboard region does too. -/
def Sys2Proof.Machine.HazardMonitor : Prop :=
  ∀ (s : State) (x : BitVec 2) (r : BitVec 12) (f : BitVec 4) (b : BitVec 1) (l : BitVec 3) (m : BitVec 4)
    (d : BitVec 1) (u v : BitVec 5) (rx : BitVec 3) (w : BitVec 2),
    (∀ i ∈ mForms x r f b l m d u v rx w, s.cur.locked = true →
      i.2.1 ≠ 0 ∨ i.2.2 = true ∨ (∃ k, s.cur.lastM = some k ∧ s.cur.issue < k + 8) →
      exec i.1 s = .next (s.trap 0x11)) ∧
    (Calm s 0 false → s.cur.fixed = false → s.InHand → exec (.mlock 1) s = .next (s.trap 0x11))

/-- 09 R217 to R229, 19 R393: an MCALL that passes its checks enters its stream with its copies of the registers, and
claims its rows and tiles until its landing cycle; a full stream blocks the bundle. -/
def Sys2Proof.Machine.MatrixCallQueues : Prop :=
  ∀ (s : State) (x : BitVec 2) (r : BitVec 12) (f : BitVec 4) (b : BitVec 1) (d : DirEntry), s.InHand →
    Calm s x.toNat (b == 1) → s.cur.out = .done →
    let fx := if f = 15 then (s.cur.rlc 1).toNat % 16 else f.toNat
    let fmt := s.cur.rfmt fx
    let q := s.cur.stream x.toNat
    CallOk s r.toNat fmt (b == 1) d →
    (64 ≤ q.entries.length → exec (.mcall x r f b) s = .next (s.outcome (.blocked false))) ∧
    (q.entries.length < 64 → ∃ z e k, exec (.mcall x r f b) s = .next z ∧
      (z.cur.stream x.toNat).entries.getLast? = some e ∧ z.cur.claims = s.cur.claims ++ [k] ∧
      (z.cur.stream x.toNat).entries.map (fun y => { y with lambda := 0 }) =
        (q.entries ++ [e]).map (fun y => { y with lambda := 0 }) ∧ e.id = s.seq ∧ e.kind = .mcall ∧ e.rt = r.toNat ∧ e.m0 = s.cur.rm 0 ∧ e.m1 = s.cur.rm 1 ∧ e.m2 = s.cur.rm 2 ∧
      e.fmt = fmt ∧ e.bd = (b == 1) ∧ e.issueCyc = s.now ∧ e.age = s.curAge ∧ e.len = d.len ∧
      e.rel = { mask := 1#16 <<< x.toNat, scope := 1, before := s.seq } ∧
      e.lambda = max (s.cur.issue + 2) (State.lambdaPrev s.cur) + (d.n * passCycles fmt + d.kcyc) ∧
      k.entry = s.seq ∧ k.lambda = e.lambda ∧ k.fixed = s.cur.fixed ∧ k.done = false ∧ k.stream = x.toNat ∧
      z.cur.sys = { s.cur.sys with fmtix := BitVec.ofNat 64 fx } ∧ z.cur.lastM = some s.cur.issue ∧
      z.cur.regs = s.cur.regs ∧ z.cur.pend = s.cur.pend ∧ SameBytes s z)

/-- 09 R225, R226, 19 R394 to R401: MRELOAD, MFLIP, MSWITCH and MLOAD that pass their checks enter their stream; MSWITCH
changes the view and claims an unowned macro, and MLOAD replaces the directory entries it overlaps, in the issue cycle. -/
def Sys2Proof.Machine.MatrixCommandsQueue : Prop :=
  ∀ (s : State) (x : BitVec 2) (l : BitVec 3) (m : BitVec 4) (d : BitVec 1), s.InHand → Calm s x.toNat false →
    s.cur.out = .done → (s.cur.stream x.toNat).entries.length < 64 →
    let q := (s.cur.stream x.toNat).entries
    let m3 := s.cur.rm 3
    let m4 := s.cur.rm 4
    let m5 := s.cur.rm 5
    let m6 := s.cur.rm 6
    let n := l.toNat * 16 + m.toNat
    let rel : Release := { mask := 1#16 <<< x.toNat, scope := 1, before := s.seq }
    let enters (i : Instr) (more : MEntry → State → Prop) : Prop :=
      ∃ z e, exec i s = .next z ∧ (z.cur.stream x.toNat).entries = q ++ [e] ∧ e.id = s.seq ∧ e.age = s.curAge ∧
        e.issueCyc = s.now ∧ z.cur.lastM = some s.cur.issue ∧ z.cur.regs = s.cur.regs ∧ z.cur.sys = s.cur.sys ∧
        z.cur.pend = s.cur.pend ∧ SameBytes s z ∧ more e z
    let wf := rb m5 15 12
    let nl := (layersOf (rb m5 11 4)).length
    let arrs := arraysOf (rb m5 11 4) (rb m5 3 0)
    let wstr := if rb m6 15 0 = 0 then 65536 else rb m6 15 0 * 64
    let sstr := if rb m6 31 16 = 0 then scaleSize wf else rb m6 31 16 * 64
    (rb m5 63 16 = 0 → rb m6 63 32 = 0 → rb m5 11 4 ≠ 0 → wtCode wf = true →
      s.spaceOk m3 ((nl - 1) * wstr + 65536) = true → (m4 ≠ 0 → s.spaceOk m4 ((nl - 1) * sstr + scaleSize wf) = true) →
      m3.toNat % 64 = 0 → m4.toNat % 64 = 0 → s.foreignArr arrs = false → s.inStorage arrs = false →
      enters (.mreload x) fun e _ => e.kind = .mreload ∧ e.m0 = m3 ∧ e.m1 = m4 ∧ e.m2 = m5 ∧ e.m3 = m6 ∧ e.rel = rel) ∧
    (s.foreignArr [n] = false → s.inStorage [n] = false → enters (.mflip x l m) fun e _ => e.kind = .mflip ∧ e.rel = {}) ∧
    (s.foreignArr [n] = false → enters (.mswitch x l m d) fun e z => e.kind = .mswitch (d == 1) ∧ e.rel = {} ∧
      (z.arr s.curCore n).next = (s.arr s.curCore n).next ++ [(e.id, d == 1)] ∧ (z.arr s.curCore n).compute = (s.arr s.curCore n).compute ∧
      (z.arr s.curCore n).owner = some ((s.arr s.curCore n).owner.getD (BitVec.ofNat 6 s.curSess)) ∧
      ∀ k, k ≠ n → z.arr s.curCore k = s.arr s.curCore k) ∧
    (let addr := rb m4 11 0
     let len := rb m4 24 12
     let meets (v : DirEntry) : Prop := v.addr < addr + len ∧ addr < v.addr + v.len
     let keep := (s.core s.curCore).dir.filter fun v => !(overlap (v.addr, v.addr + v.len) (addr, addr + len))
     rb m4 63 25 = 0 → rb m5 63 24 = 0 → rb m6 63 32 = 0 → len ≠ 0 → addr + len ≤ 4096 → s.spaceOk m3 1 = true →
     m3.toNat % 64 = 0 → (∀ v ∈ (s.core s.curCore).dir, meets v → v.sess.toNat = s.curSess) → keep.length < 256 →
     enters (.mload x) fun e z => e.kind = .mload ∧ e.rt = addr ∧ e.len = len ∧ e.m0 = m3 ∧ e.m1 = m4 ∧ e.m2 = m5 ∧ e.m3 = m6 ∧
       e.rel = rel ∧
       (z.core s.curCore).dir = keep ++ [
         { addr := addr, len := len, sess := BitVec.ofNat 6 s.curSess, n := rb m5 23 0, kcyc := rb m6 31 0, loader := e.id }])

/-- 09 R237, R238, 19 R394, R403: MSYNC waits for its stream, reports a poisoned one, and otherwise does nothing; MLOCK
sets the lock, and clears it once stream 0 has drained and every row of its calls has landed (06 R146). -/
def Sys2Proof.Machine.MatrixSyncAndLock : Prop :=
  ∀ (s : State) (x : BitVec 2), s.InHand → s.cur.out = .done →
    let noted (t : State) : State := t.modCur fun c => { c with lastM := some c.issue }
    (Calm s x.toNat false →
      (s.streamIdle x.toNat = false → exec (.msync x) s = .next (s.outcome (.blocked false))) ∧
      (s.streamIdle x.toNat = true → (s.cur.stream x.toNat).poisoned = false → exec (.msync x) s = .next (noted s)) ∧
      (s.streamIdle x.toNat = true → (s.cur.stream x.toNat).poisoned = true → s.cur.accesses = [] → s.cur.pend = [] →
        s.cur.sys.tvec ≠ 0 → s.cur.hnd = false → ∃ z, exec (.msync x) s = .next z ∧
        z.cur.sys.cause = BitVec.ofNat 64 (0x0E + s.curSlot * 256) ∧ z.cur.sys.epc = s.cur.pc ∧
        (z.cur.stream x.toNat).poisoned = false ∧ SameBytes s z)) ∧
    (Calm s 0 false →
      (s.cur.fixed = true → exec (.mlock 1) s = .next (noted (s.modCur fun c => { c with locked := true }))) ∧
      (s.streamIdle 0 = true → (∀ k ∈ s.cur.claims, k.stream ≠ 0) →
        exec (.mlock 0) s = .next (noted (s.modCur fun c => { c with locked := false }))) ∧
      (s.streamIdle 0 = false ∨ (∃ k ∈ s.cur.claims, k.stream = 0) → exec (.mlock 0) s =
        .next ((s.modCur fun c => { c with mwait := true }).outcome .stalled)))

/-- 10 R244, R248, R249, 19 R404: BFLY and TPERM give every line of the destination span the transform of the source
lines read at issue, after their latency, and keep the datapath busy; a busy datapath holds the bundle. Where the spec
leaves a point open, this states the choice of the model: log entry 26. -/
def Obligations.TransformForms : Prop :=
  ∀ (s : State) (d a : BitVec 5) (r : BitVec 3) (w : BitVec 2) (p : BitVec 1), s.InHand → Calm s 0 false →
    s.cur.out = .done →
    let F := if p = 1 then f16F else f32F
    let m5 := (s.cur.rm 5).toNat
    let m6 := (s.cur.rm 6).toNat
    let n := bits m5 29 27 + 1
    let src := pointsOf F ((List.range (16 * n)).map fun j => s.cur.line (64 + 16 * a.toNat + j))
    let lands (lat : Nat) (fl : BitVec 5) (ls : List Line) : List Pend := (ls.zipIdx).map fun q =>
      { dest := .line (64 + 16 * d.toNat + q.2), data := q.1, mask := BitVec.allOnes 256, due := s.dueIn lat,
        wall := s.wallOf (s.dueIn lat), order := s.slotOrder,
        flags := if q.2 = 0 then fl else 0, tile := true }
    let busy : Prop := s.now < (s.core s.curCore).dpFree
    let done (i : Instr) (ps : List Pend) : Prop := ∃ z, exec i s = .next z ∧ z.cur.pend = s.cur.pend ++ ps ∧
      (z.core s.curCore).dpFree = s.now + 8 * n ∧ z.cur.regs = s.cur.regs ∧ z.cur.lastM = some s.cur.issue ∧
      SameBytes s z
    spanBad F m5 d.toNat a.toNat = false →
    (bits m5 26 14 ≠ 0 → bits m5 13 0 % (radixOf r.toNat * bits m5 26 14) = 0 → bits m6 24 0 ≠ 0 → bits m6 24 0 ≤ 2 ^ 24 →
      smooth 64 (bits m6 24 0) = true →
      (busy → exec (.bfly d a r w p) s = .next (s.outcome .held)) ∧
      (¬ busy → let o := bflyPoints F (radixOf r.toNat) w.toNat m5 m6 src
        done (.bfly d a r w p) (lands (12 + 8 * n) o.2.1 (linesOf F (16 * n) o.1) ++
          if w = 3 then [{ dest := .m 7, data := if o.2.2 then 1 else 0, due := s.dueIn (12 + 8 * n), bump := true,
                           wall := s.wallOf (s.dueIn (12 + 8 * n)), order := s.slotOrder }]
          else []))) ∧
    (bits m6 63 39 = 0 → radices m6 ≠ [] → (∀ c ∈ digitCodes m6, c < 6) →
      (∀ c ∈ (digitCodes m6).drop (radices m6).length, c = 0) → bits m5 13 0 % product (radices m6) = 0 →
      (busy → exec (.tperm d a p) s = .next (s.outcome .held)) ∧
      (¬ busy → done (.tperm d a p) (lands (4 + 8 * n) 0 (linesOf F (16 * n) (tpermPoints m5 m6 src)))))

/-- MCALL, MRELOAD, MFLIP, MSWITCH, MLOAD, MSYNC and MLOCK: checks, HAZARD, what enters the stream, what is claimed.
Where the spec leaves a point open, this states the choice of the model: log entries 38 and 39. -/
def Obligations.MatrixCalls : Prop :=
  HazardMonitor ∧ MatrixCallQueues ∧ MatrixCommandsQueue ∧ MatrixSyncAndLock

/-! ## Feeds and bank units -/

namespace Sys2Proof.Machine

/-- A bank-unit instruction advances slot `k` of the unit in hand as `P` says of the slot before and after. -/
def BankSteps (i : Instr) (s : State) (k : Nat) (P : BankSlot → BankSlot → Prop) : Prop :=
  ∃ g, exec i s = .next (s.modSlot s.curChan k g) ∧ ∀ b, P b (g b)

/-- The slot's registers may change and its counter rises by one; the rest of it stays. -/
def OnlyRegs (b r : BankSlot) : Prop := r = { b with w := r.w, a := r.a, z := r.z, rc := b.rc + 1 }

/-- Register `d` takes `f i` in each lane that mask `z` enables; every other lane, register and mask stays. -/
def LanesGive (b r : BankSlot) (z : BitVec 2) (d : BitVec 4) (f : Nat → Nat) : Prop :=
  OnlyRegs b r ∧ (∀ m, r.mask m = b.mask m) ∧ (∀ n, n ≠ d → r.reg n = b.reg n) ∧
  ∀ i, i < 16 → Lane.get (r.reg d) i = if (b.mask z).getLsbD i then f i % 2 ^ 32 else Lane.get (b.reg d) i

/-- The f32 operations of a bank unit round to nearest even, and set no flag (21 R443). -/
def f32Of (r : FRes) : Nat := (r.put f32F .rne 0 false).1

end Sys2Proof.Machine

/-- 13 R288, 21 R441, R443: BNOP, BADD, BMUL, BFMA, BCMP, BSEL and BACC, by lane and mask. -/
def Obligations.BankArithmetic : Prop :=
  ∀ (s : State) (k : Nat) (c : BankSlot) (z e : BitVec 2) (d a b : BitVec 4) (t : BitVec 1) (cc : BitVec 3),
    s.runSlot = some (k, c) →
    let v (x : Nat) : FVal := f32F.decode x
    let add (x y : Nat) : Nat := if t = 0 then (x + y) % 2 ^ 32 else f32Of (faddV .rne (v x) (v y))
    let on (q : BankSlot) (r : BitVec 4) (i : Nat) : Nat := Lane.get (q.reg r) i
    BankSteps .bnop s k (fun q r => r = { q with rc := q.rc + 1 }) ∧
    BankSteps (.badd z d a b t) s k (fun q r => LanesGive q r z d fun i => add (on q a i) (on q b i)) ∧
    BankSteps (.bmul z d a b t) s k (fun q r => LanesGive q r z d fun i =>
      if t = 0 then on q a i * on q b i else f32Of (fmulV (v (on q a i)) (v (on q b i)))) ∧
    BankSteps (.bfma z d a b t) s k (fun q r => LanesGive q r z d fun i =>
      if t = 0 then on q a i * on q b i + on q d i
      else f32Of (ffmaV .rne (v (on q a i)) (v (on q b i)) (v (on q d i)))) ∧
    BankSteps (.bcmp z e a b cc) s k (fun q r => OnlyRegs q r ∧ (∀ n, r.reg n = q.reg n) ∧
      (∀ m, m ≠ e → r.mask m = q.mask m) ∧ (e ≠ 0 → ∀ i, i < 16 → (r.mask e).getLsbD i =
        if (q.mask z).getLsbD i then
          (if cc = 6 then decide (fordV (v (on q a i)) (v (on q b i)) = .lt)
           else if cc = 7 then decide (fordV (v (on q a i)) (v (on q b i)) = .lt ∨ fordV (v (on q a i)) (v (on q b i)) = .eq)
           else cond cc (BitVec.ofNat 32 (on q a i)) (BitVec.ofNat 32 (on q b i)))
        else (q.mask e).getLsbD i)) ∧
    BankSteps (.bsel z d a b) s k (fun q r => OnlyRegs q r ∧ (∀ m, r.mask m = q.mask m) ∧
      (∀ n, n ≠ d → r.reg n = q.reg n) ∧
      ∀ i, i < 16 → on r d i = if (q.mask z).getLsbD i then on q a i else on q b i) ∧
    BankSteps (.bacc z d a t) s k (fun q r => OnlyRegs q r ∧ (∀ m, r.mask m = q.mask m) ∧
      (∀ n, n ≠ d → r.reg n = q.reg n) ∧ (∀ i, 0 < i → i < 16 → on r d i = on q d i) ∧
      on r d 0 = add (on q d 0) (foldTree add 4 fun i => if (q.mask z).getLsbD i then on q a i else 0) % 2 ^ 32)

/-- 13 R281, R285, 21 R444: BLD and BST inside their row operation move the 64 bytes of their column, the stored lanes by
mask, and no other byte, where the read meets no error; one whose check fails makes the binding FAILED, state 3, with FADDR, and
ends the instance; one outside a row operation waits for it, and one of another row, or after 16 accesses, ends the row operation
that runs. -/
def Sys2Proof.Machine.BankColumns : Prop :=
  ∀ (s : State) (k : Nat) (c : BankSlot) (z : BitVec 2) (d a : BitVec 4) (i : BitVec 1) (m : BitVec 10) (n : Nat),
    s.runSlot = some (k, c) → s.curChan < 768 →
    let u := unsigned 32 ((Lane.get (c.reg a) 0 : Int) + m.toInt)
    let pa := bankPa (s.curChan / 64) (s.curChan % 64) (bits u 23 20) (bits u 19 4) (bits u 3 0 * 64)
    let bumped (r : BankSlot) : Prop := i = 1 → Lane.get (r.reg a) 0 = (Lane.get (c.reg a) 0 + 1) % 2 ^ 32
    let inRow : Prop := (s.unit s.curChan).rowOp = some (bits u 23 20, bits u 19 4, n) ∧ n < 16
    let runs (t : State) (r : BankSlot) : Prop := t.runSlot = some (k, r) ∧
      (t.unit s.curChan).rowOp = some (bits u 23 20, bits u 19 4, n + 1) ∧ bumped r ∧ r.rc = c.rc + 1
    (s.columnOk s.curChan u c.sess .read = true → inRow → d ≠ a → s.errors = [] → ∃ t r, exec (.bld z d a i m) s = .next t ∧ runs t r ∧
      SameBytes s t ∧ (∀ j, j < 16 → Lane.get (r.reg d) j =
        if (c.mask z).getLsbD j then s.readNat (pa + 4 * j) 4 else Lane.get (c.reg d) j) ∧
      ∀ x, x ≠ d → x ≠ a → r.reg x = c.reg x) ∧
    (s.columnOk s.curChan u c.sess .write = true → inRow → MemOk s → ∃ t r, exec (.bst z a d i m) s = .next t ∧ runs t r ∧
      (∀ j, j < 64 → t.byteAt (pa + j) =
        if (c.mask z).getLsbD (j / 4) then (c.reg d).extractLsb' (8 * j) 8 else s.byteAt (pa + j)) ∧
      (∀ x, x < pa ∨ pa + 64 ≤ x → t.byteAt x = s.byteAt x) ∧ ∀ x, x ≠ a → r.reg x = c.reg x) ∧
    ((s.unit s.curChan).rowOp = none →
      (s.columnOk s.curChan u c.sess .read = true → exec (.bld z d a i m) s = .next s) ∧
      (s.columnOk s.curChan u c.sess .write = true → exec (.bst z a d i m) s = .next s)) ∧
    ∀ (op : Instr) (why : Purpose),
      (op = .bld z d a i m ∧ why = .read) ∨ (op = .bst z a d i m ∧ why = .write) →
      (∀ q, (s.unit s.curChan).rowOp = some q → q.1 ≠ bits u 23 20 ∨ q.2.1 ≠ bits u 19 4 ∨ 16 ≤ q.2.2 →
        s.columnOk s.curChan u c.sess why = true → ∃ t, exec op s = .next t ∧
        (t.unit s.curChan).rowOp = none ∧ (t.unit s.curChan).cur = none ∧ (t.unit s.curChan).lastSlot = k ∧ SameBytes s t) ∧
      (s.columnOk s.curChan u c.sess why = false → c.dying = false → ∀ (v : Strand) (y : Nat), s.strand? c.age = some v →
        v.st = .resident → v.core < 128 → y < 4 → c.feed < 8 → s.ctxOf? v.core c.age = some y → ∃ t, exec op s = .next t ∧
        ((t.ctx v.core y).feed c.feed).state = 3 ∧ ((t.ctx v.core y).feed c.feed).faddr = State.columnPtr s.curChan u ∧
        (∀ f, f < 8 → f ≠ c.feed → (t.ctx v.core y).feed f = (s.ctx v.core y).feed f) ∧
        t.runSlot = none ∧ (t.unit s.curChan).rowOp = none ∧ SameBytes s t ∧
        ∀ q ∈ (t.unit s.curChan).slots, q.1 = k → q.2.ended = true) ∧
      (s.columnOk s.curChan u c.sess why = false → c.dying = true → ∃ t, exec op s = .next t ∧ t.runSlot = none ∧
        (t.unit s.curChan).rowOp = none ∧ t.cores = s.cores ∧ SameBytes s t)

/-- 13 R278, R281, 21 R441: BPOP takes the next operand whole or in pairs of lanes; BPUSH appends a pair of lanes to the
output; each that must wait reaches a row boundary. -/
def Sys2Proof.Machine.BankStreams : Prop :=
  ∀ (s : State) (k : Nat) (c : BankSlot) (z : BitVec 2) (d : BitVec 4) (t : BitVec 1) (p : BitVec 3),
    s.runSlot = some (k, c) →
    let waits (i : Instr) : Prop := ∃ y, exec i s = .next y ∧ (y.unit s.curChan).rowOp = none ∧
      (y.unit s.curChan).cur = none ∧ (y.unit s.curChan).lastSlot = k ∧ SameBytes s y
    (∀ v q, s.operand c = some (v, q) → ∃ r, exec (.bpop z d t) s = .next (s.modSlot s.curChan k fun _ => r) ∧
      LanesGive q r z d fun i => if t = 0 ∧ i % 2 = 1 then v.toNat / 2 ^ 32 else v.toNat) ∧
    (s.operand c = none → waits (.bpop z d t)) ∧
    (c.output.length < 16 → BankSteps (.bpush d p) s k fun b r => r = { b with rc := b.rc + 1, output := b.output ++
      [BitVec.ofNat 64 (Lane.get (c.reg d) (2 * p.toNat) + Lane.get (c.reg d) (2 * p.toNat + 1) * 2 ^ 32)] }) ∧
    (16 ≤ c.output.length → waits (.bpush d p))

/-- 13 R289: BSKIP consumes one bit of the sparse index stream, which it refills with the low 32 bits of an operand; a 1
goes on, a 0 goes to the first BLOOP after it or ends the instance; the skipped instructions do nothing. -/
def Sys2Proof.Machine.BankSkip : Prop :=
  ∀ (s : State) (k : Nat) (c : BankSlot), s.runSlot = some (k, c) →
    let from' (q : BankSlot) : Prop :=
      let b := { q with skw := q.skw >>> 1, skn := q.skn - 1 }
      let n := s.skipIndex s.curChan b
      (q.skw.getLsbD 0 = true → exec .bskip s = .next (s.modSlot s.curChan k fun _ => { b with rc := q.rc + 1 })) ∧
      (q.skw.getLsbD 0 = false → n < q.len → exec .bskip s = .next (s.modSlot s.curChan k fun _ => { b with rc := n }) ∧
        q.rc < n ∧ (∃ a m, decode .bank (s.bankWord s.curChan q n) = .ok (.bloop a m)) ∧
        ∀ j, q.rc < j → j < n → ∀ a m, decode .bank (s.bankWord s.curChan q j) ≠ .ok (.bloop a m)) ∧
      (q.skw.getLsbD 0 = false → q.len ≤ n → ∃ t, exec .bskip s = .next t ∧ t.runSlot = none ∧ SameBytes s t)
    (c.skn ≠ 0 → from' c) ∧
    (c.skn = 0 → ∀ v q, s.operand c = some (v, q) → from' { q with skw := v.setWidth 32, skn := 32 }) ∧
    (c.skn = 0 → s.operand c = none → exec .bskip s = .next s.boundary)

/-- 21 R445: BLOOP counts its register down and goes back while it is not zero; BEND ends the instance at a row
boundary. -/
def Sys2Proof.Machine.BankLoopAndEnd : Prop :=
  ∀ (s : State) (k : Nat) (c : BankSlot) (a : BitVec 4) (m : BitVec 10), s.runSlot = some (k, c) → a.toNat < 8 →
    BankSteps (.bloop a m) s k (fun b r =>
      let v := Lane.get (b.reg a) 0
      (v = 0 → r = { b with rc := b.rc + 1 }) ∧
      (v ≠ 0 → Lane.get (r.reg a) 0 = v - 1 ∧ (∀ i, 0 < i → i < 16 → Lane.get (r.reg a) i = Lane.get (b.reg a) i) ∧
        (∀ n, n ≠ a → r.reg n = b.reg n) ∧ r.rc = (if v = 1 then b.rc + 1 else b.rc - (m.toNat + 1)) ∧
        r = { b with w := r.w, rc := r.rc })) ∧
    ∃ t, exec .bend s = .next t ∧ (t.unit s.curChan).cur = none ∧ (t.unit s.curChan).rowOp = none ∧
      (t.unit s.curChan).lastSlot = k ∧ SameBytes s t ∧
      ∀ q ∈ (t.unit s.curChan).slots, q.1 = k → q.2.ended = true

/-- 13 R277 to R279, 20 R430, R431: FBIND releases the old binding and records the new; FWR appends an operand; FRD pops
the head result; each waits or traps as the feed's state says: FRD of a FAILED binding once its output is empty, and a
seventeenth operand makes a wave binding FAILED. -/
def Sys2Proof.Machine.FeedForms : Prop :=
  ∀ (s : State) (f : BitVec 3) (t : BitVec 4) (a b g : BitVec 6), s.InHand →
    let r := s.cur.feed f.toNat
    let n := f.toNat
    let x := s.cur.rg a
    let ch := r.stack.toNat * 64 + r.pch.toNat
    (∃ z, exec (.fbind f t a b g) s = .next z ∧ (z.cur.feed n).tag = t ∧ (z.cur.feed n).target = x ∧
      (z.cur.feed n).image = s.cur.rg b ∧ (z.cur.feed n).arg = s.cur.rg g ∧ (z.cur.feed n).state = 0 ∧
      (z.cur.feed n).pending = (decide (x.toNat % 4 ≠ 0) || !Target.ok x) ∧
      (∀ m, m ≠ n → z.cur.feed m = s.cur.feed m) ∧ z.cur.pend = s.cur.pend ∧ SameBytes s z ∧
      (∀ u ∈ z.units, ∀ q ∈ u.slots, q.2.age = s.curAge → q.2.feed = n → q.2.dying = true) ∧
      ∀ w ∈ z.waves, ¬ (w.age = s.curAge ∧ w.feed = n)) ∧
    (r.pending = true → exec (.fwr f t a) s = .next (s.outcome .held) ∧ exec (.frd f t a) s = .next (s.outcome .held)) ∧
    (r.pending = false → r.state = 0 ∨ r.state = 2 ∨ r.tag ≠ t →
      exec (.fwr f t a) s = .next (s.trapWith 0x15 0 r.faddr) ∧ exec (.frd f t a) s = .next (s.trapWith 0x15 0 r.faddr)) ∧
    (r.pending = false → r.state = 1 → r.tag = t →
      (r.wave = true → r.list.length < 16 → exec (.fwr f t a) s =
        .next (s.modCur fun c => c.setFeed n { r with list := r.list ++ [(x, s.seq)] })) ∧
      (r.wave = true → 16 ≤ r.list.length → exec (.fwr f t a) s = .next (s.modCur fun c => c.setFeed n { r with state := 3 })) ∧
      (r.wave = false → ∀ k q, State.bound? (s.unit ch) s.curAge n = some (k, q) → q.input.length < 16 →
        exec (.fwr f t a) s = .next (s.modSlot ch k fun q => { q with input := q.input ++ [(x, s.seq)] })) ∧
      (∀ c k y, s.headResult s.curAge n (Target.chans r.target) = some (c, k, y) → ∃ z, exec (.frd f t a) s = .next z ∧
        z.cur.pend = s.cur.pend ++ [{ dest := .g a.toNat, data := y.setWidth 2048, due := s.dueIn 2,
                                      wall := s.wallOf (s.dueIn 2), order := s.slotOrder }] ∧
        z.units = (s.modSlot c k fun q => { q with output := q.output.tail }).units ∧ SameBytes s z) ∧
      (s.headResult s.curAge n (Target.chans r.target) = none →
        exec (.frd f t a) s = .next (s.outcome (.blocked false)))) ∧
    (r.pending = false → r.state = 3 → r.tag = t →
      (∀ c ∈ Target.chans r.target, ∀ k q, State.bound? (s.unit c) s.curAge n = some (k, q) → q.output = []) →
      exec (.frd f t a) s = .next (s.trapWith 0x15 0 r.faddr)) ∧
    (∀ k q y ys, Target.kind r.target = 1 → State.bound? (s.unit (Target.stack r.target * 64 + Target.pch r.target)) s.curAge n =
        some (k, q) → q.output = y :: ys →
      s.headResult s.curAge n (Target.chans r.target) = some (Target.stack r.target * 64 + Target.pch r.target, k, y))

/-- 13 R276, R277, R280: once the feed's old binding is gone, BINDING_RESOLVE of a single binding whose routine is resident gives it a free slot, with the
argument and the channel in w0, and makes the feed bound; a bad target or image makes it refused. -/
def Sys2Proof.Machine.BindingResolves : Prop :=
  ∀ (s : State) (c x f age h fr : Nat) (t : Strand), c < 128 → x < 4 → f < 8 → s.arg.core = c → s.arg.ctx = x →
    s.arg.idx = f → (s.ctx c x).strand = some age → s.strand? age = some t → t.st = .resident → t.core = c →
    s.ctxOf? c age = some x → (s.ctx c x).accesses = [] →
    (∀ u ∈ s.units, ∀ q ∈ u.slots, ¬ (q.2.dying = true ∧ q.2.age = age ∧ q.2.feed = f)) →
    let r := (s.ctx c x).feed f
    r.pending = true → r.hdr = some h →
    let ch := Target.stack r.target * 64 + Target.pch r.target
    let u := s.unit ch
    let sound : Prop := Target.ok r.target = true ∧ r.image.toNat / 2 ^ 60 < 2 ∧ r.image.toNat % 64 = 0 ∧ imageOk h = true
    (sound → Target.kind r.target = 1 → (∃ q ∈ u.routines, q.id = imageId h ∧ q.sess = t.sess) →
      (∀ q ∈ u.routines, q.id = imageId h → q.sess = t.sess → q.frame = fr) →
      (∃ k, k < 4 ∧ ∀ q ∈ u.slots, q.1 ≠ k) → ∃ k z, k < 4 ∧ (∀ q ∈ u.slots, q.1 ≠ k) ∧ exec .bindingResolve s = .next z ∧
      ((z.ctx c x).feed f).state = 1 ∧ ((z.ctx c x).feed f).pending = false ∧
      ((z.ctx c x).feed f).slot = BitVec.ofNat 2 k ∧ SameBytes s z ∧
      ∃ b, (k, b) ∈ (z.unit ch).slots ∧ b.age = age ∧ b.feed = f ∧ b.sess = t.sess ∧ b.frame = fr ∧ b.rc = 0 ∧
        b.input = [] ∧ b.output = [] ∧ Lane.get (b.reg 0) 0 = r.arg.toNat % 2 ^ 32 ∧
        Lane.get (b.reg 0) 1 = r.arg.toNat / 2 ^ 32 ∧ Lane.get (b.reg 0) 2 = ch % 2 ^ 32) ∧
    (¬ sound → ∃ z, exec .bindingResolve s = .next z ∧ ((z.ctx c x).feed f).state = 2 ∧
      ((z.ctx c x).feed f).pending = false ∧ z.units = s.units ∧ SameBytes s z)

/-- 13 R281 to R284, R286, 26 R472: a row operation starts on an idle bank that no ordinary access was queued to, or in the
guaranteed slot, and else its slot suspends; at a boundary the guaranteed slot or the next ready one in turn runs; a slot that has
waited 4,400 cycles for its bank gets the guaranteed slot, but for while a checkpoint quiesces; a row operation of n columns lasts
14 + 2n + 7 cycles; a wave's instances start within its stack's limit. -/
def Sys2Proof.Machine.BankScheduling : Prop :=
  ∀ (s : State) (ch : Nat), s.arg.n = ch →
    let u := s.unit ch
    (∀ k b bank row w, u.cur = some k → State.slot? u k = some b → s.wanted ch b = some (bank, row, w) → s.ckpt = none →
      u.rowOp = none → u.stepAt ≤ s.now →
      (w = true → s.granuleHold [{ home := .here (bankPa (ch / 64) (ch % 64) bank row 0), off := 0, len := 64 }] = false) →
      (s.bankTaken ch bank = false → s.bankQueued ch bank = false ∨ u.guaranteed = some (k, bank) →
        exec .rowOperationStart s =
        .next ((s.modSlot ch k fun b => { b with held := false, waitingSince := none }).modUnit ch fun u =>
          { u with rowOp := some (bank, row, 0), opFrom := s.now, closeAt := none })) ∧
      (s.bankTaken ch bank = true ∨ (s.bankQueued ch bank = true ∧ u.guaranteed ≠ some (k, bank)) → ∃ z, exec .rowOperationStart s = .next z ∧
        (z.unit ch).cur = none ∧ (z.unit ch).rowOp = none ∧ (z.unit ch).lastSlot = k ∧ SameBytes s z ∧
        ∃ q, State.slot? (z.unit ch) k = some q ∧ q.waitingSince = some (b.waitingSince.getD s.now))) ∧
    (∀ i b, u.rowOp = none → u.cur = none → u.guaranteed = none → s.ckpt = none → i < 4 →
      State.slot? u ((u.lastSlot + 1 + i) % 4) = some b → s.slotReady ch b = true →
      (∀ j, j < i → ∀ q, State.slot? u ((u.lastSlot + 1 + j) % 4) = some q → s.slotReady ch q = false) →
      exec .rowBoundary s = .next (s.setUnit { u with cur := some ((u.lastSlot + 1 + i) % 4) })) ∧
    (∀ k b bank, u.rowOp = none → u.cur = none → u.guaranteed = some (k, bank) → s.ckpt = none →
      State.slot? u k = some b → s.slotReady ch b = true →
      exec .rowBoundary s = .next (s.setUnit { u with cur := some k })) ∧
    (let late (p : Nat × BankSlot) (bank : Nat) : Prop := ∃ t row w, p.2.waitingSince = some t ∧
        s.wanted ch p.2 = some (bank, row, w) ∧ t + 4400 ≤ s.now ∧ p.2.held = false
     (u.guaranteed = none → s.ckpt = none → (∃ p ∈ u.slots, ∃ bank, late p bank) → ∃ p ∈ u.slots, ∃ bank, late p bank ∧
        exec .guaranteedSlot s = .next (s.setUnit { u with guaranteed := some (p.1, bank) })) ∧
     (u.guaranteed ≠ none ∨ s.ckpt ≠ none ∨ (∀ p ∈ u.slots, ∀ bank, ¬ late p bank) → exec .guaranteedSlot s = .next s)) ∧
    (∀ n, State.rowLength n = 14 + 2 * n + 7) ∧
    (∀ k b bank row n, u.cur = some k → State.slot? u k = some b → u.rowOp = some (bank, row, n) → u.closeAt = none →
      s.endsRow ch b bank row n = true → u.opFrom + 14 + 2 * n + 7 > s.now →
      ∃ z, s.doTurn (.row ch) = .next z ∧ (z.unit ch).closeAt = some (u.opFrom + 14 + 2 * n + 7) ∧
        (z.unit ch).rowOp = some (bank, row, n) ∧ (z.unit ch).cur = some k ∧ SameBytes s z) ∧
    (∀ w, s.waves = [w] → w.owed = [] → w.members = [] → w.next < 64 → w.stack < 12 →
      ∃ z v, exec .waveStart s = .next z ∧ z.waves = [v] ∧
        v.next = w.next + min (s.stackLimit[w.stack]?.getD 64) (64 - w.next) ∧
        v.members = (List.range (v.next - w.next)).map (w.next + ·) ∧ (∀ p ∈ v.owed, p ∈ v.members) ∧ SameBytes s z)

/-- BLD, BST, BPOP and BPUSH: the bytes of a column and no other, failed checks, operands and results, waits. Where the
spec leaves a point open, this states the choice of the model: log entry 2. -/
def Obligations.BankMemory : Prop :=
  BankColumns ∧ BankStreams

/-- BSKIP, BLOOP and BEND. -/
def Obligations.BankControl : Prop :=
  BankSkip ∧ BankLoopAndEnd

/-- FBIND, FWR and FRD; a binding resolves; which slot of a bank unit runs. Where the spec leaves a point open, this
states the choice of the model: log entries 2, 10, 34, 58 and 68. -/
def Obligations.Feeding : Prop :=
  FeedForms ∧ BindingResolves ∧ BankScheduling

/-! ## The matrix unit -/

namespace Sys2Proof.Machine

/-- The unit runs `r` on at microword `pc` until cycle `t`. -/
def UnitAt (z : State) (c : Nat) (r : MRun) (pc t : Nat) : Prop :=
  (z.core c).unit = some { r with entry := { r.entry with pc := pc }, busyUntil := t, held := false }

/-- The head of stream `st` of context `x` is the entry that the unit takes next, and no stream is to be discarded. -/
def Picked (s : State) (c x st : Nat) (e : MEntry) (es : List MEntry) : Prop :=
  s.arg.core = c ∧ c < 128 ∧ x < 4 ∧ st < 4 ∧ s.errors = [] ∧ (∀ i, i < 16 → s.headDoomed c (i / 4) (i % 4) = false) ∧
  s.pickEntry c = some (x, st, e) ∧ ((s.ctx c x).stream st).entries = e :: es

/-- The unit takes entry `e`: it leaves its stream, and the unit works at it for `n` cycles, which are its last or not. -/
def Taken (s z : State) (c x st : Nat) (e : MEntry) (es : List MEntry) (n : Nat) (last : Bool) : Prop :=
  ((z.ctx c x).stream st).entries = es ∧ (z.ctx c x).lastTaken = some s.now ∧
  (z.core c).unit = some { ctx := x, stream := st, entry := e, busyUntil := s.now + n, last := last } ∧
  (z.ctx c x).regs = (s.ctx c x).regs ∧ SameBytes s z

/-- The reload path gets one reload for each layer of mask `m`, in order; `P` holds of number `k` of them. -/
def PathGets (s z : State) (c m : Nat) (P : Nat → Reload → Prop) : Prop :=
  ∃ qs : List Reload, (z.core c).reloads = (s.core c).reloads ++ qs ∧ qs.length = (layersOf m).length ∧
    ∀ (k l : Nat) (q : Reload), (layersOf m)[k]? = some l → qs[k]? = some q → q.lmask.toNat = 2 ^ l ∧ P k q

/-- What one element of an 8-bit integer format stands for: code 13 is unsigned. -/
def elem8 (f : Nat) (b : Byte) : Int := if f = 13 then (b.toNat : Int) else b.toInt

/-- The product sum of elements `512 g` on of the slice's activation vector at `a`, of which `n` are in this segment, with
column `o` of the weight half at `w`: S and E of the pass (07 R179, R181, 19 R408). -/
def passInt8 (s : State) (af wf a w o g n : Nat) : Int × Int :=
  if n = 0 then (0, -512)
  else (65536 * ((List.range n).map fun i =>
    elem8 af (s.byteAt (a + 512 * g + i)) * elem8 wf (s.byteAt (w + 128 * i + o))).sum, 0)

end Sys2Proof.Machine

/-- 19 R407 to R409: CLR clears the accumulators of its rows and no other; FEED and SCALE put a reload of the routine's
macro on the path, SCALE for a block format alone; WAITH and FLIPH wait for reloads; each takes its cycles. -/
def Sys2Proof.Machine.MicroForms : Prop :=
  ∀ (s : State) (r : MRun) (b : BitVec 6) (n : BitVec 7) (off : BitVec 24), s.curCore < 128 → r.ctx < 4 →
    s.routine? = some r →
    let c := s.curCore
    let e := r.entry
    let pc := e.pc + 1
    let now := s.now
    let wf := rb e.fmt 7 4
    let row (k : Nat) : Nat := (rb e.m2 5 0 + b.toNat + k) % 64
    let p : DWord := BitVec.ofNat 64 (2 ^ 60 + c * 2 ^ 52 + off.toNat)
    let queued (q : Reload) (n : Nat) : Prop := q.ctx = r.ctx ∧ q.age = e.age ∧ q.stream = r.stream ∧ q.cmd = none ∧
      q.arr.toNat = rb e.m1 3 0 ∧ q.fmt.toNat = wf ∧ now ≤ q.begun ∧ q.dueAt = q.begun + n
    (∃ z, exec (.clr b n) s = .next z ∧ UnitAt z c r pc (now + 2 + (n.toNat + 1) / 2) ∧ SameBytes s z ∧
      (∀ k, k < n.toNat → rowAccs ((z.ctx c r.ctx).acc (row k)) = List.replicate 16 { a := 0, x := -512, n := false }) ∧
      ∀ m, (∀ k, k < n.toNat → m ≠ row k) → (z.ctx c r.ctx).acc m = (s.ctx c r.ctx).acc m) ∧
    (∃ z, exec (.feed off) s = .next z ∧ UnitAt z c r pc (now + 2) ∧ SameRegs s z ∧ SameBytes s z ∧
      PathGets s z c (rb e.m1 11 4) fun k q => queued q (512 + if wf = 3 ∨ wf = 4 then 16 else 0) ∧
        q.wptr = some (p + BitVec.ofNat 64 (k * 65536)) ∧ q.sptr = none) ∧
    (isBlock wf = true → ∃ z, exec (.scale off) s = .next z ∧ UnitAt z c r pc (now + 2) ∧ SameRegs s z ∧ SameBytes s z ∧
      PathGets s z c (rb e.m1 11 4) fun k q => queued q (scaleSize wf / 128) ∧ q.wptr = none ∧
        q.sptr = some (p + BitVec.ofNat 64 (k * scaleSize wf))) ∧
    (isBlock wf = false → ∃ z, exec (.scale off) s = .next z ∧ UnitAt z c r pc (now + 2) ∧ SameRegs s z ∧
      SameBytes s z ∧ (z.core c).reloads = (s.core c).reloads) ∧
    (let own : Prop := ∃ q ∈ (s.core c).reloads, q.age = e.age ∧ q.stream = r.stream
     (own → exec .waith s = .next s) ∧
     (¬ own → ∃ z, exec .waith s = .next z ∧ UnitAt z c r pc now ∧ SameRegs s z ∧ SameBytes s z)) ∧
    (s.reloading c e.arrays = true → exec .fliph s = .next s) ∧
    (s.reloading c e.arrays = false → e.arrays.Nodup → (∀ i ∈ e.arrays, i < 128) → ∃ z, exec .fliph s = .next z ∧
      UnitAt z c r pc (now + 1) ∧ SameRegs s z ∧ SameBytes s z ∧
      ∀ i, z.arr c i = if i ∈ e.arrays then { s.arr c i with half := !(s.arr c i).half } else s.arr c i)

/-- 19 R410: LOOP sets its count when it is off, counts down and goes back, or turns off and goes on, so that the body runs
CNTM1 + 1 times; END takes its cycle, and the routine has then finished: the unit is free, and its claim may land. -/
def Sys2Proof.Machine.MicroLoopAndEnd : Prop :=
  ∀ (s : State) (r : MRun) (n : BitVec 8) (b : BitVec 6), s.curCore < 128 → r.ctx < 4 → s.routine? = some r →
    let e := r.entry
    let cnt := if e.loopOn then e.loopCnt else n.toNat
    (cnt = 0 → ∃ z, exec (.microLoop n b) s = .next z ∧ SameRegs s z ∧ SameBytes s z ∧
      UnitAt z s.curCore { r with entry := { e with loopOn := false, loopCnt := 0 } } (e.pc + 1) (s.now + 1)) ∧
    (cnt ≠ 0 → ∃ z, exec (.microLoop n b) s = .next z ∧ SameRegs s z ∧ SameBytes s z ∧
      UnitAt z s.curCore { r with entry := { e with loopOn := true, loopCnt := cnt - 1 } } (e.pc - (b.toNat + 1))
        (s.now + 1)) ∧
    (∃ z, exec .microEnd s = .next z ∧ SameRegs s z ∧ SameBytes s z ∧
      UnitAt z s.curCore { r with last := true } e.pc (s.now + 1)) ∧
    (r.last = true → r.busyUntil ≤ s.now → r.planes = 0 → ∃ z, State.microTurn s s.curCore = .next z ∧
      (z.core s.curCore).unit = none ∧ SameRegs s z ∧ SameBytes s z ∧
      ((s.ctx s.curCore r.ctx).strand = some e.age →
        ∀ k ∈ (z.ctx s.curCore r.ctx).claims, k.entry = e.id → k.done = true))

/-- 19 R407, R408: a MAC does its vectors up to number 255, or from 256 on, in one go, takes their number × C bit-plane
cycles, and moves the vector cursor; with 8-bit integer activations in the slice and 8-bit integer weights, each accumulator
of its rows merges, vector after vector and layer after layer, 2^16 times the product sum of the vector's segment with the
weights of its output; it writes no row of another context, no row outside its own, and no byte. -/
def Sys2Proof.Machine.MicroMac : Prop :=
  ∀ (s : State) (r : MRun) (nv : BitVec 9) (rs b : BitVec 6), s.curCore < 128 → r.ctx < 4 → s.routine? = some r →
    s.errors = [] →
    let c := s.curCore
    let e := r.entry
    let n := nv.toNat + 1
    let wf := rb e.fmt 7 4
    let af := rb e.fmt 3 0
    let w := wtWide wf
    let ls := layersOf (rb e.m1 11 4)
    let lo := if e.half then 256 else 0
    let hi := if e.half then n else min n 256
    let cost := (hi - lo) * passCycles e.fmt
    let row (v j : Nat) : Nat := (rb e.m2 5 0 + b.toNat + v * rs.toNat + j) % 64
    ∃ z u, exec (.mac nv rs b) s = .next z ∧ (z.core c).unit = some u ∧
      u.entry = { e with pc := if hi = n then e.pc + 1 else e.pc, cursor := e.cursor + (hi - lo), half := decide (hi ≠ n) } ∧
      u.ctx = r.ctx ∧ u.stream = r.stream ∧ u.halves = ls.length ∧
      (ls ≠ [] → u.planes = cost ∧ u.busyUntil = s.now) ∧
      (ls = [] → u.planes = 0 ∧ u.busyUntil = s.now + cost) ∧ SameBytes s z ∧
      (∀ x m, x ≠ r.ctx → (z.ctx c x).acc m = (s.ctx c x).acc m) ∧
      (∀ m, ls = [] ∨ (∀ v j, lo ≤ v → v < hi → j < 8 * w → m ≠ row v j) →
        (z.ctx c r.ctx).acc m = (s.ctx c r.ctx).acc m) ∧
      (z.ctx c r.ctx).regs.line = (s.ctx c r.ctx).regs.line ∧
      (af = 9 ∨ af = 13 → wf = 9 ∨ wf = 13 → e.m0.getLsbD 0 = true → ∀ m p, m < 64 → p < 16 →
        let at1 (v : Nat) : Nat := sliceHome c (rb e.m0 29 6 + (e.cursor + (v - lo)) * (rb e.m0 54 43 * 64))
        let wts (l : Nat) : Nat :=
          sliceHome c (arrOffset l (rb e.m1 3 0) (s.arr c (l * 16 + rb e.m1 3 0)).half 0 0)
        let inside (g : Nat) : Nat := min 512 (min (rb e.m0 42 30) (512 * ls.length) - 512 * g)
        let go (x : Acc) (q : Nat × Nat) : Acc :=
          if row q.1 q.2 = m then ls.zipIdx.foldl (fun x y =>
            let se := passInt8 s af wf (at1 q.1) (wts y.1) (16 * q.2 + p) y.2 (inside y.2)
            (x.merge se.1 se.2).1) x
          else x
        let vj := (List.range (hi - lo)).flatMap fun v => (List.range 8).map fun j => (lo + v, j)
        (rowAccs ((z.ctx c r.ctx).acc m))[p]? = ((rowAccs ((s.ctx c r.ctx).acc m))[p]?).map (vj.foldl go))

/-- 07 R181, R182: a pass whose partials have one exponent is their exact sum; a merge of equal exponents adds, and
saturates at the ends of 64 bits. -/
def Sys2Proof.Machine.AccumulatorArithmetic : Prop :=
  (∀ (l : List (Int × Int)) (e : Int), l ≠ [] → (∀ p ∈ l, p.2 = e) → passSum l = (65536 * (l.map (·.1)).sum, e)) ∧
  (∀ (c : Acc) (v : Int), c.merge v c.x =
    ({ c with a := max (-(2 ^ 63)) (min (2 ^ 63 - 1) (c.a + v)) }, decide (c.a + v < -(2 ^ 63) ∨ 2 ^ 63 ≤ c.a + v))) ∧
  (∀ l : List Acc, l.length = 16 → (∀ c ∈ l, -(2 ^ 63) ≤ c.a ∧ c.a < 2 ^ 63 ∧ -512 ≤ c.x ∧ c.x < 512) →
    rowAccs (accsRow l) = l) ∧ passSum [] = (0, -512)

/-- 07 R185, 19 R408: OUT to tiles leaves its elements with the call's claim until it lands, and writes no register; OUT to
the slice writes its elements from OFF on, and no other byte. Where the spec leaves a point open, this states the choice
of the model: log entries 36 and 37. -/
def Obligations.MicroOut : Prop :=
  ∀ (s : State) (r : MRun) (b : BitVec 6) (n : BitVec 7), s.curCore < 128 → r.ctx < 4 → s.routine? = some r →
    let e := r.entry
    let t := s.ctx s.curCore r.ctx
    let of := rb e.fmt 11 8
    let w := codeBits of
    let res := (List.range n.toNat).flatMap fun k => (rowAccs (t.acc ((rb e.m2 5 0 + (b.toNat + k)) % 64))).map fun c =>
      outConvert c (rb e.fmt 63 32) of
    let fl := res.foldl (fun f p => f ||| p.2) 0
    let outs := State.outLines w (rb e.m2 11 7) (16 * b.toNat) (res.map (·.1))
    let done (z : State) : Prop := UnitAt z s.curCore r (e.pc + 1) (s.now + 3 + (n.toNat + 1) / 2)
    (e.m2.getLsbD 6 = false → ∃ z, exec (.out b n) s = .next z ∧ done z ∧ SameRegs s z ∧ SameBytes s z ∧
      (t.strand = some e.age → ∀ k ∈ t.claims, k.entry = e.id → 
        { k with flags := k.flags ||| fl, tileData := k.tileData ++ outs } ∈ (z.ctx s.curCore r.ctx).claims)) ∧
    (let off := rb e.m2 35 12 + 16 * b.toNat * w / 8
     let len := 16 * n.toNat * w / 8
     let sess := ((s.strand? e.age).map (·.sess)).getD 0
     e.m2.getLsbD 6 = true → off + len ≤ Config.sliceBytes → MemOk s →
     (∀ i, (s.arr s.curCore i).compute = false ∧ s.foreign sess .engWrite s.curCore i = false) → s.areasFull = false →
     t.accesses = [] → len ≠ 0 →
     ∃ z, exec (.out b n) s = .next z ∧ done z ∧ SameRegs s z ∧
      (∀ i, i < len → z.byteAt (sliceHome s.curCore (off + i)) = BitVec.ofNat 8
        ((res.zipIdx.foldl (fun m p => m + p.1.1 * 2 ^ (w * p.2)) 0) / 2 ^ (8 * i))) ∧
      ∀ y, y < sliceHome s.curCore off ∨ sliceHome s.curCore off + len ≤ y → z.byteAt y = s.byteAt y)

/-- 09 R225, R226, 19 R397 to R401: the entry that the unit picks starts by its kind: a routine, a reload, a flip of the
half bit, a change of mode that keeps the bytes, the read of a routine. -/
def Sys2Proof.Machine.MatrixEntriesStart : Prop :=
  ∀ (s : State) (c x st : Nat) (e : MEntry) (es : List MEntry), Picked s c x st e es →
    (e.kind = .mcall → ∃ z, exec .routineStart s = .next z ∧ Taken s z c x st { e with bd := false } es 0 false) ∧
    (e.kind = .mreload → ∃ z, exec .mreloadExecute s = .next z ∧ Taken s z c x st e es 2 false ∧
      let f := rb e.m2 15 12
      PathGets s z c (rb e.m2 11 4) fun k q => q.cmd = some e ∧ q.arr.toNat = rb e.m2 3 0 ∧ q.fmt.toNat = f ∧
        q.wptr = some (e.m0 + BitVec.ofNat 64 (k * (if rb e.m3 15 0 = 0 then 65536 else rb e.m3 15 0 * 64))) ∧
        q.sptr = (if e.m1 = 0 then none
          else some (e.m1 + BitVec.ofNat 64 (k * (if rb e.m3 31 16 = 0 then scaleSize f else rb e.m3 31 16 * 64)))) ∧
        s.now + 2 ≤ q.begun ∧ q.dueAt = q.begun + 512 + scaleSize f / 128) ∧
    (e.kind = .mflip → ∀ i, e.arrays = [i] → i < 128 →
      (s.reloading c [i] = false → ∃ z, exec .mflipExecute s = .next z ∧ Taken s z c x st e es 1 true ∧
        (z.arr c i).half = !(s.arr c i).half ∧ ∀ k, k ≠ i → z.arr c k = s.arr c k) ∧
      (s.reloading c [i] = true → ∃ z, exec .mflipExecute s = .next z ∧ Taken s z c x st e es 0 false ∧
        ∀ k, z.arr c k = s.arr c k)) ∧
    (∀ v, e.kind = .mswitch v → MemOk s → ∀ i, e.arrays = [i] → i < 128 → s.macroBusy c i e.id = false → s.reloading c [i] = false →
      ∃ z, exec .macroModeChange s = .next z ∧ ((z.ctx c x).stream st).entries = es ∧ (z.core c).unit = none ∧
      (z.arr c i).compute = v ∧ ((s.arr c i).compute = false → v = true → (z.arr c i).half = false) ∧
      (z.arr c i).owner = (s.arr c i).owner ∧ ((s.arr c i).compute = v → SameBytes s z) ∧
      let marks := markHome c (i / 16) (i % 16) false
      ∀ y, y < marks ∨ marks + 16384 ≤ y → z.byteAt y = s.byteAt y) ∧
    (e.kind = .mload → ∃ z, exec .mloadExecute s = .next z ∧ Taken s z c x st e es ((8 * e.len + 63) / 64) false)

/-- 19 R397, R401, R406: a reload whose time has come writes its weights to the shadow half, which the active half keeps out
of; a routine that has been read, is valid, and does what its command declares becomes loaded; any other leaves the
directory and poisons its stream. -/
def Sys2Proof.Machine.MatrixEntriesComplete : Prop :=
  ∀ (s : State) (c : Nat), c < 128 → s.arg.core = c → MemOk s → s.errors = [] →
    (∀ r rest l a h w, (s.core c).reloads = r :: rest → r.dueAt ≤ s.now → r.killedAt = none → l < 8 →
      r.lmask.toNat = 2 ^ l → r.wptr = some a → r.sptr = none → r.fmt = 9 →
      s.goodRun r.sess 4 a 65536 = (65536, false) →
      s.checkPartsFor r.sess .engRead true [(a, 0, 65536)] =
        ([{ home := .here h, off := 0, len := 65536, va := a, win := w }], false, none) →
      ∃ z, exec .reloadDone s = .next z ∧ (z.core c).reloads.length = rest.length ∧ (z.core c).reloads.tail = rest.tail ∧
        SameRegs s z ∧
        let half := !(s.arr c (l * 16 + r.arr.toNat)).half
        let lo := sliceHome c (arrOffset l r.arr.toNat half 0 0)
        let marks := markHome c l r.arr.toNat half
        (∀ k, k < 65536 → z.byteAt (lo + k) = s.byteAt (h + k)) ∧
        ∀ y, y < lo ∨ lo + 65536 ≤ y → y < marks ∨ marks + 8192 ≤ y → z.byteAt y = s.byteAt y) ∧
    ∀ r h w, (s.core c).unit = some r → r.entry.kind = .mload → r.busyUntil ≤ s.now →
      let n := 8 * r.entry.len
      let p : Piece := { home := .here h, off := 0, len := n, va := r.entry.m0, win := w }
      let d? := (s.core c).dir.find? (·.loader == r.entry.id)
      let sess := (d?.map (·.sess.toNat)).getD (((s.strand? r.entry.age).map (·.sess)).getD 0)
      let facts := (State.microsOf (State.dwords r.entry.len (s.read h n))).bind State.routineFacts
      s.pieceWaits p = false → s.checkRange sess .engRead (r.entry.len * 8 / 256 + 3) r.entry.m0 0 (r.entry.len * 8) =
        ([p], false, none) →
      (∀ d r8 r16 outs, d? = some d → facts = some (rb r.entry.m2 23 0, rb r.entry.m3 31 0, r8, r16, outs) →
        ∃ z, exec .mloadComplete s = .next z ∧ (z.core c).unit = none ∧
        { d with loaded := true, rows8 := r8, rows16 := r16, outs := outs } ∈ (z.core c).dir ∧
        (∀ i, i < n → z.byteAt (storeHome c r.entry.rt + i) = s.byteAt (h + i)) ∧
        ∀ y, y < storeHome c r.entry.rt ∨ storeHome c r.entry.rt + n ≤ y → z.byteAt y = s.byteAt y) ∧
      ((∀ f, facts = some f → f.1 ≠ rb r.entry.m2 23 0 ∨ f.2.1 ≠ rb r.entry.m3 31 0) →
        ∃ z, exec .mloadComplete s = .next z ∧ (z.core c).unit = none ∧
        (∀ d ∈ (z.core c).dir, d.loader ≠ r.entry.id) ∧
        (r.ctx < 4 → r.stream < 4 → (s.ctx c r.ctx).strand = some r.entry.age →
          ((z.ctx c r.ctx).stream r.stream).poisoned = true) ∧
        ∀ y, y < storeHome c r.entry.rt ∨ storeHome c r.entry.rt + n ≤ y → z.byteAt y = s.byteAt y)

/-- CLR, FEED, SCALE, WAITH, FLIPH, LOOP and END of a routine: what each changes and where the routine goes on. -/
def Obligations.MicroRoutines : Prop :=
  MicroForms ∧ MicroLoopAndEnd

/-- MAC: its cycles, what its integer accumulators become, its rows and no other; sums and merges. Where the spec leaves
a point open, this states the choice of the model: log entries 13, 42 and 67. -/
def Obligations.MicroMatrix : Prop :=
  MicroMac ∧ AccumulatorArithmetic

/-- An entry that the matrix unit picks starts by its kind; a reload and the read of a routine complete. Where the spec
leaves a point open, this states the choice of the model: log entries 13, 40 and 42. -/
def Obligations.MatrixEntries : Prop :=
  MatrixEntriesStart ∧ MatrixEntriesComplete

/-! ## Operations and events of the module -/

namespace Sys2Proof.Machine

/-- A start-up that meets no failure: no step fails, every image verifies, no part, package or link is damaged, no record
waits. -/
def CleanStart (s : State) : Prop :=
  s.found.fails = 0 ∧ s.found.parts = [] ∧ s.found.dead = none ∧ s.found.widths = [] ∧ s.damage = [] ∧
  s.flash.staged = none ∧ s.flash.record.damage = [] ∧ 64 ≤ s.useRecord.ncores ∧
  ∀ c, c < 4 → s.bankRuns c (s.flash.active.getD c 0) = true

/-- Nothing runs and nothing is created; every context of every core is as at reset. -/
def Idle (z : State) : Prop :=
  z.sessions = [] ∧ z.strands = [] ∧ z.launches = [] ∧ z.crews = [] ∧ z.handles = [] ∧ z.units = [] ∧
  z.exchanges = [] ∧ z.burgee = 0 ∧ z.ckpt = none ∧ (∀ c x, z.ctx c x = {}) ∧
  ∀ y, y < capBase ∨ capBase + Config.capBytes ≤ y → z.byteAt y = 0

/-- A class 3 message (02 R34): operation, offset and value. -/
def regMsg (op off : Nat) (v : DWord) : List Byte :=
  toBytes 1 op ++ List.replicate 7 0 ++ toBytes 2 off ++ List.replicate 6 0 ++ toBytes 8 v.toNat

/-- A restart goes back to checkpoint `b`, which a fold may still have to complete; no part of it is lost with a rank, and its
journal and that of the device have no command that is open. -/
def SafeAt (s : State) (b : Image) : Prop :=
  s.safeReady = true ∧ s.deadPackage = none ∧ s.retired = [] ∧ State.lostSessions b s.useRecord.ncores = [] ∧
  ((s.delta = none ∧ s.base = some b) ∨ (s.delta = some b ∧ s.committed.map (·.number) = some b.number) ∨
    (s.base = some b ∧ ∃ d, s.delta = some d ∧ s.committed.map (·.number) ≠ some d.number)) ∧
  ∀ j ∈ s.journal, j.final.isSome = true ∧ (Cmd.type j.cmd < 6 → j.sq ≤ (if j.port = 1 then b.markA else b.markB) ∧
    ∀ k ∈ b.journal, k.port = j.port → k.sq = j.sq → k.final.isSome = true)

/-- The device is ready again with what the checkpoint `b` holds, and a CYC beyond every one that it has recorded. -/
def Reinstated (s z : State) (b : Image) : Prop :=
  z.mode = .ready ∧ z.sessions = b.sessions ∧ z.crews = b.crews ∧ z.launches = b.launches ∧ z.handles = b.handles ∧
  z.strands.map (fun t => (t.age, t.sess, t.core, t.st)) = b.strands.map (fun t => (t.age, t.sess, t.core, t.st)) ∧
  z.burgee = 0 ∧ z.epoch = s.epoch ∧ z.ckpt = none ∧ z.cyc = BitVec.ofNat 64
    (max ((s.journal.map (·.cyc.toNat) ++ s.commits.map (·.cyc.toNat) ++ [s.cycMark.toNat]).foldl max 0 + 2 ^ 25) s.found.time.toNat)

/-- The fault log goes on with the record `r` of CLASS 2 and UNIT `u`, which has the CYC of the event, and then with `rest`. -/
def FatalRecord (s z : State) (r : FaultRec) (u : Nat) (rest : List FaultRec) : Prop :=
  z.faultLog = s.faultLog ++ r :: rest ∧ r.cyc = s.cyc ∧ (r.bytes.drop 8).take 2 = toBytes 1 2 ++ toBytes 1 u

/-- Message `m` stands at port `p` of a device that is not in Pennant state. -/
def Heard (s : State) (p : Nat) (m : List Byte) : Prop :=
  s.arg.port = p ∧ (p = 1 ∨ p = 2) ∧ s.arg.msg = m ∧ s.mode ≠ .pennant

/-- The machine answers the message with the value. -/
def Answers (i : Instr) (s t : State) (m : List Byte) (v : Nat) : Prop :=
  exec i s = .next (t.toHost s.arg.port 3 (m.take 16 ++ toBytes 8 v))

/-- No command waits for its turn: every one is completed, or is a launch that stands in the launch list. -/
def Settled (s : State) : Prop :=
  s.ckpt = none ∧ ∀ j ∈ s.journal, j.final.isSome = true ∨ (j.effected = true ∧ Cmd.type j.cmd = 1)

end Sys2Proof.Machine

/-- 03 R65, R71, R80, 01 R29, R30, 02 R50, R63: a start-up that finds no safe region ends ready, with nothing created, a
new epoch, a checkpoint 0 of nothing, and CYC from the time tree; one that finds a checkpoint has its sessions, crews and
launches, and a CYC beyond every one that it has recorded; one in which a step fails ends in Pennant state. A device with
no root behind its links is the root; another's parent is the link nearest the root, the lower one of two. -/
def Sys2Proof.Machine.StartUp : Prop :=
  (∀ (i : Instr) (s : State), i ∈ [Instr.powerOn, .resetInput, .powerLossErase] → CleanStart s →
    (s.safeReady = false ∨ i = .powerLossErase) →
    ∃ z, exec i s = .next z ∧ z.mode = .ready ∧ Idle z ∧ z.journal = [] ∧ z.base = some {} ∧ z.ckptNumber = 0 ∧
      z.cyc = s.found.time ∧ z.epoch = Config.freeEpoch s.drawn ∧ z.flash.runs = ((List.range 4).map fun c => s.flash.active.getD c 0) ∧
      (i = .powerLossErase → ∀ y, z.byteAt y = 0) ∧
      (s.flash.timeRoot = true ∨ s.found.hops = [] → z.hops = 0 ∧ z.parent = none ∧ z.timeOk = true) ∧
      (∀ l n, s.flash.timeRoot = false → (l, n) ∈ s.found.hops → l < 16 →
        (∀ k m, (k, m) ∈ s.found.hops → k < 16 → n < m ∨ (n = m ∧ l ≤ k)) →
        z.parent = some l ∧ z.hops = n + 1 ∧ z.timeOk = decide (n + 1 ≤ 16))) ∧
  (∀ (i : Instr) (s : State) (b : Image), i ∈ [Instr.powerOn, .resetInput] → CleanStart s → SafeAt s b →
    ∃ z, exec i s = .next z ∧ Reinstated s z b) ∧
  ∀ (i : Instr) (s : State), i ∈ [Instr.powerOn, .resetInput] →
    s.found.fails ∈ [1, 2, 3, 4, 5, 7] ∨ (∃ c, c < 4 ∧ s.bankRuns c 0 = false ∧ s.bankRuns c 1 = false) →
    (∀ c, c < 4 → s.flash.active.getD c 0 ≤ 1) → ∃ z, exec i s = .next z ∧ z.mode = .pennant ∧ Idle z

/-- 03 R72 to R75, 01 R26, R10: a sensor at 110 °C or more, or an input below 42 V, for more than 1 ms, and the watchdog, are
package-fatal: a record of CLASS 2, and the package restarts, but not in Pennant state: it goes back to its checkpoint, or starts
with nothing where there is no safe region; a shorter time does nothing. A
lasting fault of a macro, a table tier or an elevator is such an event, and maps the part out with a record of CLASS 3: a
macro by its layer's spare, the others with their column. A retry that succeeds is logged, counted, and adds its cycles to
the pass or the queries. -/
def Sys2Proof.Machine.PackageFatalEvents : Prop :=
  (∀ s : State,
    ((∀ x ∈ s.tooHot, s.now ≤ x.2 + 1100000) → exec .thermalTrip s = .next s) ∧
    ((∀ t, s.tooLow = some t → s.now ≤ t + 1100000) → exec .powerFault s = .next s)) ∧
  (∀ (i : Instr) (u : Nat) (s : State),
    (i = .thermalTrip ∧ u = 7 ∧ (∃ x ∈ s.tooHot, x.2 + 1100000 < s.now)) ∨
      (i = .powerFault ∧ u = 8 ∧ (∃ t, s.tooLow = some t ∧ t + 1100000 < s.now)) ∨ (i = .watchdogExpiry ∧ u = 9) →
    (s.mode ≠ .pennant → CleanStart s →
      (s.safeReady = false → ∃ z r, exec i s = .next z ∧ z.mode = .ready ∧ Idle z ∧ FatalRecord s z r u []) ∧
      ∀ b, SafeAt s b → ∃ z r, exec i s = .next z ∧ Reinstated s z b ∧ FatalRecord s z r u []) ∧
    (s.mode = .pennant → s.ckpt = none → ∃ z r, exec i s = .next z ∧ z.mode = .pennant ∧ z.sessions = s.sessions ∧
      SameBytes s z ∧ FatalRecord s z r u [])) ∧
  (∀ (s : State) (u x p a : Nat) (d : Damage), u ∈ [3, 4, 5] → partOf u x p = some d → x ∈ s.useRecord.coreMap → p % 256 < 8 →
    s.mode ≠ .pennant → CleanStart s →
    let mapped (z : State) : Prop := z.damage = [d] ∧ z.flash.record.damage = [d] ∧ z.flash.record.vendor = false ∧
      z.ncores = s.useRecord.ncores ∧
      (u = 4 → z.coreMap = s.useRecord.coreMap ∧ z.remapOf x (p % 256) = BitVec.ofNat 5 (p / 256)) ∧ (u ≠ 4 → x ∉ z.coreMap)
    (s.safeReady = false → ∃ z r q, State.doTurn s (.lasting u x p a) = .next z ∧ z.mode = .ready ∧ Idle z ∧ mapped z ∧
      FatalRecord s z r u [q] ∧ (q.bytes.drop 8).take 2 = toBytes 1 3 ++ toBytes 1 u) ∧
    ∀ b, SafeAt s b → ∃ z r q, State.doTurn s (.lasting u x p a) = .next z ∧ Reinstated s z b ∧ mapped z ∧
      FatalRecord s z r u [q] ∧ (q.bytes.drop 8).take 2 = toBytes 1 3 ++ toBytes 1 u) ∧
  ∀ (s : State) (u c p n : Nat), u ∈ [3, 4, 5] → c < s.ncores → c < 128 →
    ∃ z r, State.doTurn s (.retried c u p n) = .next z ∧ SameRegs s z ∧ SameBytes s z ∧
      z.faultLog = s.faultLog ++ [r] ∧ (r.bytes.drop 8).take 2 = toBytes 1 0 ++ toBytes 1 u ∧
      (z.core c).retrycnt = (if (s.core c).retrycnt = 0xFFFFFFFF then 0xFFFFFFFF else (s.core c).retrycnt + 1) ∧
      (u = 3 → (z.core c).retrying = (s.core c).retrying + n ∧ (z.core c).unit = (s.core c).unit) ∧
      (u = 4 → ∀ r, (s.core c).unit = some r → 0 < r.planes →
        (z.core c).retrying = (s.core c).retrying + n ∧ (z.core c).unit = some { r with planes := r.planes + n }) ∧
      (u = 5 → (z.core c).retrying = (s.core c).retrying ∧ (z.core c).unit = (s.core c).unit) ∧
      ∀ d, d ≠ c → z.core d = s.core d

/-- 01 R26, R28 to R31, 04 R104, R105, 05 R117, 09 R232, R233, 11 R261: the sensors, the time exchange and its corrections, the
mark of CYC, the decay of heat, the heat tokens; ageing and the refresh of the tiers change no state. Where the spec
leaves a point open, this states the choice of the model: log entries 2, 5, 64 and 72. -/
def Obligations.ThermalAndTime : Prop :=
  (∀ (s : State) (h : Nat) (t : Nat) (i d v c n k b : Nat), s.arg.temps = [(h, t)] → s.arg.sensors = [(i, d)] →
    s.arg.volts = some v → s.arg.refills = [(c, n)] → s.arg.limits = [(k, b)] → h < 768 → c < 128 →
    ∃ z, exec .thermalController s = .next z ∧ SameRegs s z ∧ SameBytes s z ∧
      (h ∈ z.hotChannels ↔ 95 ≤ t ∨ (90 < t ∧ h ∈ s.hotChannels)) ∧
      (∀ g, g ≠ h → (g ∈ z.hotChannels ↔ g ∈ s.hotChannels)) ∧ (z.core c).refill = min n 8 ∧
      (d < 110 → ∀ x ∈ z.tooHot, x.1 ≠ i) ∧
      (110 ≤ d → ∃ y, (i, y) ∈ z.tooHot ∧ (y = s.now ∨ (i, y) ∈ s.tooHot)) ∧
      z.tooLow = (if 42 ≤ v then none else some (s.tooLow.getD s.now)) ∧
      (∀ d, d ≠ c → (z.core d).refill = (s.core d).refill) ∧ z.stackLimit = s.stackLimit.set k (max 1 (min b 64))) ∧
  (∀ (s : State) (l : Nat), s.arg.link = l → l < 16 →
    let due : Prop := s.mode = .ready ∧ (s.parent = some l ∨ l ∈ s.children) ∧ (s.link l).up = true ∧ (s.link l).lastTime + 65536 ≤ s.now
    (¬ due → exec .timeExchange s = .next s) ∧
    (due → ∃ z, exec .timeExchange s = .next z ∧ SameRegs s z ∧ SameBytes s z ∧ z.cyc = s.cyc ∧
      ∃ f : List Byte, s.sent ++ [{ link := l, flit := f }] <+: z.sent ∧
        (f.drop 4).head? = some 0x20 ∧ (f.drop 16).take 8 = toBytes 8 s.cyc.toNat)) ∧
  (∀ (s : State) (l t delay : Nat), s.mode ≠ .ready → s.timeFlit l t delay = s) ∧
  (∀ (s : State) (l t delay : Nat), s.mode = .ready → s.parent = some l → l ∉ s.children → l < 16 →
    let off : Int := (s.cyc.toNat : Int) - (t + delay : Nat)
    let z := s.timeFlit l t delay
    z.cyc = s.cyc ∧ z.offset = off ∧ z.correction = off ∧ z.corrWait = s.corrWait ∧
      (z.timeOk = true ↔ off.natAbs ≤ 16 ∧ s.hops ≤ 16) ∧ SameRegs s z ∧ SameBytes s z) ∧
  (∀ (s : State) (l t delay : Nat), s.mode = .ready → l ∈ s.children → l < 16 →
    s.timeFlit l t delay = s.modLink l fun k => { k with roundTrip := (s.now - k.lastTime) * 8 }) ∧
  (∀ s : State,
    let z := s.tick
    (s.corrWait ≠ 0 ∨ s.correction = 0 → z.cyc = s.cyc + 1 ∧ z.correction = s.correction ∧ z.corrWait = s.corrWait - 1) ∧
    (s.corrWait = 0 → 0 < s.correction → z.cyc = s.cyc ∧ z.correction = s.correction - 1 ∧ z.corrWait = 1023) ∧
    (s.corrWait = 0 → s.correction < 0 → z.cyc = s.cyc + 2 ∧ z.correction = s.correction + 1 ∧ z.corrWait = 1023) ∧
    z.now = s.now + 1 ∧ SameRegs s z ∧ SameBytes s z) ∧
  (∀ s : State, exec .cycControlWrite s = .next (if s.cycMark.toNat + 2 ^ 24 ≤ s.cyc.toNat then { s with cycMark := s.cyc } else s)) ∧
  (∀ s : State, ∃ z, exec .heatDecay s = .next z ∧ SameRegs s z ∧ SameBytes s z ∧
    (∀ h, h ∈ z.pageHeat ↔ ∃ g ∈ s.pageHeat, 2 ≤ g.2.2 ∧ h = (g.1, g.2.1, g.2.2 / 2)) ∧
    ∀ h, h ∈ z.regionHeat ↔ ∃ g ∈ s.regionHeat, 2 ≤ g.2.2 ∧ h = (g.1, g.2.1, g.2.2 / 2)) ∧
  (∀ s : State, exec .priorityAgeing s = .next s ∧ exec .tableRefresh s = .next s) ∧
  ∀ (s : State) (c : Nat), c < 128 → s.arg.core = c → (s.core c).heatAt ≤ s.now →
    let k := s.core c
    let b := min (k.bucket + k.refill) 65536
    ∃ z, exec .heatTokenCycle s = .next z ∧ SameBytes s z ∧ SameRegs s z ∧ (z.core c).heatAt = s.now + 1 ∧
      (k.unit = none → (z.core c).bucket = b ∧ (z.core c).stopped = false) ∧
      (∀ r, k.unit = some r → 0 < r.planes → 0 < r.halves → r.halves ≤ b →
        (z.core c).bucket = b - r.halves ∧ (z.core c).unit = some { r with planes := r.planes - 1 } ∧
        (z.core c).stopped = false) ∧
      (∀ r, k.unit = some r → 0 < r.planes → b < r.halves →
        (z.core c).bucket = b ∧ (z.core c).unit = some r ∧ (z.core c).stopped = true)

/-- 02 R34 to R38, R55, R56: the management registers, the writing of a completion into the ring, and the writing again of
a position that was not done at a restart. Where the spec leaves a point open, this states the choice of the model: log
entries 7 and 76. -/
def Obligations.HostRegisters : Prop :=
  (∀ (s : State) (p : Nat) (v : DWord), Heard s p (regMsg 0 0 v) →
    (s.burgee = 0 → let t : State := { s with burgee := BitVec.ofNat 2 p }
      Answers .burgeeRead s t (regMsg 0 0 v) p) ∧
    (s.burgee ≠ 0 → Answers .burgeeRead s s (regMsg 0 0 v) s.burgee.toNat)) ∧
  (∀ (s : State) (p : Nat) (v : DWord), Heard s p (regMsg 1 0 v) → ∃ z, exec .burgeeWrite s = .next z ∧ SameBytes s z ∧
    z.burgee = if s.burgee.toNat = p ∧ v.toNat % 4 = 0 then 0 else s.burgee) ∧
  (∀ (s : State) (p : Nat) (v : DWord), Heard s p (regMsg 1 0x20 v) → ∃ z, exec .crbaseWrite s = .next z ∧
    z.port p = if (s.port p).notDone = [] ∧ v.toNat % 64 = 0 then { s.port p with crbase := v, nextPos := 0 } else s.port p) ∧
  (∀ (s : State) (p : Nat) (v : DWord), Heard s p (regMsg 1 0x28 v) → ∃ z, exec .crsizeWrite s = .next z ∧
    ((s.port p).notDone = [] → (∃ k, 6 ≤ k ∧ k ≤ 16 ∧ v.toNat = 2 ^ k) →
      z.port p = { s.port p with crsize := v, nextPos := 0 }) ∧
    ((s.port p).notDone ≠ [] ∨ (¬ ∃ k, 6 ≤ k ∧ k ≤ 16 ∧ v.toNat = 2 ^ k) → z.port p = s.port p)) ∧
  (∀ (s : State) (p : Nat) (v : DWord), Heard s p (regMsg 1 0x30 v) → ∃ z, exec .registerWrite s = .next z ∧
    z.port p = { s.port p with crcons := v }) ∧
  (∀ (s : State) (p : Nat) (v : DWord), ∀ r ∈ [(0x08, p), (0x10, (match s.mode with
      | .bringUp => 0 | .ready => 1 | .pennant => 2 | .restarting => 3) + (if s.timeOk then 4 else 0)),
      (0x18, s.epoch.toNat), (0x20, (s.port p).crbase.toNat), (0x28, (s.port p).crsize.toNat), (0x30, (s.port p).crcons.toNat)],
    Heard s p (regMsg 0 r.1 v) → Answers .registerWrite s s (regMsg 0 r.1 v) r.2) ∧
  (∀ (s : State) (p q : Nat) (r : List Byte) (rest : List (Nat × List Byte)), s.arg.port = p → (p = 1 ∨ p = 2) →
    (s.port p).waiting = (q, r) :: rest → (∀ y ∈ (s.port p).notDone, y.2.2 ≠ none ∧ y.1 < (s.port p).nextPos) →
    let t := s.port p
    let n := t.crsize.toNat
    let x := t.nextPos
    let full : Prop := t.crcons.toNat + n ≤ x ∨ (∃ y ∈ t.notDone.head?, y.1 + n ≤ x)
    (n = 0 ∨ full → exec .completionPost s = .next s) ∧
    (n ≠ 0 → s.mode ≠ .pennant → ¬ full → (s.link (15 + p)).backlog = [] → 1 ≤ (s.link (15 + p)).room → r.length = 32 →
      ∃ z w, exec .completionPost s = .next z ∧ (z.port p).waiting = rest ∧ (z.port p).nextPos = x + 1 ∧
        (z.port p).notDone = t.notDone ++ [(x, w, some (s.link (15 + p)).nextSeq)] ∧ w.take 18 = r.take 18 ∧
        w.drop 19 = r.drop 19 ∧
        ((z.link (15 + p)).replay.getLast?.map fun f => (f.2.drop 16).take 48) =
          some (toBytes 8 (t.crbase.toNat + 32 * (x % n)) ++ toBytes 2 32 ++ toBytes 6 0 ++ w))) ∧
  ∀ (s : State) (p x : Nat) (w : List Byte) (l r : List (Nat × List Byte × Option (BitVec 32))), s.arg.port = p →
    (p = 1 ∨ p = 2) → s.mode ≠ .pennant → (s.port p).notDone = l ++ (x, w, none) :: r → (∀ y ∈ l, y.2.2 ≠ none ∧ y.1 ≠ x) →
    (∀ y ∈ r, y.1 ≠ x) → (s.link (15 + p)).backlog = [] → 1 ≤ (s.link (15 + p)).room → w.length = 32 →
    ∃ z, exec .completionPost s = .next z ∧ (z.port p).waiting = (s.port p).waiting ∧
      (z.port p).notDone = l ++ (x, w, some (s.link (15 + p)).nextSeq) :: r ∧
      ((z.link (15 + p)).replay.getLast?.map fun f => (f.2.drop 16).take 48) =
        some (toBytes 8 ((s.port p).crbase.toNat + 32 * (x % (s.port p).crsize.toNat)) ++ toBytes 2 32 ++ toBytes 6 0 ++ w)

/-- Start-up and package-fatal events, each with and without a checkpoint, a failing step, and the end of a retry. Where
the spec leaves a point open, this states the choice of the model: log entries 16, 43, 45, 46, 53, 65, 75 and 76. -/
def Obligations.StartUpAndFatalEvents : Prop :=
  StartUp ∧ PackageFatalEvents

namespace Sys2Proof.Machine

/-- Command message `m` stands at port `p` of a ready device with an empty journal, and passes the checks of 02 R482. -/
def Arrives (s : State) (p : Nat) (m : List Byte) (i : Instr) : Prop :=
  s.arg.port = p ∧ (p = 1 ∨ p = 2) ∧ s.arg.msg = m ∧ s.mode = .ready ∧ s.ckpt = none ∧ s.folding = false ∧
  s.journal = [] ∧ Cmd.headerOk m = true ∧ Cmd.event m = i ∧ s.sameTag p m = none ∧ s.rejects p m = none

/-- The command stands in the journal under the next sequence number of its port, with a status and DETAIL. -/
def Entered (s z : State) (p : Nat) (m : List Byte) (st : Option (BitVec 8)) (d : Nat) : Prop :=
  ∃ j, z.journal = [j] ∧ j.port = p ∧ j.sq = (s.port p).highest + 1 ∧ j.cmd = m ∧ j.final = st ∧ j.detail = d ∧
    (z.port p).highest = (s.port p).highest + 1

/-- The session that a command names has a table of its own. -/
def Names (s : State) (m : List Byte) (t : Session) : Prop := s.session? (Cmd.sess m) = some t ∧ t.noRoom = false

/-- A checkpoint of a quiet device whose delta has been written, for the command that is the journal's one entry. -/
def Written (s : State) (p q : Nat) (i : Image) (ty : Nat) (reset : Bool) : Prop :=
  s.mode = .ready ∧ s.delta = some i ∧ (∃ k, s.ckpt = some k ∧ k.at_ = .written ∧ k.who = some (p, q) ∧ k.reset = reset) ∧
  ∃ j, s.journal = [j] ∧ j.port = p ∧ j.sq = q ∧ j.final = none ∧ j.effected = true ∧ Cmd.type j.cmd = ty

end Sys2Proof.Machine

/-- 02 R48, R49, R52, R58, R482, 03 R71: which commands are not taken: in Pennant state, with a bad header, a repeated TAG,
a broken rule of the body, without Burgee, or rejected for what they name. Each is answered and does nothing else. Where
the spec leaves a point open, this states the choice of the model: log entries 47, 48, 60, 69 and 76. -/
def Obligations.CommandsTurnedAway : Prop :=
  ∀ (s : State) (p : Nat) (m : List Byte), s.arg.port = p → (p = 1 ∨ p = 2) → s.arg.msg = m →
    let answer (sq st fl : Nat) : Prop := exec (Cmd.event m) s = .next (s.respond p m sq st fl)
    (s.mode = .pennant → Cmd.headerOk m = false ∨ Cmd.type m ≠ 8 → answer 0 0x19 0) ∧
    (s.mode = .pennant → Cmd.headerOk m = true → Cmd.type m = 8 → s.badBody m = false → ∀ t, (s.port p).lastQuery = some t →
      s.now < t + 110000 → Cmd.arg m 0 1 = 0 ∨ Cmd.arg m 0 1 = 2 → answer 0 0x18 0) ∧
    (s.mode ≠ .pennant →
      (Cmd.headerOk m = false → answer 0 0x10 0) ∧
      (Cmd.headerOk m = true → ∀ t ∈ (s.port p).tags, t.1 = Cmd.tag m → (s.port p).highest < t.2 + 2 ^ 20 →
        (∀ u ∈ (s.port p).tags, u.1 = Cmd.tag m → u = t) → answer t.2 0x01 1) ∧
      (Cmd.headerOk m = true → (∀ t ∈ (s.port p).tags, t.1 ≠ Cmd.tag m) →
        (s.badBody m = true → answer 0 0x10 0) ∧
        (s.badBody m = false → State.needsBurgee m = true → s.burgee.toNat ≠ p → answer 0 0x11 0) ∧
        (s.badBody m = false → (State.needsBurgee m = false ∨ s.burgee.toNat = p) →
          (∀ c, s.badTarget m = some c → answer 0 c 0) ∧
          (s.badTarget m = none → 4194304 ≤ s.journalUsed → answer 0 0x18 0))))

/-- 02 R41, R46, 04 R89, R96 to R98, R110: what LAUNCH, SESSION, MAP, UNMAP and HANDLE bring about when nothing stands
before them. Where the spec leaves a point open, this states the choice of the model: log entries 44, 50 and 69. -/
def Obligations.SessionCommands : Prop :=
  (∀ (s : State) (p : Nat) (m : List Byte), Arrives s p m .launch → (∀ t, s.session? (Cmd.sess m) = some t → t.noRoom = false) →
    ∃ z l, exec .launch s = .next z ∧ z.launches = s.launches ++ [l] ∧ l.sess = Cmd.sess m ∧ l.body = m.drop 32 ∧
      l.deps = Cmd.deps m ∧ l.entered = false ∧ l.port = p ∧ l.sq = (s.port p).highest + 1 ∧ Entered s z p m none 0 ∧
      SameBytes s z ∧ SameRegs s z) ∧
  (∀ (s : State) (p : Nat) (m : List Byte), Arrives s p m .sessionCreate → s.tables.contains (Cmd.arg m 8 8) = false →
    ∃ z t, exec .sessionCreate s = .next z ∧ z.sessions = s.sessions ++ [t] ∧ t.id = Cmd.sess m ∧
      t.system = decide (Cmd.arg m 2 1 = 1) ∧ t.peer = decide (Cmd.arg m 3 1 = 1) ∧ t.port = p ∧ t.table = Cmd.arg m 8 8 ∧ t.killed = false ∧ t.noRoom = false ∧
      t.pool = BitVec.ofNat 64 (Cmd.arg m 16 8) ∧ t.poolSize = Cmd.arg m 24 8 ∧ Entered s z p m (some 0) 0 ∧
      (MemOk s → ∀ y, z.byteAt y = if t.table ≤ y ∧ y < t.table + 65536 then 0 else s.byteAt y)) ∧
  (∀ (s : State) (p : Nat) (m : List Byte) (t : Session), Arrives s p m .sessionDestroy → Names s m t → s.strands = [] →
    s.sessionQuiet t.id = true → t.id < 64 → ∃ z, exec .sessionDestroy s = .next z ∧ Entered s z p m (some 0) 0 ∧
      z.sessions = s.sessions.filter (·.id != t.id) ∧ z.handles = s.handles.filter (·.1 != t.id) ∧
      (∀ c i k, c < 128 → i < 128 → (s.arr c i).owner = some (BitVec.ofNat 6 t.id) → k < 131072 →
        z.byteAt (sliceHome c (i * 131072) + k) = 0 ∧ z.arr c i = {}) ∧
      (MemOk s → ∀ y, y < sliceBase → z.byteAt y = s.byteAt y)) ∧
  (∀ (s : State) (p : Nat) (m : List Byte) (t : Session), Names s m t → s.exchanges = [] → MemOk s → Cmd.arg m 1 1 = 1 →
    let va := Cmd.arg m 8 8
    let a1 := t.table + 8 * bits va 51 42
    let e1 := s.readNat a1 8
    let a2 := Pte.ppn e1 * 65536 + 8 * bits va 41 29
    let leaf := State.leafOf (Cmd.arg m 29 1) (Cmd.arg m 28 1) (Cmd.arg m 30 1) (Cmd.arg m 16 8)
    Pte.ok e1 false = true → (a1 + 8 ≤ a2 ∨ a2 + 8 ≤ a1) →
    (Arrives s p m .map → Cmd.arg m 24 4 = 1 → Pte.ok (s.readNat a2 8) false = false →
      s.isRetired (Cmd.arg m 28 1) (Cmd.arg m 16 8) Config.bigPageBytes = false →
      ∃ z, exec .map s = .next z ∧ Entered s z p m (some 0) 1 ∧ z.walk t.table va = some ⟨a2, leaf, true⟩ ∧
        ∀ y, y < a2 ∨ a2 + 8 ≤ y → z.byteAt y = s.byteAt y) ∧
    (Arrives s p m .unmap → Cmd.arg m 16 4 = 1 → Pte.ok (s.readNat a2 8) true = true →
      ∃ z, exec .unmap s = .next z ∧ Entered s z p m (some 0) 1 ∧ z.walk t.table va = none)) ∧
  ∀ (s : State) (p : Nat) (m : List Byte) (t : Session), Names s m t →
    let rest := s.handles.filter fun h => !(h.1 == Cmd.sess m && h.2.1 == Cmd.arg m 2 2)
    (Arrives s p m .handleRegister → ∃ z, exec .handleRegister s = .next z ∧ Entered s z p m (some 0) 0 ∧
      z.handles = rest ++ [(Cmd.sess m, Cmd.arg m 2 2, BitVec.ofNat 1024 (Cmd.arg m 8 128))]) ∧
    (Arrives s p m .handleRelease → ∃ z, exec .handleRelease s = .next z ∧ Entered s z p m (some 0) 0 ∧ z.handles = rest)

/-- 03 R76 to R79, R82, 02 R47, R48: CHECKPOINT, and MGMT with a reset, on a quiet device write every dirty granule to its
slot of the delta with the records of the device; the next turn commits them, in both copies of the commit record, and
the command completes, or the package restarts from the checkpoint. -/
def Sys2Proof.Machine.CheckpointCommands : Prop :=
  (∀ (i : Instr) (s : State) (p : Nat) (m : List Byte), (i = .checkpoint ∨ i = .mgmtReset) → Arrives s p m i →
    (∀ k, s.quiesced k = true) → s.deadPackage = none → MemOk s →
    ∃ z b k, exec i s = .next z ∧ z.delta = some b ∧ z.ckpt = some k ∧ k.at_ = .written ∧
      k.who = some (p, (s.port p).highest + 1) ∧ k.reset = decide (i = .mgmtReset) ∧ b.number = s.ckptNumber + 1 ∧
      b.sessions = s.sessions ∧ b.strands = s.strands ∧ b.handles = s.handles ∧ b.crews = s.crews ∧
      b.markA = (z.port 1).highest ∧ b.markB = (z.port 2).highest ∧ SameBytes s z ∧ z.dirty = s.dirty ∧ k.index = s.deltaIndex ∧
      (∀ y, scaleBase ≤ y → memGet b.mem y = s.byteAt y) ∧ z.base = s.base ∧ z.commits = s.commits ∧
      (∀ g n o, s.deltaIndex[n]? = some g → o < 65536 → memGet z.deltaArea.data (n * 65536 + o) = s.byteAt (g * 65536 + o)) ∧
      Entered s z p m none 0) ∧
  (∀ (s : State) (p q : Nat) (b : Image), Written s p q b 6 false → ∃ z c, exec .launchEntry s = .next z ∧ z.ckpt = none ∧
    z.commits = [c, c] ∧ c.number = b.number ∧ (∀ k, s.ckpt = some k → c.index = k.index) ∧ State.validCommit c = true ∧ z.ckptNumber = b.number ∧
    z.delta = some b ∧ z.base = s.base ∧ z.folding = true ∧ z.logged = [] ∧ SameBytes s z ∧
    (∀ g ∈ z.dirty, g ∈ s.dirty) ∧ (∀ g ∈ s.dirty, (∀ k, s.ckpt = some k → g ∉ k.index) → g ∈ z.dirty) ∧
    ∃ j, z.journal = [j] ∧ j.final = some 0 ∧ j.detail = b.number % 2 ^ 32) ∧
  (∀ (s : State) (p q : Nat) (b : Image), Written s p q b 9 true → CleanStart s → s.safeReady = true → s.deadPackage = none →
    s.retired = [] → State.lostSessions b s.useRecord.ncores = [] →
    ∃ z, exec .launchEntry s = .next z ∧ z.mode = .ready ∧ z.base = some b ∧ z.delta = none ∧ z.ckpt = none ∧
      z.sessions = b.sessions ∧ z.crews = b.crews ∧ z.burgee = 0 ∧ z.ckptNumber = b.number ∧
      ∃ j, z.journal = [j] ∧ j.final = some 0 ∧ j.detail = 0) ∧
  ∀ (s : State) (b : Image) (k : Commit), s.folding = true → s.ckpt = none → s.journal = [] → s.delta = some b →
    s.committed = some k → k.number = b.number → s.deadPackage = none → s.baseArea.bad = [] → s.deltaArea.bad = [] →
    MemOk s → k.index.Nodup →
    (∀ g ∈ k.index, g < State.hbmGranules ∨ sliceBase / 65536 ≤ g) →
    ∃ z, exec .foldComplete s = .next z ∧ z.base = some b ∧ z.delta = none ∧ z.folding = false ∧ z.commits = s.commits ∧
      SameBytes s z ∧
      (∀ g n o, k.index[n]? = some g → o < 65536 →
        memGet z.baseArea.data (State.baseSlot g * 65536 + o) = memGet s.deltaArea.data (n * 65536 + o)) ∧
      ∀ y, (∀ g ∈ k.index, y / 65536 ≠ State.baseSlot g) → memGet z.baseArea.data y = memGet s.baseArea.data y

/-- 02 R47, R48, 03 R67, R70, R75, R80: what RESTORE, QUERY and MGMT bring about: the reinstatement of the base image,
its granules and the unlogged bytes of the capacity tier; the reply and its length; the reading of an image, the settings. -/
def Sys2Proof.Machine.ControlCommands : Prop :=
  (∀ (s : State) (p : Nat) (m : List Byte) (b : Image), Arrives s p m .restore → s.base = some b → s.delta = none →
    s.deadPackage = none → s.baseArea.bad = [] → s.retired = [] → State.lostSessions b s.ncores = [] → MemOk s →
    (∀ c ∈ b.mem, scaleBase ≤ c.1) →
    (∀ c ∈ s.baseArea.data, c.1 < (State.hbmGranules + 32768) * 65536) → ∃ z, exec .restore s = .next z ∧
      z.sessions = b.sessions ∧ z.launches = b.launches ∧ z.crews = b.crews ∧ z.handles = b.handles ∧
      z.recvQueues = (b.queues.filter fun r => decide (r.core < s.ncores)) ∧ z.exchanges = [] ∧ z.requests = [] ∧ z.dirty = [] ∧
      (∀ y, y < Config.hbmBytes ∨ (sliceBase ≤ y ∧ y < sliceHome s.ncores 0) →
        z.byteAt y = memGet s.baseArea.data (State.baseSlot (y / 65536) * 65536 + y % 65536)) ∧
      (∀ y, capBase ≤ y → y < capBase + Config.capBytes → y / 65536 ∉ s.logged → z.byteAt y = s.byteAt y) ∧
      Entered s z p m (some 0) (s.ckptNumber % 2 ^ 32)) ∧
  (∀ (i : Instr) (s : State) (p : Nat) (m : List Byte),
    i ∈ [Instr.queryIdentity, .querySequence, .queryFaultLog, .queryHeatMap, .queryAttestation] → Arrives s p m i →
    let w := s.accept p m
    let b := w.queryReply m
    let at1 := Cmd.hostPtr p (Cmd.arg m 8 8)
    exec i s = .next ((w.hostWrite at1.1 at1.2 (b.take (Cmd.arg m 16 4))).complete p ((s.port p).highest + 1) 0 b.length) ∧
    (i = .queryIdentity → b.length = 512 ∧ b.take 2 = [2, 0] ∧ b.drop 2 ≠ [] ∧
      (b.drop 4).take 1 = toBytes 1 s.ncores) ∧
    (i = .querySequence → b.length = 64) ∧
    (i = .queryFaultLog → (∀ r ∈ s.faultLog, r.bytes.length = 64) → b.length = 4096) ∧
    (i = .queryHeatMap → ∃ k, b.length = 768 + 16 * k) ∧ (i = .queryAttestation → b.length = 16928)) ∧
  (∀ (i : Instr) (s : State) (p : Nat) (m : List Byte), i ∈ [Instr.mgmtFirmwareUpdate, .mgmtCoreMapChange] → Arrives s p m i →
    let n := Cmd.arg m 16 4
    let at1 := Cmd.hostPtr p (Cmd.arg m 8 8)
    (0x4000000 < n → ∃ z, exec i s = .next z ∧ z.flash = s.flash ∧ Entered s z p m (some 0) 3) ∧
    (n ≠ 0 → n ≤ 0x4000000 → n ≤ 256 - at1.2 % 256 → (s.link (15 + at1.1)).egress = [] →
      (∀ r ∈ s.requests, r.who ≠ .ensign p ((s.port p).highest + 1)) → ∃ z r, exec i s = .next z ∧ z.flash = s.flash ∧
        z.requests = s.requests ++ [r] ∧ r.link = 15 + at1.1 ∧ r.who = .ensign p ((s.port p).highest + 1) ∧ r.read = true ∧
        r.len = n ∧ r.reply = none ∧ Entered s z p m none 0)) ∧
  ∀ (s : State) (p : Nat) (m : List Byte),
    (Arrives s p m .mgmtPowerCap → ∃ z, exec .mgmtPowerCap s = .next z ∧ z.powerCap = Cmd.arg m 16 4 ∧
      Entered s z p m (some 0) 0) ∧
    (Arrives s p m .mgmtTimeRoot → ∃ z, exec .mgmtTimeRoot s = .next z ∧ Entered s z p m (some 0) 0 ∧
      z.flash = { s.flash with timeRoot := decide (Cmd.arg m 16 4 = 1) })

/-- CHECKPOINT, RESTORE, QUERY and MGMT: what each brings about on a quiet device. Where the spec leaves a point open,
this states the choice of the model: log entries 4, 45, 49, 62 and 63. -/
def Obligations.ControlAndCheckpointCommands : Prop :=
  ControlCommands ∧ CheckpointCommands

/-- 02 R44, R45, R61, 03 R78, R79, 05 R114 to R118: the life of a launch: its strands enter whole with their homes and first
registers, or it ends without any; it completes when its strands are done. KillSession, and the device's own
checkpoint: it writes its delta at once on a quiet device, and begins to quiesce on another. Where the spec leaves a
point open, this states the choice of the model: log entries 57, 61 and 71. -/
def Obligations.LaunchLife : Prop :=
  (∀ (s : State) (l : Launch), Settled s → s.nextLaunchable = some l →
    let n := field l.body 16 2 + 1
    let mask := field l.body 64 16
    let hints := field l.body 20 4
    let cores := (List.range s.ncores).filter fun c => mask = 0 ∨ bit mask c = 1
    let alive : Prop := ∃ t, s.session? l.sess = some t ∧ t.killed = false
    let ends (st : BitVec 8) : Prop := ∃ z, exec .launchEntry s = .next z ∧ z.launches = s.launches.filter (·.id != l.id) ∧
      (∀ j, s.entry? l.port l.sq = some j → j.final = none → (z.entry? l.port l.sq).map (·.final) = some (some st))
    let enters (k : Nat) : Prop := ∃ z new, exec .launchEntry s = .next z ∧ z.strands = s.strands ++ new ∧ new.length = n ∧
      z.ageCounter = s.ageCounter + n ∧ (∀ j ∈ z.launches, j.id = l.id → j.entered = true ∧ j.created = n) ∧ SameBytes s z ∧
      (if k = 0 then z.crews = s.crews else ∃ w, z.crews = s.crews ++ [w] ∧ w.id = k ∧ w.sess = l.sess ∧
        w.members = (List.range n).map (s.ageCounter + ·)) ∧
      ∀ i, i < n → ∃ t, new[i]? = some t ∧ t.age = s.ageCounter + i ∧ t.index = BitVec.ofNat 32 i ∧ t.st = .ready ∧
        t.sess = l.sess ∧ t.launch = l.id ∧ t.prio = field l.body 19 1 ∧ t.readyAt = s.now ∧
        t.core = cores.getD ((if bit hints 1 = 1 then i else i / 4) % cores.length) 0 ∧
        t.image.fixed = decide (bit hints 0 = 1) ∧ t.image.pc = BitVec.ofNat 64 (field l.body 0 8) ∧
        t.image.rg 1 = BitVec.ofNat 64 (field l.body 8 8) ∧ t.image.rg 2 = BitVec.ofNat 64 n ∧
        t.image.rg 3 = BitVec.ofNat 64 k
    (s.depsOf l = some false → ends 0x20) ∧
    (s.depsOf l = some true → ¬ alive → ends 0x21) ∧
    (s.depsOf l = some true → alive → cores = [] → ends 0x26) ∧
    (s.depsOf l = some true → alive → cores ≠ [] →
      (1048576 < s.pooled + n → exec .launchEntry s = .next s) ∧
      (s.pooled + n ≤ 1048576 → bit hints 2 = 0 → enters 0) ∧
      (s.pooled + n ≤ 1048576 → bit hints 2 = 1 → (∃ k, 1 ≤ k ∧ k ≤ 65535 ∧ ∀ j ∈ s.crews, j.id ≠ k) →
        ∃ k, 1 ≤ k ∧ k ≤ 65535 ∧ (∀ j ∈ s.crews, j.id ≠ k) ∧ enters k) ∧
      (s.pooled + n ≤ 1048576 → bit hints 2 = 1 → (∀ k, 1 ≤ k → k ≤ 65535 → ∃ j ∈ s.crews, j.id = k) →
        exec .launchEntry s = .next s))) ∧
  (∀ (s : State) (l : Launch), Settled s → s.launch? s.arg.n = some l → l.entered = true →
    ((∀ t ∈ s.strands, t.launch = l.id → t.st = .done ∧ s.engineFree t = true) →
      ∃ z, exec .launchComplete s = .next z ∧ z.launches = s.launches.filter (·.id != l.id) ∧
        z.strands = s.strands.filter (·.launch != l.id) ∧ SameBytes s z ∧ ∀ j, s.entry? l.port l.sq = some j → j.final = none →
          let lost : Prop := s.arg.outcome = 0x25 ∧ l.status = 0 ∧ ∃ t, s.session? l.sess = some t ∧ t.peer = true
          let ends (st : BitVec 8) : Prop :=
            (z.entry? l.port l.sq).map (fun k => (k.final, k.detail)) = some (some st, min l.created 0xFFFFFFFF)
          (lost → ends 0x25) ∧ (¬ lost → ends l.status)) ∧
    ((∃ t ∈ s.strands, t.launch = l.id ∧ t.st ≠ .done) → exec .launchComplete s = .next s)) ∧
  (∀ s : State, (s.session? s.arg.sess = none → exec .sessionKill s = .next s) ∧
    (∀ t, s.session? s.arg.sess = some t → ∃ z, exec .sessionKill s = .next z ∧ SameBytes s z ∧
      (∀ u ∈ z.strands, u.sess = s.arg.sess → u.st = .done) ∧ (∀ l ∈ s.launches, l.sess = s.arg.sess →
      { l with status := if l.status = 0 then 0x21 else l.status } ∈ z.launches) ∧
      (∀ u ∈ z.sessions, u.id = s.arg.sess → u.killed = true) ∧ (∀ u ∈ s.sessions, u.id ≠ s.arg.sess → u ∈ z.sessions) ∧
      ∀ l ∈ s.launches, l.sess ≠ s.arg.sess → l ∈ z.launches)) ∧
  (∀ s : State, s.ckpt = none → s.folding = false → s.mode = .ready →
    let due : Prop := 3145728 ≤ s.journalUsed ∨ 245760 ≤ s.dirty.length ∨ 245760 ≤ s.logged.length
    (¬ due → exec .autoCheckpoint s = .next s) ∧
    (due → (∀ k, s.quiesced k = true) → ∃ z b k, exec .autoCheckpoint s = .next z ∧ z.ckpt = some k ∧ k.who = none ∧
      k.reset = false ∧ k.at_ = .written ∧ k.markA = (s.port 1).highest ∧ k.markB = (s.port 2).highest ∧ z.delta = some b ∧
      b.number = s.ckptNumber + 1 ∧ z.base = s.base ∧ z.commits = s.commits ∧ SameBytes s z) ∧
    (due → (∃ c x, c < 128 ∧ x < 4 ∧ (s.ctx c x).st ≠ .free) → ∃ z k, exec .autoCheckpoint s = .next z ∧ z.ckpt = some k ∧
      k.at_ = .quiesce ∧ z.delta = s.delta ∧ z.base = s.base ∧ SameBytes s z)) ∧
  ∀ s : State, s.folding = false → exec .foldComplete s = .next s

/-- 04 R104 to R107: an exchange starts only where the rules of promotion or cooling allow it, and marks both leaves; while
an access is in flight to one of its pages, or the areas of a checkpoint are nearly full, it waits; it
ends with the frames' bytes exchanged, each leaf naming the other's frame with its own permissions, and MIG clear. Where
the spec leaves a point open, this states the choice of the model: log entries 24 and 50. -/
def Obligations.PageExchanges : Prop :=
  (∀ (s : State) (t : Session) (a b : Leaf), MemOk s → s.session? s.arg.sess = some t →
    s.movable t s.arg.addr = some a → s.movable t s.arg.addr2 = some b → (a.addr + 8 ≤ b.addr ∨ b.addr + 8 ≤ a.addr) →
    let frame (e : Leaf) : Piece := { home := .here ((State.leafHome e.entry).getD 0), off := 0, len := 65536 }
    let x : Exchange := { sess := s.arg.sess, va := s.arg.addr, vb := s.arg.addr2 }
    let free : Prop := s.inFlight s.arg.sess s.arg.addr = false ∧ s.inFlight s.arg.sess s.arg.addr2 = false ∧
      s.granuleHold [frame a, frame b] = false
    let begins (z : State) : Prop := z.readNat a.addr 8 = a.entry + 4096 ∧ z.readNat b.addr 8 = b.entry + 4096 ∧ SameRegs s z ∧
      ∀ y, (y < a.addr ∨ a.addr + 8 ≤ y) → (y < b.addr ∨ b.addr + 8 ≤ y) → z.byteAt y = s.byteAt y
    (s.mayExchange t s.arg.addr s.arg.addr2 = false ∨ 16 ≤ s.exchanges.length ∨ (∃ x ∈ s.exchanges, x.sess = s.arg.sess) ∨
      s.ckpt ≠ none → exec .pageExchange s = .next s) ∧
    (s.mayExchange t s.arg.addr s.arg.addr2 = true → s.exchanges.length < 16 → (∀ x ∈ s.exchanges, x.sess ≠ s.arg.sess) →
      s.ckpt = none →
      (¬ free → exec .pageExchange s = .next { s with exchanges := s.exchanges ++ [{ x with held := true }] }) ∧
      (free → ∃ z, exec .pageExchange s = .next z ∧ z.exchanges = s.exchanges ++ [x] ∧ begins z)) ∧
    (s.mayExchange t s.arg.addr s.arg.addr2 = true → free → t.id = s.arg.sess → s.exchanges = [{ x with held := true }] →
      ∃ z, exec .exchangeSwap s = .next z ∧ z.exchanges = [x] ∧ begins z)) ∧
  (∀ s : State, s.session? s.arg.sess = none → exec .pageExchange s = .next s) ∧
  (∀ (s : State) (x : Exchange) (t : Session) (a b : Leaf) (ha hb : Nat), Settled s → MemOk s → s.errors = [] →
    s.exchanges.find? (fun x => x.sess == s.arg.sess && !x.held) = some x → s.session? s.arg.sess = some t → s.walk t.table x.va = some a →
    s.walk t.table x.vb = some b → State.leafHome a.entry = some ha → State.leafHome b.entry = some hb →
    (ha + 65536 ≤ hb ∨ hb + 65536 ≤ ha) → (a.addr + 8 ≤ b.addr ∨ b.addr + 8 ≤ a.addr) →
    (∀ l ∈ [a.addr, b.addr], ∀ h ∈ [ha, hb], l + 8 ≤ h ∨ h + 65536 ≤ l) →
    ∃ z, exec .exchangeSwap s = .next z ∧ z.exchanges = s.exchanges.filter (· != x) ∧
      (∀ k, k < 65536 → z.byteAt (ha + k) = s.byteAt (hb + k) ∧ z.byteAt (hb + k) = s.byteAt (ha + k)) ∧
      (∀ p ∈ [(a, b), (b, a)], let e := z.readNat p.1.addr 8
        Pte.ppn e = Pte.ppn p.2.entry ∧ Pte.tier e = Pte.tier p.2.entry ∧ Pte.mig e = false ∧
        bits e 5 0 = bits p.1.entry 5 0) ∧
      ∀ y, (∀ l ∈ [a.addr, b.addr], y < l ∨ l + 8 ≤ y) → (∀ h ∈ [ha, hb], y < h ∨ h + 65536 ≤ y) →
        z.byteAt y = s.byteAt y) ∧
  ∀ s : State, (∀ x ∈ s.exchanges, x.sess ≠ s.arg.sess ∧ x.held = false) → exec .exchangeSwap s = .next s

namespace Sys2Proof.Machine

/-- The event names context `x` of core `c`. -/
def AtCtx (s : State) (c x : Nat) : Prop := s.arg.core = c ∧ s.arg.ctx = x ∧ c < 128 ∧ x < 4

/-- Every other context is as before, and so is every byte. -/
def OtherCtxs (s z : State) (c x : Nat) : Prop := (∀ d y, d ≠ c ∨ y ≠ x → z.ctx d y = s.ctx d y) ∧ SameBytes s z

/-- A halt has begun in context `x` for the strand it holds. -/
def Halted (s z : State) (c x age : Nat) (park : Bool) : Prop :=
  (z.ctx c x).st = .draining ∧ (z.ctx c x).halt = some park ∧ (z.ctx c x).since = some s.now ∧ (z.ctx c x).far = [] ∧
  (z.ctx c x).regs = (s.ctx c x).regs ∧ OtherCtxs s z c x ∧
  z.strands = s.strands.map fun u => if u.age = age then { u with st := .saving } else u

/-- Core `c` has no context to give, and strand `h` waits first for one. -/
def Crowded (s : State) (c : Nat) (h : Strand) : Prop :=
  s.arg.core = c ∧ c < 128 ∧ s.allHeld c = true ∧ s.nextReady c = some h

end Sys2Proof.Machine

/-- 05 R117 to R127, R131: dispatch, the end of a load, pre-emption and the quantum, the end of a save and the bytes that it
writes to the save area, the re-push of entries, and the selector's switch: what each changes, and when it changes nothing.
Where the spec leaves a point open, this states the choice of the model: log entries 10 and 14. -/
def Obligations.SchedulerEvents : Prop :=
  (∀ (s : State) (c x : Nat) (t : Strand), s.arg.core = c → c < 128 → s.ckpt = none → s.freeCtx c = some x →
    s.nextReady c = some t →
    ∃ k z, (t.area = some k ∨ (t.area = none ∧ ∃ w, s.session? t.sess = some w ∧ k < State.areaCount w ∧
      ∀ u ∈ s.strands, u.sess = w.id → u.st ≠ .done → u.area ≠ some k)) ∧ exec .dispatch s = .next z ∧
      (z.ctx c x).st = .loading ∧ (z.ctx c x).strand = some t.age ∧ (z.ctx c x).since = some s.now ∧ OtherCtxs s z c x ∧ z.strands = s.strands.map fun u =>
        if u.age = t.age then { u with st := .loading, eff := s.effective t, ctx := x, area := some k } else u) ∧
  (∀ (s : State) (c : Nat), s.arg.core = c → s.ckpt ≠ none ∨ s.freeCtx c = none ∨ s.nextReady c = none →
    exec .dispatch s = .next s) ∧
  (∀ (s : State) (c x a n : Nat) (t : Strand), AtCtx s c x → (s.ctx c x).st = .loading → (s.ctx c x).strand = some a →
    s.strand? a = some t → (s.ctx c x).since = some n → t.image.repush0 = [] → t.image.repush1 = [] →
    let moves : Prop := t.saved = true ∧ s.areaMoves t = true
    let ready := n + State.moveCycles (State.savedEntries t.image)
    let loaded (z : State) (img : Ctx) : Prop :=
      z.ctx c x = { State.releaseAgain s.seq img with
        st := .issuable, strand := some a, since := none, halt := none, wait := .none, wait2 := .none } ∧
      (∀ d y, d ≠ c ∨ y ≠ x → z.ctx d y = s.ctx d y) ∧
      z.strands = s.strands.map fun u => if u.age = a then { u with st := .resident, residentAt := s.now, ctx := x, image := {} } else u
    (ready ≤ s.now → ¬ moves → s.errors = [] →
      (t.saved = false ∨ (s.areaImage t).1 = none → ∃ z, exec .loadComplete s = .next z ∧ loaded z t.image ∧ SameBytes s z) ∧
      ∀ b, t.saved = true → (s.areaImage t).1 = some b →
        let mode := (imageSys b.toArray 15).toNat
        ∃ z, exec .loadComplete s = .next z ∧ loaded z (restoreArea t.image b.toArray) ∧
          (bit mode 2 = 0 → SameBytes s z) ∧
          (bit mode 2 = 1 → ∀ va, s.areaVa t = some va → ∀ y, z.byteAt y =
            ((s.areaImage t).2.writeVa t.sess 2 (va + 0x1_CCF8) (toBytes 8 (mode - 4))).byteAt y)) ∧
    (s.now < ready ∨ moves → exec .loadComplete s = .next s)) ∧
  (∀ (s : State) (c x : Nat) (h v : Strand), Crowded s c h → v ∈ s.victims c → s.ctxOf? c v.age = some x →
    ((∀ u ∈ s.victims c, u ≠ v → v.eff < u.eff ∨ (v.eff = u.eff ∧ u.age < v.age)) →
      (v.eff < s.effective h → s.heatFrozen c x = false → ∃ z, exec .preemption s = .next z ∧ Halted s z c x v.age false) ∧
      (s.effective h ≤ v.eff ∨ s.heatFrozen c x = true → exec .preemption s = .next s)) ∧
    (v.eff = s.effective h → v.residentAt + 2200000 ≤ s.now → v.prio < 120 →
      (∀ u ∈ s.victims c, u ≠ v → u.eff = s.effective h → u.residentAt + 2200000 ≤ s.now → u.prio < 120 →
        v.residentAt < u.residentAt ∨ (v.residentAt = u.residentAt ∧ u.age < v.age)) →
      (s.heatFrozen c x = false → ∃ z, exec .quantumExpiry s = .next z ∧ Halted s z c x v.age false) ∧
      (s.heatFrozen c x = true → exec .quantumExpiry s = .next s))) ∧
  (∀ (s : State) (c : Nat), s.arg.core = c → s.allHeld c = false ∨ s.nextReady c = none ∨ s.victims c = [] →
    exec .preemption s = .next s ∧ exec .quantumExpiry s = .next s) ∧
  (∀ (s : State) (c x : Nat) (u : Strand), AtCtx s c x →
    let t := s.ctx c x
    let img := s.savedCtx c t u.age false
    let n := State.savedEntries img
    let w := t.landClaims (·.done)
    (s.drainedHalt c x = false → exec .saveComplete s = .next s) ∧
    (s.drainedHalt c x = true → t.strand.bind s.strand? = some u → t.halt = some false → s.areaMoves u = false →
      (t.savingAt = none → exec .saveComplete s = .next (s.setCtx c x { t with savingAt := some s.now })) ∧
      ∀ b, t.savingAt = some b →
        (s.now < b + State.moveCycles n → exec .saveComplete s = .next s) ∧
        (b + State.moveCycles n ≤ s.now → ∃ z, exec .saveComplete s = .next z ∧ z.ctx c x = {} ∧
          (∀ d y, d ≠ c ∨ y ≠ x → z.ctx d y = s.ctx d y) ∧
          (∀ v ∈ z.strands, v.age = u.age → v.st = .ready ∧ v.readyAt = s.now ∧
            v.image.regs = w.regs ∧ v.image.sys = w.sys ∧ v.image.pc = t.pc ∧ v.image.loops = t.loops ∧
            v.image.streams = t.streams ∧ v.image.tableQ = t.tableQ) ∧
          (s.areaVa u = none → SameBytes s z) ∧
          let y := s.saveBytes t img u.sess false
          (∀ va, s.areaVa u = some va → ∀ a, z.byteAt a = (y.2.writeVa u.sess 4 va y.1).byteAt a) ∧
          ∃ free : List Byte, free.length = 32 * (img.repush0.length + img.repush1.length + img.tableQ.length) ∧
            y.1 = padTo (0x1_E000 + 32 * (n - 149)) (fixedPart w t.pc (s.statusOfCtx w u.sess) (s.feedRecords w)
              (t.fixed.toNat + 2 * t.locked.toNat) ++
              (w.streams.toList.flatMap fun q => q.entries.flatMap fun e => entryBytes e (State.entryWord e) t.issue) ++ free)))) ∧
  (∀ (s : State) (sess f h : Nat) (va : DWord) (w : Window) (b : List Byte), MemOk s → b ≠ [] → b.length ≤ State.runLength va b.length →
    s.checkByte sess .engRead va = .ok w (.here h) false → (∀ k ∈ s.lateWrites, k.1 ≠ sess) →
    s.bankBusy { home := .here h, off := 0, len := b.length, va := va } = false →
    let z := s.writeVa sess (f + 1) va b
    (∀ k, k < b.length → z.byteAt (h + k) = b.getD k 0) ∧ ∀ y, y < h ∨ h + b.length ≤ y → z.byteAt y = s.byteAt y) ∧
  (∀ (s : State) (c x h : Nat), AtCtx s c x → s.arg.chan = h → h < 2 →
    let t := s.ctx c x
    let l := if h = 1 then t.repush1 else t.repush0
    let n := 16 - (s.chan c h).queue.length
    (t.st = .draining → exec .repushEntry s = .next s) ∧
    (t.st ≠ .draining → ∃ z, exec .repushEntry s = .next z ∧ (z.chan c h).queue = (s.chan c h).queue ++ l.take n ∧
      (if h = 1 then (z.ctx c x).repush1 else (z.ctx c x).repush0) = l.drop n ∧ OtherCtxs s z c x ∧
      (z.ctx c x).regs = t.regs)) ∧
  ∀ (s : State) (c x : Nat) (t : Strand), s.arg.core = c → c < 128 → s.best (s.issuables c) = some t →
    s.ctxOf? c t.age = some x →
    let k := match (s.core c).thawTo with
      | some y => if s.canIssue c y then { s.core c with running := y, switching := 0, thawTo := none } else s.core c
      | none => s.core c
    let keeps : Prop := s.canIssue c k.running = true ∧ ∃ r, s.strandOf c k.running = some r ∧ s.effective t ≤ s.effective r
    ∃ z, exec .contextSwitch s = .next z ∧ SameBytes s z ∧ (∀ d, d ≠ c → z.core d = s.core d) ∧
      (x = k.running ∨ keeps → z.core c = k) ∧
      (x ≠ k.running → ¬ keeps → z.core c = { k with
        running := x, switching := 2, thawTo := if s.heatFrozen c k.running then some k.running else k.thawTo })

/-- 05 R118, R123, 06 R142, R146, R150, 16 R350, 20 R421, 21 R434, R436, R437, R438: what ends a wait: parking and
waking, the landing of results, the entry of a trap that waited, the end of MODE, EXIT, TLBI, IDLE, CSAVE and CLOAD, after
which the second wait of the bundle goes on, if it has one. Where the spec leaves a point open, this states the choice
of the model: log entries 20, 59 and 73. -/
def Obligations.WaitsEnd : Prop :=
  (∀ (s : State) (c x a : Nat), AtCtx s c x → (s.ctx c x).strand = some a → (s.ctx c x).st = .blocked →
    (s.ctx c x).out = .blocked true → (s.ctx c x).conds ≠ [] → (s.ctx c x).wait = .none → (s.ctx c x).exits = false →
    ∀ n, (s.ctx c x).since = some n →
    (n + 17600 ≤ s.now → s.heatFrozen c x = false → ∃ z, exec .park s = .next z ∧ Halted s z c x a true) ∧
    (s.now < n + 17600 ∨ s.heatFrozen c x = true → exec .park s = .next s)) ∧
  (∀ (s : State) (t : Strand), s.strand? s.arg.age = some t →
    (t.st ≠ .parked → exec .parkWake s = .next s ∧ exec .parkPoll s = .next s) ∧
    (t.st = .parked → t.asked = [] →
      ((∀ k ∈ t.conds, s.parkHolds t.sess k = true) → ∃ z, exec .parkWake s = .next z ∧ SameRegs s z ∧ SameBytes s z ∧
        z.strands = s.strands.map fun u => if u.age = t.age then
          { u with st := .ready, readyAt := s.now, conds := [], asked := [] } else u) ∧
      (t.conds ≠ [] → (∀ k ∈ t.conds, s.parkHolds t.sess k = false) → exec .parkWake s = .next s)) ∧
    (t.st = .parked → s.now < t.pollAt → exec .parkPoll s = .next s) ∧
    (t.st = .parked → t.pollAt ≤ s.now → (∀ k ∈ t.conds, ∃ p h q v, k = .waitw p q v ∧ s.parkHome t.sess p = some (.here h)) →
      ∃ z, exec .parkPoll s = .next z ∧ SameRegs s z ∧ SameBytes s z ∧ ∀ u ∈ z.strands, u.age = t.age →
        u.pollAt = s.now + 17600 ∧ ((∀ k ∈ t.conds, s.parkHolds t.sess k = true) → u.st = .ready))) ∧
  (∀ (s : State) (c x : Nat), AtCtx s c x → ∃ z, exec .resultLanding s = .next z ∧ OtherCtxs s z c x ∧
    let u := (s.ctx c x).landDue s.now
    (u.wait ≠ .land ∨ u.pend ≠ [] → z.ctx c x = u) ∧ (u.wait = .land → u.pend = [] → z.ctx c x = State.resume u)) ∧
  (∀ (s : State) (c x : Nat) (cause eva : DWord), AtCtx s c x → (s.ctx c x).wait = .trap cause eva →
    let t := s.ctx c x
    (State.performedAll t = false ∨ t.pend ≠ [] → exec .trapEntry s = .next s) ∧
    (State.performedAll t = true → t.pend = [] → t.fault = none → t.sys.tvec ≠ 0 → t.hnd = false →
      ∃ z, exec .trapEntry s = .next z ∧ OtherCtxs s z c x ∧ (z.ctx c x).wait = .none ∧ (z.ctx c x).sys.epc = t.pc ∧
        (z.ctx c x).sys.cause = cause ∧ (z.ctx c x).sys.eva = eva ∧ (z.ctx c x).pc = t.sys.tvec ∧ (z.ctx c x).stall = 3 ∧
        (z.ctx c x).hnd = true ∧ (z.ctx c x).fixed = false ∧ (z.ctx c x).pfixed = t.fixed ∧ (z.ctx c x).regs = t.regs)) ∧
  (∀ (s : State) (c x : Nat) (f : DWord × DWord), AtCtx s c x → (s.ctx c x).wait = .none → (s.ctx c x).fault = some f →
    ∃ z, exec .trapEntry s = .next z ∧ OtherCtxs s z c x ∧ (z.ctx c x).wait = .trap f.1 f.2 ∧ (z.ctx c x).fault = none ∧
      (z.ctx c x).pc = (s.ctx c x).pc ∧ (z.ctx c x).regs = (s.ctx c x).regs) ∧
  (∀ (s : State) (c x a : Nat) (u : Strand), AtCtx s c x → (s.ctx c x).wait = .exit → (s.ctx c x).strand = some a →
    s.strand? a = some u →
    let t := s.ctx c x
    (t.pend ≠ [] ∨ t.repush0 ≠ [] ∨ t.repush1 ≠ [] ∨ s.matrixBusy c x = true ∨ s.tableBusy c x = true →
      exec .strandDone s = .next s) ∧
    (u.killed = false → t.pend = [] → t.accesses = [] → t.repush0 = [] → t.repush1 = [] → s.matrixBusy c x = false →
      s.tableBusy c x = false → s.fwrAccepted c x = true → ∃ z, exec .strandDone s = .next z ∧ z.ctx c x = { regs := t.regs } ∧
        OtherCtxs s z c x ∧ (∀ v ∈ z.strands, v.age = a → v.st = .done ∧ v.ended = true ∧ v.image.regs = t.regs ∧ v.image.sys = t.sys) ∧
        (∀ v ∈ s.strands, v.age ≠ a → v ∈ z.strands) ∧ ∀ k ∈ z.crews, a ∉ k.members)) ∧
  (∀ (s : State) (c x : Nat) (f : Bool), AtCtx s c x → (s.ctx c x).wait = .mode f →
    (s.drained c x = false ∨ s.fwrAccepted c x = false → exec .modeComplete s = .next s) ∧
    ((s.ctx c x).st ≠ .draining → (s.ctx c x).halt = none → (s.ctx c x).fault = none → s.drained c x = true → s.fwrAccepted c x = true → (s.ctx c x).loops = [] →
      (s.ctx c x).hnd = false → ∃ z, exec .modeComplete s = .next z ∧ OtherCtxs s z c x ∧ (z.ctx c x).wait = .none ∧
        (z.ctx c x).fixed = f ∧ (z.ctx c x).st = .issuable ∧ (z.ctx c x).pc = (s.ctx c x).pc + 32 ∧
        (z.ctx c x).regs = (s.ctx c x).regs)) ∧
  (∀ (s : State) (c x : Nat), AtCtx s c x →
    (∀ v, (s.ctx c x).wait = .tlbi v → ∃ z, exec .tlbiComplete s = .next z ∧ OtherCtxs s z c x ∧
      z.ctx c x = State.resume (s.ctx c x)) ∧
    (∀ n, (s.ctx c x).wait = .idle n → (s.now < n + 1100 → exec .idleEnd s = .next s) ∧
      (n + 1100 ≤ s.now → ∃ z, exec .idleEnd s = .next z ∧ OtherCtxs s z c x ∧
        z.ctx c x = State.resume (s.ctx c x))) ∧
    (∃ z, exec .waitwPoll s = .next z ∧ OtherCtxs s z c x ∧ (z.ctx c x).regs = (s.ctx c x).regs ∧
      ∀ p, p ∈ (z.ctx c x).polls ↔ p ∈ (s.ctx c x).polls ∧ ¬ (p.2.2.2 + 1100 ≤ s.now ∧
        ∃ q r, s.request? p.2.1 p.2.2.1 = some q ∧ q.reply = some r))) ∧
  (∀ (s : State) (c x : Nat) (a pc : DWord) (h1 h2 : Nat) (w1 w2 : Window), AtCtx s c x → MemOk s →
    (s.ctx c x).wait = .csave a pc →
    let sess := ((s.strandOf c x).map (·.sess)).getD 0
    let t := s.ctx c x
    (t.pend ≠ [] → exec .csaveComplete s = .next s) ∧
    (t.pend = [] → s.checkAccess sess .write a 131072 =
        ([{ home := .here h1, off := 0, len := 65536, va := a, win := w1 },
          { home := .here h2, off := 65536, len := 65536, va := a + 65536, win := w2 }], false, none) →
      s.pieceWaits { home := .here h1, off := 0, len := 65536, va := a, win := w1 } = false →
      s.pieceWaits { home := .here h2, off := 65536, len := 65536, va := a + 65536, win := w2 } = false →
      (h1 + 65536 ≤ h2 ∨ h2 + 65536 ≤ h1) →
      let b := padTo 131072 (fixedPart t pc (s.statusOfCtx t sess) (s.feedRecords t) (t.fixed.toNat + 2 * t.locked.toNat))
      ∃ z, exec .csaveComplete s = .next z ∧ (z.ctx c x).wait = t.wait2 ∧ (z.ctx c x).regs = t.regs ∧
        (∀ k, k < 65536 → z.byteAt (h1 + k) = b.getD k 0 ∧ z.byteAt (h2 + k) = b.getD (65536 + k) 0) ∧
        ∀ y, (y < h1 ∨ h1 + 65536 ≤ y) → (y < h2 ∨ h2 + 65536 ≤ y) → z.byteAt y = s.byteAt y)) ∧
  ∀ (s : State) (c x : Nat) (b : List Byte), AtCtx s c x → (s.ctx c x).wait = .cload b →
    let word (o : Nat) : DWord := BitVec.ofNat 64 (ofBytes ((b.drop o).take 8))
    ((s.ctx c x).pend ≠ [] → exec .cloadComplete s = .next s) ∧
    ((s.ctx c x).pend = [] → b.length = 131072 → ∃ z, exec .cloadComplete s = .next z ∧ OtherCtxs s z c x ∧
      let u := z.ctx c x
      u.wait = (s.ctx c x).wait2 ∧ u.pc = word 0x1_CC80 ∧ u.sys.epc = word 0x1_CC98 &&& ~~~0x1F ∧
      u.sys.tvec = word 0x1_CCA8 &&& ~~~0x1F ∧ u.sys.rseed0 = word 0x1_CCC0 ∧ u.sys.rseed1 = word 0x1_CCC8 ∧
      u.fixed = (word 0x1_CCF8).getLsbD 0 ∧ u.locked = (word 0x1_CCF8).getLsbD 1 ∧
      (∀ n : BitVec 6, n ≠ 0 → u.rg n = word (0x1_C000 + 8 * n.toNat)) ∧ (∀ n, n < 8 → u.rm n = word (0x1_C200 + 8 * n)) ∧
      (∀ n, n < 16 → u.rfmt n = word (0x1_C380 + 8 * n)) ∧
      (∀ n, n < 384 → u.line n = BitVec.ofNat 2048 (ofBytes ((b.drop (256 * n)).take 256))) ∧
      ∀ n, n < 64 → u.acc n = BitVec.ofNat 2048 (ofBytes ((b.drop (0x1_8000 + 256 * n)).take 256) % 2 ^ 1200))

namespace Sys2Proof.Machine

/-- The event that a whole message from a link is, with its arguments (01 R19, 02 R33); Reserved bits and codes read as zero (00
R6). -/
def eventOf (l : Nat) (route : BitVec 16) (m : List Byte) : Option (Instr × EventArg) :=
  if 16 ≤ l then
    match rb16 route 2 0 with
    | 0 => some (Cmd.event m, { port := l - 15, msg := m })
    | 3 => some ((match State.registerKind m with
        | 0 => .burgeeRead | 1 => .burgeeWrite | 2 => .crbaseWrite | 3 => .crsizeWrite | _ => .registerWrite),
        { port := l - 15, msg := m })
    | 5 => some (.hostmemReply, { link := l, msg := m })
    | _ => none
  else
    let a : EventArg := { link := l, msg := m, core := rb16 route 6 0, rq := rb16 route 10 7 }
    match rb16 route 12 11, field m 2 1 with
    | 1, _ => some (.memoryRequest, a)
    | 2, _ => some (.memoryReply, a)
    | 0, 1 => some (.creditGrant, a)
    | 0, 2 => some (.creditReturn, a)
    | 0, _ => some (.queueMessage, a)
    | _, _ => none
where
  rb16 (x : BitVec 16) (hi lo : Nat) : Nat := bits x.toNat hi lo

/-- From `s` to `z` the flits of link `l` from SEQ `q` onward leave again, in order, and then those of `y`; only IDLE flits come
between. -/
def Resent (s z : State) (l : Nat) (q : BitVec 32) (y : List Sent) : Prop :=
  ∃ x, z.sent = s.sent ++ x ++ y ∧ (x.filter fun f => field f.flit 4 1 != 0) =
    ((s.link l).replay.filter fun f => !(f.1 - q).msb).map fun f => { link := l, flit := f.2 }

/-- A flit of 256 bytes: SEQ, KIND, ROUTE, ACK, CREDIT and payload, with its CRC (01 R15, R16). -/
def isFlit (f : List Byte) (seq : BitVec 32) (kind : Nat) (route : BitVec 16) (ack : BitVec 32) (payload : List Byte) : Prop :=
  f.length = 256 ∧ f.take 12 = toBytes 4 seq.toNat ++ toBytes 1 kind ++ toBytes 2 route.toNat ++ toBytes 1 payload.length ++
    toBytes 4 ack.toNat ∧ (f.drop 14).take 2 = [0, 0] ∧ (f.drop 16).take payload.length = payload ∧
  (∀ b ∈ ((f.drop 16).take 232).drop payload.length, b = 0) ∧ f.drop 248 = toBytes 8 (crc64 (f.take 248)).toNat

end Sys2Proof.Machine

/-- 01 R14 to R18, R21 to R23, 02 R36, R59: idle flits, RETRY and the resending it brings, training, a link that goes
down, and what the receipt of a flit does: in order, a copy, out of order, or with a CRC failure. Where the spec leaves
a point open, this states the choice of the model: log entries 3, 46, 64 and 72. -/
def Obligations.LinkEvents : Prop :=
  (∀ (s : State) (l : Nat), s.arg.link = l → l < 18 →
    let k := s.link l
    (k.up = true → ∃ z f, exec .idleFlit s = .next z ∧ z.sent = s.sent ++ [{ link := l, flit := f }] ∧
      isFlit f k.nextSeq 0 0 (k.unserved.head?.getD k.expected) [] ∧ z.link l = { k with sinceIdle := 0, lastIdle := s.now } ∧
      ∀ d, d ≠ l → z.link d = s.link d) ∧
    (k.up = true → (∀ f ∈ k.replay, field f.2 4 1 ≠ 0) → ∃ z, exec .retry s = .next z ∧
      Resent s z l (s.arg.value.setWidth 32) [] ∧ (z.link l).replay = k.replay ∧ SameRegs s z ∧ SameBytes s z) ∧
    (k.up = true → k.retrying = true → k.lastRetry + 2200 ≤ s.now → ∃ z f, exec .retryRepeat s = .next z ∧
      s.sent ++ [{ link := l, flit := f }] <+: z.sent ∧ isFlit f k.nextSeq 0x10 0 k.expected [] ∧
      (z.link l).lastRetry = s.now) ∧
    (k.retrying = false ∨ s.now < k.lastRetry + 2200 → exec .retryRepeat s = .next s) ∧
    (k.up = true → s.widthOf l ≠ 0 → (∀ f ∈ k.replay, field f.2 4 1 ≠ 0) → ∃ z, exec .linkRetrain s = .next z ∧
      (z.link l).up = true ∧ (z.link l).degraded = decide (s.widthOf l = 1) ∧ (z.link l).badSeqs = [] ∧
      k.replay <+: (z.link l).replay ∧ ∃ y, Resent s z l k.peerAck y ∧ (∀ f ∈ y, 16 ≤ f.link) ∧
      (s.mode ≠ .ready → y = [] ∧ (z.link l).replay = k.replay)) ∧
    (k.up = true → ∀ i ∈ [Instr.linkDown, .linkRetrain], (i = .linkRetrain → s.widthOf l = 0) → ∃ z, exec i s = .next z ∧
      (z.link l).up = false ∧ (z.link l).replay = [] ∧ SameBytes s z ∧
      (16 ≤ l → z.burgee = (if s.burgee.toNat = l - 15 then 0 else s.burgee) ∧ z.sessions = s.sessions) ∧
      (l < 16 → ∀ q ∈ s.recvQueues, q.link = l → ∀ t, z.session? q.owner = some t → t.killed = true) ∧
      (l < 16 → ∀ q ∈ s.credits, q.link = l → ∀ t, z.session? q.owner = some t → t.killed = true)) ∧
    (k.up = false → exec .linkDown s = .next s ∧ exec .linkRetrain s = .next s)) ∧
  (∀ (s : State) (l kind : Nat) (q ack : BitVec 32) (route : BitVec 16) (payload f : List Byte), s.arg.link = l → l < 18 →
    s.arg.msg = f → isFlit f q kind route ack payload → payload.length ≤ 232 → kind ∈ [1, 2, 3, 4] → (s.link l).up = true →
    (l < 16 → route.toNat / 2 ^ 11 % 4 ≠ 3) →
    let k := s.link l
    let m := (if kind = 1 ∨ kind = 4 then [] else k.gathered) ++ payload
    (q = k.expected → ∃ z, exec .flitReceive s = .next z ∧ (z.link l).expected = q + 1 ∧ q ∉ (z.link l).badSeqs ∧
      (z.link l).retrying = false ∧ SameBytes s z ∧
      (kind = 1 ∨ kind = 2 → (z.link l).gathered = m ∧ z.agenda = s.agenda) ∧
      (kind = 3 ∨ kind = 4 → (z.link l).gathered = [] ∧ ∀ i a, eventOf l route m = some (i, a) →
        (State.isMessage i = true → z.arrivals = s.arrivals ++ [(i, a)] ∧ z.agenda = s.agenda) ∧
        (State.isMessage i = false → z.agenda = .event i a :: s.agenda))) ∧
    ((q - k.expected).msb = true → ∃ z, exec .flitReceive s = .next z ∧ (z.link l).expected = k.expected ∧
      (z.link l).gathered = k.gathered ∧ z.agenda = s.agenda) ∧
    (q ≠ k.expected → (q - k.expected).msb = false → ∃ z, exec .flitReceive s = .next z ∧
      (z.link l).expected = k.expected ∧ (z.link l).gathered = k.gathered ∧ z.agenda = s.agenda ∧ (z.link l).retrying = true)) ∧
  (∀ (s : State) (l : Nat) (q ack : BitVec 32) (f : List Byte), s.arg.link = l → l < 18 → s.arg.msg = f →
    isFlit f q 0x10 0 ack [] → (s.link l).up = true → ∃ z, exec .flitReceive s = .next z ∧
      z.agenda = .event .retry { link := l, value := ack.setWidth 64 } :: s.agenda ∧ (z.link l).expected = (s.link l).expected) ∧
  ∀ (s : State) (l : Nat) (f : List Byte), s.arg.link = l → l < 18 → s.arg.msg = f → f.length = 256 →
    f.drop 248 ≠ toBytes 8 (crc64 (f.take 248)).toNat → (s.link l).up = true →
    let kind := field f 4 1
    let q := BitVec.ofNat 32 (field f 0 4)
    (kind ∈ [0, 0x10, 0x20] → exec .flitReceive s = .next s) ∧
    (kind ∉ [0, 0x10, 0x20] → q ∉ (s.link l).badSeqs → ∃ z, exec .flitReceive s = .next z ∧ z.agenda = s.agenda ∧
      (z.link l).badSeqs = q :: (s.link l).badSeqs ∧ (z.link l).expected = (s.link l).expected ∧ (z.link l).retrying = true ∧
      z.faultLog = s.faultLog ∧ ((s.link l).retrying = false → ∃ g, s.sent ++ [{ link := l, flit := g }] <+: z.sent ∧
        isFlit g (s.link l).nextSeq 0x10 0 (s.link l).expected [])) ∧
    (kind ∉ [0, 0x10, 0x20] → q ∈ (s.link l).badSeqs → ∃ z, exec .flitReceive s = .next z ∧
      z.agenda = .event .linkRetrain { link := l } :: s.agenda ∧ z.faultLog.length = s.faultLog.length + 1)

/-- 01 R19, R20, 02 R60, 03 R67, R68, 04 R94, 05 R133, R134: messages of peers and replies: a queue message and its
credits, a peer's read, write and atomic, the reply to a request of the device, and the reply that completes MGMT's
reading of an image. Where the spec leaves a point open, this states the choice of the model: log entries 55, 56 and 64. -/
def Obligations.PeerMessages : Prop :=
  (∀ (s : State) (l c r : Nat) (m : List Byte), s.arg.link = l → s.arg.core = c → s.arg.rq = r → s.arg.msg = m →
    let sess := bits (field m 0 1) 5 0
    let n := field m 3 1
    let here (a b d : Nat) : Prop := a = l ∧ b = c ∧ d = r
    (∀ k, s.queue? l c r = some k → k.owner = sess → ∃ z, exec .queueMessage s = .next z ∧
      (s.session? sess = none → SameBytes s z) ∧
      (∀ t, s.session? sess = some t → MemOk s → m.length = 264 →
        let va := t.pool + BitVec.ofNat 64 (t.poolSize - 0x2000_0000 + ((l * 128 + c) * 16 + r) * 16384 + k.placed % 64 * 256)
        bits va.toNat 63 60 = 0 → va.toNat % 65536 ≤ 65280 →
        (∀ o a g, s.checkByte sess .engRead va = .ok o (.here a) g →
          let held : Prop := g = true ∨ s.bankBusy { home := .here a, off := 0, len := 256, va := va } = true ∨
            ∃ k ∈ s.lateWrites, k.1 = sess
          (¬ held → (∀ j, j < 256 → some (z.byteAt (a + j)) = m[8 + j]?) ∧ ∀ w, w < a ∨ a + 256 ≤ w → z.byteAt w = s.byteAt w) ∧
          (held → z.lateWrites = s.lateWrites ++ [(sess, va, m.drop 8)] ∧ SameBytes s z)) ∧
        ((∀ o a g, s.checkByte sess .engRead va ≠ .ok o (.here a) g) → SameBytes s z)) ∧
      z.recvQueues.length = s.recvQueues.length ∧ ∀ (i : Nat) (q : RecvQueue), s.recvQueues[i]? = some q → z.recvQueues[i]? = some
        (if q.link = l ∧ q.core = c ∧ q.rq = r then { q with
          msgs := q.msgs ++ [BitVec.ofNat 2048 (field m 8 256)], placed := q.placed + 1 } else q)) ∧
    ((∀ k, s.queue? l c r = some k → k.owner ≠ sess) → ∃ z, exec .queueMessage s = .next z ∧
      z.recvQueues = s.recvQueues ∧ z.faultLog.length = s.faultLog.length + 1 ∧ SameBytes s z) ∧
    (∃ z, exec .creditGrant s = .next z ∧ SameBytes s z ∧ (∀ k ∈ z.credits, here k.link k.core k.rq → k.owner = sess ∧ k.count = n) ∧
      (∃ k ∈ z.credits, here k.link k.core k.rq) ∧ ∀ k, ¬ here k.link k.core k.rq → (k ∈ z.credits ↔ k ∈ s.credits)) ∧
    (∃ z, exec .creditReturn s = .next z ∧ SameBytes s z ∧
      (∀ k ∈ s.credits, here k.link k.core k.rq → { k with count := k.count + n } ∈ z.credits) ∧
      ∀ k, ¬ here k.link k.core k.rq → (k ∈ z.credits ↔ k ∈ s.credits))) ∧
  (∀ (s : State) (l sess atop sz tag a n : Nat) (x y : DWord) (data : List Byte), s.arg.link = l → sess < 64 →
    tag < 2 ^ 32 → a < 2 ^ 52 → MemOk s → (∀ r ∈ s.inbound, r.1 ≠ l) → (s.link l).unserved = [] →
    let reply (z : State) (st old : Nat) (b : List Byte) : State := z.sendMsg l (2 <<< 11) (State.replyBytes st tag old b)
    let may (len : Nat) : Prop := a + len ≤ Config.tableArea ∧ ∃ t, s.session? sess = some t ∧ t.noRoom = false ∧
      s.grants t false a = true ∧ s.grants t false (a + len - 1) = true
    let free (len : Nat) : Prop := s.bankBusy { home := .here a, off := 0, len := len } = false
    (s.arg.msg = State.requestBytes 0 sess 0 0 tag a n 0 0 [] → 1 ≤ n → n ≤ 256 →
      (¬ free n → exec .memoryRequest s = .next
        (State.modLink { s with inbound := s.inbound ++ [(l, s.arg.msg)] } l fun k => { k with unserved := [k.expected - 1] })) ∧
      (free n → may n → s.errors = [] → exec .memoryRequest s = .next (reply s 0 0 (s.read a n))) ∧
      (free n → may n → (∃ e ∈ s.errors, a ≤ e.1 ∧ e.1 < a + n ∧ e.2 % 4 = 3) →
        exec .memoryRequest s = .next (reply (s.meet a n) 2 0 [])) ∧
      (free n → ¬ may n → exec .memoryRequest s = .next (reply s 1 0 []))) ∧
    (s.arg.msg = State.requestBytes 1 sess 0 0 tag a n 0 0 data → 1 ≤ n → n ≤ 256 → data.length = n →
      (free n → may n → ∃ z, exec .memoryRequest s = .next z ∧ (∀ k, k < n → some (z.byteAt (a + k)) = data[k]?) ∧
        ∀ w, w < a ∨ a + n ≤ w → z.byteAt w = s.byteAt w) ∧
      (free n → ¬ may n → exec .memoryRequest s = .next (reply s 1 0 []))) ∧
    (s.arg.msg = State.requestBytes 2 sess atop sz tag a 0 x y [] → atop ≤ 6 → sz ≤ 1 →
      let op := BitVec.ofNat 3 atop
      let len := atomSize op (sz == 1)
      (free len → may len → s.errors = [] → ∃ z w, exec .memoryRequest s = .next z ∧ z = reply w 0 (s.readNat a len) [] ∧
        (∀ k, k < len → w.byteAt (a + k) = BitVec.ofNat 8 ((atomNew op (sz == 1) (s.readNat a len) x.toNat y.toNat).1 / 2 ^ (8 * k))) ∧
        ∀ k, k < a ∨ a + len ≤ k → w.byteAt k = s.byteAt k) ∧
      (free len → ¬ may len → exec .memoryRequest s = .next (reply s 1 0 [])))) ∧
  (∀ (i : Instr) (s : State) (l tag st n : Nat) (old : DWord) (data : List Byte) (q : Request), s.arg.link = l →
    (i = .memoryReply ∧ l < 16) ∨ (i = .hostmemReply ∧ 16 ≤ l ∧ l < 18 ∧ Settled s) →
    s.arg.msg = State.replyBytes st tag old.toNat data → tag < 2 ^ 32 → st ≤ 2 → data.length = n → n ≤ 256 →
    s.request? l tag = some q → (∀ p sq, q.who ≠ .ensign p sq) →
    (st = 0 → q.read = false → q.who = .engine → ∃ z, exec i s = .next z ∧ z.request? l tag = none ∧ z.sessions = s.sessions) ∧
    (st = 0 → (q.read = true ∨ q.who ≠ .engine) → ∃ z b, exec i s = .next z ∧ z.sessions = s.sessions ∧ SameBytes s z ∧
      (z.request? l tag).bind (·.reply) = some (0, b, old) ∧ (q.fwd = [] → b = data) ∧
      (∀ (k : Nat) (x : Byte), q.fwd[k]? = some (some x) → b[k]? = some x) ∧ (∀ k : Nat, q.fwd[k]? = some none → k < n → b[k]? = data[k]?)) ∧
    (st = 2 ∨ (st = 1 ∧ 16 ≤ l) → ∀ t, s.session? q.sess = some t → ∃ z, exec i s = .next z ∧
      ∀ u ∈ z.sessions, u.id = q.sess → u.killed = true) ∧
    (st = 1 → l < 16 → q.read = true → ∃ z, exec i s = .next z ∧ z.sessions = s.sessions ∧
      ((z.request? l tag).bind (·.reply)).map (·.1) = some 1)) ∧
  ∀ (s : State) (j : Journal) (q : Request) (data : List Byte) (l n op : Nat), s.arg.link = l → 16 ≤ l → l < 18 →
    s.ckpt = none → s.mode = .ready → s.journal = [j] → Cmd.type j.cmd = 9 → Cmd.arg j.cmd 0 1 = op → op = 1 ∨ op = 2 →
    j.effected = true → j.final = none → Cmd.arg j.cmd 16 4 = n → n ≠ 0 → n ≤ 256 → data.length = n →
    s.requests = [q] → q.link = l → q.tag < 2 ^ 32 → q.who = .ensign j.port j.sq → q.len = n → q.reply = none →
    q.fwd = List.replicate n none → s.arg.msg = State.replyBytes 0 q.tag 0 data →
    let c := Config.imageClass data
    let to' := 1 - s.flash.runs.getD c 0
    let x := s.flash.banks.getD c ({}, {})
    let k : FlashBank := { bytes := data, version := (Config.imageVersion data).toNat, sound := true }
    let z (d : Nat) (f : Flash) : Prop := ∃ z, exec .hostmemReply s = .next z ∧ z.flash = f ∧ z.requests = [] ∧
      ∃ k, z.journal = [k] ∧ k.final = some 0 ∧ k.detail = d
    (op = 1 → 4 ≤ c → z 3 s.flash) ∧ (op = 1 → c < 4 → Config.imageVerifies data = false → z 1 s.flash) ∧
    (op = 1 → c < 4 → Config.imageVerifies data = true → (Config.imageVersion data).toNat < s.flash.counters.getD c 0 →
      z 2 s.flash) ∧
    (op = 1 → c < 4 → Config.imageVerifies data = true → s.flash.counters.getD c 0 ≤ (Config.imageVersion data).toNat →
      z 0 { s.flash with
        active := s.flash.active.set c to', banks := s.flash.banks.set c (if to' = 0 then (k, x.2) else (x.1, k)) }) ∧
    (op = 2 → Config.imageVerifies data = false → z 1 s.flash) ∧
    (op = 2 → Config.imageVerifies data = true → z 0 { s.flash with
      staged := some { columns := Config.recordColumns data, remap := Config.recordRemap data
                       damage := (Config.recordDamage data).filterMap damageOf, vendor := true, bytes := data } })

namespace Sys2Proof.Machine

/-- The descriptor that slot `i` of core `c` holds. -/
def descOf (s : State) (c i : Nat) : BitVec 128 := ((s.core c).tslots[i]?.map (·.desc)).getD 0

/-- Channel `h` of core `c`, which the event names. -/
def AtChan (s : State) (c h : Nat) : Prop := s.arg.core = c ∧ s.arg.chan = h ∧ c < 128 ∧ h < 2

/-- Every other channel is as before, every register and every byte. -/
def OnlyChan (s z : State) (c h : Nat) : Prop :=
  (∀ d k, d ≠ c ∨ k ≠ h → z.chan d k = s.chan d k) ∧ SameRegs s z ∧ SameBytes s z

end Sys2Proof.Machine

/-- 11 R252, R254, 18 R383, R384, 12 R268: a load starts with its header, which empties the tables it overlaps and marks
its span BUSY, or fails and changes no slot; it ends with the entries written and the descriptor that the header gives;
a load resumes at the read that faulted, and one suspended too long fails. Where the spec leaves a point open, this
states the choice of the model: log entry 33. -/
def Obligations.TableLoads : Prop :=
  (∀ (s : State) (c x h : Nat) (e : TQEntry) (w : Window) (t : Strand), s.arg.core = c → c < 128 → x < 4 →
    (s.core c).tload = none → s.nextLoad c = some (x, e) → (s.ctx c x).strand = some t.age → s.strandOf c x = some t →
    (s.releasedFor t.age e.rel = false → ∃ z r, exec .tloadStart s = .next z ∧ (z.core c).tload = some r ∧ r.hdr = none ∧
      r.slot = e.slot ∧ r.ptr = e.ptr ∧ r.rel = e.rel ∧ r.sess = t.sess ∧ r.age = t.age ∧ SameBytes s z ∧ ∀ i, descOf z c i = descOf s c i) ∧
    (s.releasedFor t.age e.rel = true →
    s.checkRange t.sess .engRead 2 e.ptr 0 16 = ([{ home := .here h, off := 0, len := 16, va := e.ptr, win := w }], false, none) →
    s.pieceWaits { home := .here h, off := 0, len := 16, va := e.ptr, win := w } = false → s.errors = [] →
    let d := BitVec.ofNat 128 (s.readNat h 16)
    let n := 2 ^ (d.toNat / 4 % 4)
    let tb := e.slot.toNat
    let kind := d.toNat % 4
    let good : Prop := kind ≠ 0 ∧ d.toNat / 4 % 4 ≠ 3 ∧ d.toNat / 16 % 4 ≠ 3 ∧ d.toNat / 64 % 2 ^ 26 = 0 ∧ d.toNat / 2 ^ 40 % 2 ^ 24 = 0 ∧
      (kind = 2 → d.toNat / 4 % 16 = 0) ∧ (kind = 3 → d.toNat / 16 % 4 = 2 ∧ d.toNat / 2 ^ 64 % 2 ^ 31 < 0x7F800000) ∧
      tb % n = 0 ∧ tb + n ≤ 60 ∧ ∀ k, k < n → s.slotForeign c (tb + k) t.sess = false
    ∃ z, exec .tloadStart s = .next z ∧ (z.ctx c x).tableQ = (s.ctx c x).tableQ.tail ∧ SameRegs s z ∧ SameBytes s z ∧
      (good → (∃ r, (z.core c).tload = some r ∧ r.hdr = some d ∧ r.slot = e.slot ∧ r.ptr = e.ptr ∧ r.sess = t.sess ∧
          r.age = t.age ∧ r.started = s.now ∧ r.pos = 0 ∧ r.suspended = none) ∧
        (∀ i, tb ≤ i → i < tb + n → descOf z c i = BitVec.ofNat 128 (t.sess % 64 * 256 + 0x4040)) ∧
        ∀ i, i < 60 → (i < tb ∨ tb + n ≤ i) → descOf z c i =
          if Desc.kind (descOf s c i) ≠ 0 ∧ i < tb + n ∧ tb < i + Desc.span (descOf s c i)
          then BitVec.ofNat 128 (t.sess % 64 * 256 + 0x4000) else descOf s c i) ∧
      (¬ good → (z.core c).tload = none ∧ ∀ i, descOf z c i = descOf s c i))) ∧
  (∀ (s : State) (c h : Nat) (r : TLoadRun) (d : BitVec 128) (w : Window), s.arg.core = c → c < 128 → MemOk s →
    (s.core c).tload = some r → r.hdr = some d → r.suspended = none → r.slot.toNat + Desc.span d ≤ 60 →
    let n := Desc.span d
    let tb := r.slot.toNat
    let left := n * 16384 - r.pos
    let at1 := r.ptr + BitVec.ofNat 64 (16 + r.pos)
    let to1 := tableHome c tb + r.pos
    let piece (k : Nat) : Piece := { home := .here h, off := 0, len := k, va := at1, win := w }
    let reads (k : Nat) : Prop :=
      s.checkRange r.sess .engRead (k / 256 + 2) at1 0 k = ([piece k], false, none) ∧ s.pieceWaits (piece k) = false
    let moved (z : State) (k : Nat) : Prop := (∀ i, i < k → z.byteAt (to1 + i) = s.byteAt (h + i)) ∧
      ∀ y, y < to1 ∨ to1 + k ≤ y → z.byteAt y = s.byteAt y
    (s.now < r.started + 256 * n + 1 → exec .tloadComplete s = .next s) ∧
    (r.started + 256 * n + 1 ≤ s.now → s.errors = [] →
      (reads left → ∃ z, exec .tloadComplete s = .next z ∧ (z.core c).tload = none ∧ SameRegs s z ∧
        descOf z c tb = (d &&& ~~~0xFFC0) ||| BitVec.ofNat 128 (r.sess % 64 * 256 + 0x4000) ∧
        (∀ i, tb < i → i < tb + n → descOf z c i = BitVec.ofNat 128 (r.sess % 64 * 256 + 0x4000)) ∧
        (∀ i, i < tb ∨ tb + n ≤ i → descOf z c i = descOf s c i) ∧ moved z left) ∧
      ∀ f, (s.checkRange r.sess .engRead (left / 256 + 2) at1 0 left).2.2 = some f →
        let k := (16 + r.pos + (f.eva - at1).toNat) / 64 * 64 - (16 + r.pos)
        (0 < k → k < left → reads k → ∃ z, exec .tloadComplete s = .next z ∧ moved z k ∧ SameRegs s z ∧
          (z.core c).tload = some { r with src := {}, pos := r.pos + k } ∧ ∀ i, descOf z c i = descOf s c i) ∧
        (k = 0 → f.code = 0x06 → ∃ z, exec .tloadComplete s = .next z ∧ SameBytes s z ∧ SameRegs s z ∧
          (z.core c).tload = some { r with suspended := some (s.now, f.eva) }))) ∧
  ∀ (s : State) (c : Nat), s.arg.core = c → c < 128 → s.arg.chan = 2 →
    (∀ r t va, (s.core c).tload = some r → r.suspended = some (t, va) →
      (s.now < t + 11000000 → exec .copyFaultTimeout s = .next s) ∧
      (t + 11000000 ≤ s.now → ∃ z, exec .copyFaultTimeout s = .next z ∧ (z.core c).tload = none ∧
        SameRegs s z ∧ SameBytes s z ∧ (r.hdr = none → ∀ i, descOf z c i = descOf s c i) ∧
        ∀ d, r.hdr = some d → ∀ i, i < 64 → descOf z c i = if r.slot.toNat ≤ i ∧ i < r.slot.toNat + Desc.span d
          then BitVec.ofNat 128 (r.sess % 64 * 256 + 0x4000) else descOf s c i)) ∧
    ((s.core c).tload = none → exec .copyFaultTimeout s = .next s)

/-- 12 R262 to R269: a copy command on its way: into the buffer with its key, to its start, beat by beat, each beat's bytes
to their place and no other byte, its completion and the watermark, and the timeout of a suspended one. Where the spec
leaves a point open, this states the choice of the model: log entries 29, 30 and 32. -/
def Obligations.CopyEvents : Prop :=
  (∀ (s : State) (c h : Nat) (d : CopyCmd) (rest : List CopyCmd), AtChan s c h → (s.chan c h).queue = d :: rest →
    let k := s.chan c h
    let late (t : Nat) : Prop := d.issueCyc + 2 ^ 32 < t
    (32 ≤ k.buffer.length ∨ s.stopped d.age = true → exec .bufferEntry s = .next s) ∧
    (k.buffer.length < 32 → s.stopped d.age = false → ∃ z, exec .bufferEntry s = .next z ∧ OnlyChan s z c h ∧
      (d.time = none → z.chan c h = { k with queue := rest, buffer := k.buffer ++ [{ d with key := s.cyc.toNat }] }) ∧
      ∀ t, d.time = some t →
        (late t → z.chan c h = { k with queue := rest, finishing := k.finishing ++ [(d, true)] }) ∧
        (¬ late t → z.chan c h = { k with queue := rest, buffer := k.buffer ++ [{ d with key := t }] }))) ∧
  (∀ (s : State) (c h : Nat) (d : CopyCmd), AtChan s c h → (s.chan c h).running = none → d ∈ (s.chan c h).buffer →
    s.stopped d.age = false → d.key ≤ s.cyc.toNat → (∀ e ∈ (s.chan c h).buffer, e ≠ d → d.key < e.key) →
    let k := s.chan c h
    let fits : Prop := Shape.ok d.shape.toNat true = true
    let rows : Prop := Shape.ndim d.shape.toNat = 2 ∧ d.aux.toNat % 4 = 0 ∧ d.aux.toNat / 2 ^ 60 ≤ 1
    let starts (r : CopyRun) : Prop := ∃ z, exec .copyStart s = .next z ∧ OnlyChan s z c h ∧
      z.chan c h = { k with buffer := k.buffer.filter (· != d), running := some r }
    let fails : Prop := ∃ z, exec .copyStart s = .next z ∧ OnlyChan s z c h ∧
      z.chan c h = { k with buffer := k.buffer.filter (· != d), finishing := k.finishing ++ [(d, true)] }
    (d.kind = .copy ∨ d.kind = .copyt → (fits → starts { cmd := d, started := s.now }) ∧ (¬ fits → fails)) ∧
    (d.kind = .copyg ∨ d.kind = .copysa → (fits ∧ rows → starts { cmd := d, started := s.now }) ∧
      (¬ (fits ∧ rows) → fails)) ∧
    (d.kind = .copyx →
      let fine : Prop := Shape.ok d.shape.toNat false = true ∧ d.aux.toNat / 2 ^ 60 ≤ 1 ∧ d.aux.toNat % 32 = 0 ∧ d.src.toNat < 65536
      (fine → ∀ v, s.handles.find? (fun x => x.1 == d.sess && x.2.1 == d.src.toNat) = some v →
        starts { cmd := d, started := s.now, handle := v.2.2 }) ∧
      (¬ fine ∨ s.handles.find? (fun x => x.1 == d.sess && x.2.1 == d.src.toNat) = none → fails))) ∧
  (∀ (s : State) (c h : Nat) (r : CopyRun) (p q : List Piece), AtChan s c h → (s.chan c h).running = some r →
    r.cmd.kind = .copy ∨ r.cmd.kind = .copyt → r.suspended = none → s.ckpt = none → r.run < r.runs →
    (r.runAt r.run).len ≠ 0 →
    let k := s.chan c h
    let u := r.runAt r.run
    let n := CopyRun.beatLen u r.off
    (s.now < r.started + 8 ∨ s.releasedFor r.cmd.age r.cmd.rel = false → exec .beatIssue s = .next s) ∧
    (r.started + 8 ≤ s.now → (r.lastBeat = 0 ∨ r.lastBeat + 2 ≤ s.now) →
      s.releasedFor r.cmd.age r.cmd.rel = true →
      s.checkPartsFor r.cmd.sess .engRead false [(r.srcOf r.run + BitVec.ofNat 64 r.off, 0, n)] = (p, false, none) →
      s.checkPartsFor r.cmd.sess .engWrite false [(u.dst + BitVec.ofNat 64 r.off, 0, n)] = (q, false, none) →
      (∀ y ∈ p ++ q, (∃ a, y.home = .here a) ∧ s.pieceWaits y = false) → s.granuleHold q = false →
      ∃ z b, exec .beatIssue s = .next z ∧ OnlyChan s z c h ∧ (z.chan c h).beats = k.beats ++ [b] ∧ b.of.cmd = r.cmd ∧
        b.src = p ∧ b.dst = q ∧ b.len = n ∧ b.posted = false ∧
        (r.off + n < u.len → (z.chan c h).running = some { r with off := r.off + n, lastBeat := s.now, held := false } ∧
          (z.chan c h).finishing = k.finishing) ∧
        (u.len ≤ r.off + n → r.run + 1 = r.runs → (z.chan c h).running = none ∧
          (z.chan c h).finishing = k.finishing ++ [(r.cmd, false)]))) ∧
  (∀ (s : State) (c h ha hb n : Nat) (b : Beat) (va vb : DWord) (w1 w2 : Window), AtChan s c h → MemOk s → (s.chan c h).beats = [b] →
    b.posted = false → b.ask = {} → b.of.cmd.kind = .copy ∨ b.of.cmd.kind = .copyt → b.len = n → n ≤ 256 →
    b.src = [{ home := .here ha, off := 0, len := n, va := va, win := w1 }] →
    b.dst = [{ home := .here hb, off := 0, len := n, va := vb, win := w2 }] → s.errors = [] →
    (b.src ++ b.dst).any (s.pieceWaitsAt b.seq) = false → (b.src ++ b.dst).any (s.portTaken b.of.cmd.sess) = false → s.readsFirst b.of.cmd.age b.of.cmd.rel b.dst = false →
    (b.src ++ b.dst).any (s.foreignPiece b.of.cmd.sess) = false → Shape.brep b.of.cmd.shape.toNat = false →
    ∃ z, exec .beatComplete s = .next z ∧ SameRegs s z ∧ z.chan c h = { s.chan c h with beats := [] } ∧
      (∀ k, k < n → z.byteAt (hb + k) = s.byteAt (ha + k)) ∧
      ∀ y, y < hb ∨ hb + n ≤ y → z.byteAt y = s.byteAt y) ∧
  (∀ (s : State) (c h x : Nat) (d : CopyCmd) (failed : Bool) (t : Strand), AtChan s c h → x < 4 →
    (s.chan c h).finishing = [(d, failed)] → (∀ b ∈ (s.chan c h).beats, b.of.cmd.age ≠ d.age ∨ b.of.cmd.tid ≠ d.tid) →
    Shape.brep d.shape.toNat = false → s.strand? d.age = some t → t.st = .resident → t.core = c →
    s.ctxOf? c d.age = some x → (s.ctx c x).doneXfers = [] →
    let y := (s.ctx c x).sys
    let old := if h = 1 then y.wmk1 else y.wmk0
    let tidn := if h = 1 then y.tidn1 else y.tidn0
    let next := (old.toNat + 1) % 2 ^ 32
    ∃ z, exec .transferComplete s = .next z ∧ (z.chan c h).finishing = [] ∧ SameBytes s z ∧
      (z.ctx c x).regs = (s.ctx c x).regs ∧
      let u := z.ctx c x
      let wmk := if h = 1 then u.sys.wmk1 else u.sys.wmk0
      (d.tid = next → next ≠ tidn.toNat % 2 ^ 32 → u.doneXfers = [] ∧
        wmk = BitVec.ofNat 64 (next + if old.getLsbD 32 ∨ failed then 2 ^ 32 else 0)) ∧
      (d.tid ≠ next → wmk = old ∧ u.doneXfers = [{ chan := h, tid := d.tid, failed := failed }])) ∧
  (∀ (s : State) (c h t : Nat) (va : DWord) (r : CopyRun), AtChan s c h → (s.chan c h).running = some r →
    r.suspended = some (t, va) →
    (s.now < t + 11000000 → exec .copyFaultTimeout s = .next s) ∧
    (t + 11000000 ≤ s.now → ∃ z, exec .copyFaultTimeout s = .next z ∧ OnlyChan s z c h ∧
      (z.chan c h).running = none ∧ (z.chan c h).finishing = (s.chan c h).finishing ++ [(r.cmd, true)] ∧
      (z.chan c h).beats = (s.chan c h).beats))

/-! ## Encodings -/

namespace Sys2Proof.Machine

/-- The slots of a bundle go one after another: each performs, none waits, holds, traps or halts. -/
def SlotsGo : List Slot → State → State → Prop
  | [], s, t => t = s
  | k :: r, s, t => isHaltSlot k = false ∧ ∃ m, exec k.op (State.outcome { s with curSlot := k.idx, ext := k.ext } .done) = .next m ∧
      m.cur.out = .done ∧ SlotsGo r m t
where isHaltSlot (k : Slot) : Bool := match k.op with | .halt .. => true | _ => false

/-- The next step is one of core `c` looking at its running context, which is the only one it can look at: `s1` is the
state in which it does. -/
def LooksAt (s s1 : State) (c : Nat) : Prop :=
  ∃ r, s.agenda = .issue c :: r ∧
    let a : State := { s with agenda := r }
    let run := (a.core c).running
    let b : State := { a with curCore := c, curCtx := run }
    (∀ x < 4, x ≠ run → (a.ctx c x).st = .issuable ∨ a.attemptable c x = false) ∧
    (a.core c).switching = 0 ∧ a.attemptable c run = true ∧ (a.ctx c run).st = .issuable ∧
    s1 = b.modCur fun k =>
      let k := k.landDue a.now
      { k with out := .done, before := some { sys := k.sys, crew := (b.crewOf? b.curAge).map fun w => (w.id, w.episode) } }

/-- The bundle of core `c` has issued, and a freeze that it came through is over (05 R131). -/
def issued (y : State) (c before : Nat) (bar : Bool) : State :=
  (y.issueBundle before bar).modCore c fun k => { k with thawTo := none }

def isCbar (i : Instr) : Bool := match i with | .cbar .. => true | _ => false

end Sys2Proof.Machine

/-- 15 R309 to R327, 19 R405, 21 R441: words that the spec spells decode to the instructions they stand for, one of each
class, a bank-unit word and a microword; a Reserved field and an unassigned op are no instruction. -/
def Obligations.SpelledWordsDecode : Prop :=
  decode .s 0x40028345 = .ok (.addi 0 0 5 1 0x145) ∧ decode .s 0xC0000091 = .ok (.ext 0x91) ∧
  decode .v 0x5400420C = .ok (.vfmul 0 0 1 2 3 0) ∧ decode .v 0x02110518 = .ok (.vadd 0 1 4 5 6) ∧
  decode .x 0x14040808 = .ok (.exp2 0 4 2 2) ∧ decode .m 0x02020780 = .ok (.mcall 0 0x040 15 0) ∧
  decode .m 0x10108F00 = .ok (.bfly 4 4 3 3 0) ∧ decode .c 0x164387FE = .ok (.std 2 7 3 0x1FE) ∧
  decode .c 0x50000C80 = .ok (.fence 6 1) ∧ decode .bank 0x388E6400 = .ok (.bfma 0 4 7 3 1) ∧
  decodeMicro 0x1000000000000400 = .ok (.clr 0 16) ∧ decode .c 0x50000D80 = .error .outOfRange ∧
  decode .s 0xFFFFFFFF = .error .unassigned ∧ decode .c 0x50000C81 = .error .reservedBits

/-- 15 R311 to R317: decoding the word of a well-formed scalar instruction gives it back, with every operand at every
value that its encoding admits. -/
def Obligations.ScalarWordsRoundTrip : Prop :=
  ∀ (i : Instr) (w : Word), i.slotKind = some .s → i.wf = true → encodeWord i = some w → decode .s w = .ok i

/-- 15 R318 to R322: the same for the words of the vector and table slots. -/
def Sys2Proof.Machine.VectorWordsRoundTrip : Prop :=
  ∀ (i : Instr) (w : Word) (k : SlotClass), k = .v ∨ k = .x → i.slotKind = some k → i.wf = true →
    encodeWord i = some w → decode k w = .ok i

/-- 15 R323 to R327, 21 R440, R441: the same for the words of the matrix slot, the memory slots and the bank units. -/
def Sys2Proof.Machine.EngineWordsRoundTrip : Prop :=
  ∀ (i : Instr) (w : Word) (k : SlotClass), k = .m ∨ k = .c ∨ k = .bank → i.slotKind = some k → i.wf = true →
    encodeWord i = some w → decode k w = .ok i

/-- 19 R405, R406: the same for routine microwords. -/
def Sys2Proof.Machine.MicrowordsRoundTrip : Prop :=
  ∀ (i : Instr) (w : DWord), i.wf = true → encodeMicro i = some w → decodeMicro w = .ok i

/-- 15 R309, 19 R405: no word but an instruction's own decodes to it, and what decodes is well formed: every other word
of its class, with a Reserved bit set or a field out of range, is refused. -/
def Obligations.WordsAreCanonical : Prop :=
  (∀ (k : SlotClass) (w : Word) (i : Instr), decode k w = .ok i → i.wf = true ∧ encodeWord i = some w) ∧
  (∀ (w : DWord) (i : Instr), decodeMicro w = .ok i → i.wf = true ∧ encodeMicro i = some w)

/-! ## The step -/

/-- 06 R135, R136, R144: a step of a core whose running context can issue its bundle runs the decoded instruction of
every slot, one after another, and retires the bundle. A slot sees the system registers and the crew as they were before the
bundle (R136). -/
def Sys2Proof.Machine.StepRunsTheBundle : Prop :=
  ∀ (s s1 z y : State) (c : Nat) (w : BitVec 256) (l : List Slot), LooksAt s s1 c → s1.fetchBundle = (.got w, z) →
    legal w = some l → s1.schedule w l = none → s1.privilege w l = none → s1.lateRoutine w l = false →
    SlotsGo (s1.inOrderOf w l) z y →
    step s = .next (issued y c s1.cur.pend.length ((s1.inOrderOf w l).any (isCbar ·.op))).after

/-- 19 R410, 13 R281, 02 R32: a step of a matrix unit or of a bank unit runs the instruction that its word decodes to; a
step that is an event runs the event; a message waits at the arbiter for the cycle that follows, where port A's is taken
first, the turns of the cycle come after, and then time passes. -/
def Sys2Proof.Machine.StepRunsTheTurn : Prop :=
  ∀ (s t : State) (i : Instr) (r : List Turn),
    let a : State := { s with agenda := r }
    (∀ (c : Nat) (e : MRun), s.agenda = .micro c :: r → (a.core c).unit = some e → a.unitReady c = true →
      e.last = false → a.cutShort e = false → a.halting c e = false → e.entry.kind = .mcall → decodeMicro (a.microWord c e) = .ok i →
      exec i { a with curCore := c } = .next t → step s = .next t.after) ∧
    (∀ c : Nat, s.agenda = .unit c :: r → a.microTurn c = .next t → State.passedWaith c a t = false → step s = .next t.after) ∧
    (∀ (ch k : Nat) (b : BankSlot), s.agenda = .bank ch :: r → (a.unit ch).cur = some k → State.slot? (a.unit ch) k = some b →
      a.ckpt = none ∨ (a.unit ch).rowOp.isSome = true → b.rc < b.len → decode .bank (a.bankWord ch b b.rc) = .ok i →
      exec i { a with curChan := ch } = .next t → step s = .next t.after) ∧
    (∀ g, s.agenda = .event i g :: r → encodeWord i = none → encodeMicro i = none →
      (State.isMessage i = true → step s = .next (a.arrive i g).after) ∧
      (State.isMessage i = false → exec i (a.withArg g) = .next t → step s = .next t.after)) ∧
    (∀ (j : Instr) (g h : EventArg) (y z : State), s.agenda = [] → s.arrivals = [(i, g), (j, h)] → g.port ≠ 1 → h.port = 1 →
      exec j (State.withArg { s with arrivals := [] } h) = .next y → exec i (y.after.withArg g) = .next z →
      z.after.doTurns z.after.cycleTurns = .next t → step s = .next t.queueBanks.tick)

/-- 06 R135, R148: the bundle after one that issues is the target of its taken transfer, else the start of the innermost
level that ends there while its counter, less 1, is not zero, else the next in line. The counter's write counts before
the bundle's own results; nothing else of the registers or of memory changes by it, and a strand that has issued EXIT
leaves its crew (16 R350). -/
def Obligations.NextBundle : Prop :=
  ∀ (s : State) (n : Nat) (bar : Bool), s.InHand → (∀ f, s.cur.wait ≠ .mode f) →
    let t := s.issueBundle n bar
    t.cur.issue = s.cur.issue + 1 ∧ t.cur.nextPc = none ∧ t.cur.regs = s.cur.regs ∧ t.cur.sys = s.cur.sys ∧ SameBytes s t ∧
    (s.cur.exits = false → t.crews = s.crews) ∧ t.cur.before = none ∧
    (∀ k ∈ t.crews, s.cur.exits = true → ¬ s.curAge ∈ k.members) ∧
    (∀ a, s.cur.nextPc = some a → t.cur.pc = a ∧ t.cur.loops = s.cur.loops ∧ t.cur.pend = s.cur.pend) ∧
    (s.cur.nextPc = none → s.cur.hnd = true ∨ (∀ v ∈ s.cur.loops, v.last ≠ s.cur.pc) →
      t.cur.pc = s.cur.pc + 32 ∧ t.cur.loops = s.cur.loops ∧ t.cur.pend = s.cur.pend) ∧
    (∀ (outer inner : List LoopLevel) (v : LoopLevel), s.cur.nextPc = none → s.cur.hnd = false →
      s.cur.loops = outer ++ v :: inner → (∀ u ∈ inner, u.last ≠ s.cur.pc) → v.last = s.cur.pc →
      let k := s.cur.rlc v.depth - 1
      ((k ≠ 0 ∨ ∀ u ∈ outer, u.last ≠ s.cur.pc) →
        ∃ p, t.cur.pend = s.cur.pend.take n ++ p :: s.cur.pend.drop n ∧ p.dest = .lc v.depth ∧ p.data = k.setWidth 2048 ∧
          p.due = if s.cur.fixed then .issue (s.cur.issue + 1) else .cycle (s.now + 1)) ∧
      (k ≠ 0 → t.cur.pc = v.start ∧ t.cur.loops = s.cur.loops) ∧
      (k = 0 → (∀ u ∈ outer, u.last ≠ s.cur.pc) → t.cur.pc = s.cur.pc + 32 ∧ t.cur.loops = outer ++ inner))

/-- 06 R144, R149 to R151: the traps of a bundle, in their order: a fetch that fails, an illegal bundle, a privilege and,
in a fixed region, a schedule condition. No slot of it performs. -/
def Sys2Proof.Machine.TrapsInOrder : Prop :=
  ∀ (s s1 z : State) (c : Nat) (f : Fetched), LooksAt s s1 c → s1.fetchBundle = (f, z) →
    (∀ eva, f = .bad eva → step s = .next (z.trapWith 0x02 0 eva).after) ∧
    (∀ w, f = .got w → legal w = none → step s = .next (z.trapWith 0x01 0 0).after) ∧
    (∀ w l eva, f = .got w → legal w = some l → s1.cur.fixed = true ∨ (s1.schedule w l ≠ some 1 ∧ s1.schedule w l ≠ some 2) →
      s1.privilege w l = some eva → step s = .next (z.trapWith 0x03 0 eva).after) ∧
    (∀ w l k, f = .got w → legal w = some l → s1.privilege w l = none → s1.cur.fixed = true → s1.schedule w l = some k →
      step s = .next (z.trapWith 0x04 k 0).after)

/-- 15 R309, R313, R315, R328, 06 R143, R146: what makes a bundle illegal: a word of no instruction of its slot's class,
an S0-only instruction in S1, an EXT without a partner that takes one, more than six read ports, two writes of one
register out of order, and MODE beside another operation. -/
def Sys2Proof.Machine.IllegalBundles : Prop :=
  ∀ (w : BitVec 256),
    ((∃ k < 8, ∃ e, decodeSlot k (slotWord w k) = .error e) → legal w = none) ∧
    (∀ op : Nat → Instr, (∀ k < 8, decodeSlot k (slotWord w k) = .ok (op k)) →
      (firstOnly (op 1) = true → legal w = none) ∧
      (∀ k < 2, ∀ x, op k = .ext x → takesExt (op (1 - k)) = false → legal w = none) ∧
      (6 < ((List.range 8).map fun k => readPorts (op k)).sum → legal w = none) ∧
      (∀ j < 8, ∀ k < 8, j < k → ∀ x ∈ writes 8 (op j), ∀ y ∈ writes 8 (op k), x.dest = y.dest → Ctx.Dest.hard x.dest = false →
        y.lat < x.lat → legal w = none) ∧
      (∀ f, op 0 = .mode f → ∀ k < 8, k ≠ 0 → op k ≠ .nop → legal w = none))

/-! ## The whole machine -/

/-- 02 R58, 06 R149: every step of every state goes on to a next state: a trap enters its handler or ends its session, and
a start-up that fails leaves the device in Pennant state, which answers; no rule stops the machine. Where the spec
leaves a point open, this states the choice of the model: log entry 1. -/
def Obligations.EveryStepGoesOn : Prop := ∀ s, Goes s

/-- 03 R76, R77, R82: the memory, the areas of the safe region with their parity, and the memories that its records keep
have their canonical form after every step from a state in which they have it: log entry 9 gives the form. -/
def Obligations.StepKeepsMemory : Prop := ∀ s t, MemOk s → step s = .next t → MemOk t

/-- 06 R138, R142, 17 R360: a vector or table instruction that does not trap changes no byte of memory and no other context,
and of its own neither the registers, the PC, the levels, the claims, the accesses nor a system register but the draw
state of its roundings: its results are pending. The reads of a table meet the errors of its slices (03 R72), here none where
memory, other contexts and what is pending are spoken of. -/
def Obligations.VectorFrame : Prop :=
  ∀ (s t : State) (i : Instr), s.InHand → i.slotKind = some .v ∨ i.slotKind = some .x → exec i s = .next t →
    t.cur.out ≠ .trapped → t.cyc = s.cyc ∧ t.strands = s.strands ∧ t.cur.pc = s.cur.pc ∧
    t.cur.regs = s.cur.regs ∧ t.cur.loops = s.cur.loops ∧ t.cur.claims = s.cur.claims ∧ t.cur.accesses = s.cur.accesses ∧
    { t.cur.sys with rseed0 := s.cur.sys.rseed0, rseed1 := s.cur.sys.rseed1 } = s.cur.sys ∧
    (s.errors = [] → SameBytes s t ∧ (∀ c x, c ≠ s.curCore ∨ x ≠ s.curCtx → t.ctx c x = s.ctx c x) ∧
      ∃ ps, t.cur.pend = s.cur.pend ++ ps)

/-- 02 R37 and the model's choices (log entries 1, 7, 8, 9, 18): right after reset the device is in bring-up, its CYC is not
yet in agreement with the root's, nothing is created, every context is free, no byte is listed, and the first step is the
coming on of power. -/
def Obligations.ResetState : Prop :=
  let s := State.reset
  MemOk s ∧ s.mode = .bringUp ∧ s.timeOk = false ∧ s.agenda = [.event .powerOn {}] ∧ s.cyc = 0 ∧ s.now = 0 ∧ s.mem = [] ∧ s.sessions = [] ∧
  s.strands = [] ∧ s.launches = [] ∧ s.crews = [] ∧ s.units = [] ∧ s.journal = [] ∧ s.base = none ∧ s.delta = none ∧
  ∀ c x, (s.ctx c x).st = .free ∧ (s.ctx c x).pc = 0 ∧ (s.ctx c x).sys.tvec = 0 ∧ (s.ctx c x).hnd = false ∧
    ∀ n, (s.ctx c x).rg n = 0

/-- Decoding the word of a well-formed vector, table, matrix, memory, bank or routine instruction gives it back. -/
def Obligations.OtherWordsRoundTrip : Prop :=
  VectorWordsRoundTrip ∧ EngineWordsRoundTrip ∧ MicrowordsRoundTrip

/-- A step runs the decoded instruction: every slot of a bundle, a microword, a bank-unit word, an event, a message.
Where the spec leaves a point open, this states the choice of the model: log entries 1, 18, 19, 72 and 74. -/
def Obligations.StepRunsTheDecoded : Prop :=
  StepRunsTheBundle ∧ StepRunsTheTurn

/-- The traps of a bundle in their order, and what makes a bundle illegal. Where the spec leaves a point open, this
states the choice of the model: log entries 12, 17, 72 and 74. -/
def Obligations.BundleTraps : Prop :=
  TrapsInOrder ∧ IllegalBundles
end

