-- ==== Sys2Proof/Laws/Memory.lean ====
section
/-! SUPPORT. Laws of memory: the canonical form is kept, and what a read sees after a write. -/

namespace Sys2Proof.Laws.Memory

open Sys2Proof.Machine

/-- Addresses strictly rising. -/
abbrev Rising (m : List Host.Cell) : Prop := m.Pairwise fun p q => p.1 < q.1

theorem wf_iff (m : List Host.Cell) : Memory.wf m = true ↔ Rising m ∧ ∀ c ∈ m, c.2 ≠ 0 := by
  induction m with
  | nil => simp [Memory.wf]
  | cons p r ih =>
    obtain ⟨x, v⟩ := p
    cases r with
    | nil => simp [Memory.wf]
    | cons q t =>
      obtain ⟨y, w⟩ := q
      rw [Memory.wf]
      simp only [Bool.and_eq_true, bne_iff_ne, ne_eq, decide_eq_true_eq, ih]
      constructor
      · rintro ⟨⟨hv, hxy⟩, hr, hn⟩
        refine ⟨List.pairwise_cons.2 ⟨?_, hr⟩, ?_⟩
        · intro c hc
          rcases List.mem_cons.1 hc with rfl | hc
          · exact hxy
          · exact lt_trans hxy ((List.pairwise_cons.1 hr).1 c hc)
        · intro c hc
          rcases List.mem_cons.1 hc with rfl | hc
          · exact hv
          · exact hn c hc
      · rintro ⟨hr, hn⟩
        exact ⟨⟨hn _ (List.mem_cons_self ..), (List.pairwise_cons.1 hr).1 _ (List.mem_cons_self ..)⟩,
          (List.pairwise_cons.1 hr).2, fun c hc => hn c (List.mem_cons_of_mem _ hc)⟩

/-! ## What memory holds -/

theorem memGet_of_mem {m : List Host.Cell} (h : Rising m) {x : Nat} {v : Byte} (hm : (x, v) ∈ m) : memGet m x = v := by
  induction m with
  | nil => simp at hm
  | cons p r ih =>
    obtain ⟨y, w⟩ := p
    rw [memGet]
    have hp := List.pairwise_cons.1 h
    rcases List.mem_cons.1 hm with hm | hm
    · obtain ⟨rfl, rfl⟩ := Prod.mk.injEq .. ▸ hm
      simp
    · have := hp.1 _ hm
      simp only at this
      rw [if_neg (by omega), if_neg (by omega)]
      exact ih hp.2 hm

theorem memGet_of_not_mem {m : List Host.Cell} {x : Nat} (hm : ∀ v, (x, v) ∉ m) : memGet m x = 0 := by
  induction m with
  | nil => rfl
  | cons p r ih =>
    obtain ⟨y, w⟩ := p
    rw [memGet]
    have : y ≠ x := by
      rintro rfl
      exact hm w (List.mem_cons_self ..)
    rw [if_neg this]
    split
    · rfl
    · exact ih fun v hv => hm v (List.mem_cons_of_mem _ hv)

/-- Two canonical lists with the same cells give the same bytes. -/
theorem memGet_congr {m n : List Host.Cell} (hm : Rising m) (hn : Rising n) {x : Nat}
    (h : ∀ v, (x, v) ∈ m ↔ (x, v) ∈ n) : memGet m x = memGet n x := by
  by_cases hx : ∃ v, (x, v) ∈ n
  · obtain ⟨v, hv⟩ := hx
    rw [memGet_of_mem hn hv, memGet_of_mem hm ((h v).2 hv)]
  · push Not at hx
    rw [memGet_of_not_mem hx, memGet_of_not_mem fun v hv => hx v ((h v).1 hv)]

/-! ## Writes -/

theorem memRun_bounds (m : List Host.Cell) (a : Nat) (bs : List (Option Byte)) :
    ∀ c ∈ memRun m a bs, a ≤ c.1 ∧ c.1 < a + bs.length ∧ c.2 ≠ 0 := by
  induction bs generalizing m a with
  | nil => simp [memRun]
  | cons b bs ih =>
    have up (m : List Host.Cell) : ∀ c ∈ memRun m (a + 1) bs, a ≤ c.1 ∧ c.1 < a + (b :: bs).length ∧ c.2 ≠ 0 := by
      intro c hc
      obtain ⟨h1, h2, h3⟩ := ih m (a + 1) c hc
      simp only [List.length_cons]
      exact ⟨by omega, by omega, h3⟩
    have put (m : List Host.Cell) (w : Byte) (hw : w ≠ 0) :
        ∀ c ∈ (a, w) :: memRun m (a + 1) bs, a ≤ c.1 ∧ c.1 < a + (b :: bs).length ∧ c.2 ≠ 0 := by
      intro c hc
      rcases List.mem_cons.1 hc with rfl | hc
      · simp only [List.length_cons]
        exact ⟨le_rfl, by omega, hw⟩
      · exact up m c hc
    cases m with
    | nil =>
      rw [memRun]
      split
      · exact up []
      · exact put [] _ ‹_›
    | cons p r =>
      obtain ⟨x, v⟩ := p
      rw [memRun]
      split <;> split
      · exact up r
      · exact put r _ ‹_›
      · exact up _
      · exact put _ _ ‹_›

theorem memRun_rising (m : List Host.Cell) (a : Nat) (bs : List (Option Byte)) : Rising (memRun m a bs) := by
  induction bs generalizing m a with
  | nil => simp [memRun]
  | cons b bs ih =>
    have put (m : List Host.Cell) (w : Byte) : Rising ((a, w) :: memRun m (a + 1) bs) := by
      refine List.pairwise_cons.2 ⟨fun c hc => ?_, ih m (a + 1)⟩
      have := memRun_bounds m (a + 1) bs c hc
      simp only
      omega
    cases m with
    | nil =>
      rw [memRun]
      split
      · exact ih ..
      · exact put ..
    | cons p r =>
      obtain ⟨x, v⟩ := p
      rw [memRun]
      split <;> split
      · exact ih ..
      · exact put ..
      · exact ih ..
      · exact put ..

theorem memWrite_wf {m : List Host.Cell} (h : Memory.wf m = true) (a : Nat) (bs : List (Option Byte)) :
    Memory.wf (memWrite m a bs) = true := by
  rw [wf_iff] at h ⊢
  obtain ⟨hr, hn⟩ := h
  have hb := memRun_bounds (m.filter fun c => decide (a ≤ c.1) && decide (c.1 < a + bs.length)) a bs
  constructor
  · rw [memWrite, Rising, List.append_assoc, List.pairwise_append, List.pairwise_append]
    refine ⟨hr.filter _, ⟨memRun_rising .., hr.filter _, ?_⟩, ?_⟩
    · intro c hc d hd
      have := (hb c hc).2.1
      simp only [List.mem_filter, decide_eq_true_eq] at hd
      omega
    · intro c hc d hd
      simp only [List.mem_filter, decide_eq_true_eq] at hc
      rcases List.mem_append.1 hd with hd | hd
      · have := (hb d hd).1
        omega
      · simp only [List.mem_filter, decide_eq_true_eq] at hd
        omega
  · intro c hc
    rw [memWrite] at hc
    rcases List.mem_append.1 hc with hc | hc
    · rcases List.mem_append.1 hc with hc | hc
      · exact hn c (List.mem_of_mem_filter hc)
      · exact (hb c hc).2.2
    · exact hn c (List.mem_of_mem_filter hc)

theorem filter_wf {m : List Host.Cell} (h : Memory.wf m = true) (f : Host.Cell → Bool) :
    Memory.wf (m.filter f) = true := by
  rw [wf_iff] at h ⊢
  exact ⟨h.1.filter _, fun c hc => h.2 c (List.mem_of_mem_filter hc)⟩

/-! ## Touching a run moves its granules, and no byte of memory -/

theorem logGranule_mem (s : State) (g : Nat) : (s.logGranule g).mem = s.mem := by
  unfold State.logGranule
  split <;> rfl

theorem foldl_logGranule_mem (gs : List Nat) (s : State) : (gs.foldl State.logGranule s).mem = s.mem := by
  induction gs generalizing s with
  | nil => rfl
  | cons g gs ih => rw [List.foldl_cons, ih, logGranule_mem]

theorem touch_mem (s : State) (a n : Nat) : (s.touch a n).mem = s.mem := by
  unfold State.touch
  split
  · rfl
  · split
    · exact foldl_logGranule_mem ..
    · rfl

theorem writeMasked_mem (s : State) (a : Nat) (bs : List (Option Byte)) :
    (s.writeMasked a bs).mem = memWrite s.mem a bs := by
  unfold State.writeMasked
  simp only [touch_mem]

theorem writeMasked_wf {s : State} (h : Memory.wf s.mem = true) (a : Nat) (bs : List (Option Byte)) :
    Memory.wf (s.writeMasked a bs).mem = true := by
  rw [writeMasked_mem]
  exact memWrite_wf h a bs

theorem write_wf {s : State} (h : Memory.wf s.mem = true) (a : Nat) (bs : List Byte) :
    Memory.wf (s.write a bs).mem = true := writeMasked_wf h a _

theorem writeNat_wf {s : State} (h : Memory.wf s.mem = true) (a n x : Nat) :
    Memory.wf (s.writeNat a n x).mem = true := writeMasked_wf h a _

theorem zero_wf {s : State} (h : Memory.wf s.mem = true) (a n : Nat) : Memory.wf (s.zero a n).mem = true := by
  unfold State.zero
  simp only [touch_mem]
  exact filter_wf h _

/-! ## The striped areas keep the form too -/

theorem foldl_keeps {α β : Type} (P : β → Prop) (f : β → α → β) (hf : ∀ b a, P b → P (f b a)) (l : List α) {b : β}
    (h : P b) : P (l.foldl f b) := by
  induction l generalizing b with
  | nil => exact h
  | cons a l ih => exact ih (hf b a h)

theorem xorCell_wf {m : List Host.Cell} (h : Memory.wf m = true) (a : Nat) (v : Byte) :
    Memory.wf (Striped.xorCell m a v) = true := memWrite_wf h _ _

theorem put_wf {x : Striped} (h : x.Wf) (d : Nat) (v : Byte) : (x.put d v).Wf :=
  ⟨memWrite_wf h.1 _ _, xorCell_wf h.2 _ _⟩

theorem fill_wf {x : Striped} (h : x.Wf) (d n : Nat) (cs : List Host.Cell) : (x.fill d n cs).Wf :=
  foldl_keeps Striped.Wf _ (fun _ _ h => put_wf h ..) _ (foldl_keeps Striped.Wf _ (fun _ _ h => put_wf h ..) _ h)

theorem lose_wf {x : Striped} (h : x.Wf) (p : Nat) : (x.lose p).Wf := ⟨filter_wf h.1 _, filter_wf h.2 _⟩

theorem rebuildUnit_wf (p : Nat) {x : Striped} (h : x.Wf) (k : Nat) : (Striped.rebuildUnit p x k).Wf := by
  unfold Striped.rebuildUnit
  split
  · exact ⟨h.1, foldl_keeps (Memory.wf · = true) _ (fun _ _ h => xorCell_wf h ..) _ h.2⟩
  · exact ⟨foldl_keeps (Memory.wf · = true) _ (fun _ _ h => xorCell_wf h ..) _ h.1, h.2⟩

theorem rebuilt_wf {x : Striped} (h : x.Wf) (p : Nat) : (x.rebuilt p).Wf :=
  foldl_keeps Striped.Wf _ (fun _ _ h => rebuildUnit_wf p h _) _ (lose_wf h p)

theorem dropBad_wf {x : Striped} (h : x.Wf) : x.dropBad.Wf := ⟨filter_wf h.1 _, filter_wf h.2 _⟩

theorem rebuildBad_wf {x : Striped} (h : x.Wf) (p : Option Nat) : (x.rebuildBad p).Wf :=
  foldl_keeps Striped.Wf (fun y (e : Nat × Nat) => Striped.rebuildUnit e.2 y e.1) (fun _ _ h => rebuildUnit_wf _ h _) (x.bad.eraseDups.filter fun e : Nat × Nat => some e.2 != p) h

theorem areaRead_wf (s : State) {x : Striped} (h : x.Wf) : (s.areaRead x).Wf := by
  unfold State.areaRead
  split
  · exact rebuildBad_wf (rebuilt_wf (dropBad_wf h) _) _
  · exact rebuildBad_wf (dropBad_wf h) _

theorem reset_wf : Memory.wf State.reset.mem = true := by decide

/-! ## Reads after writes -/

theorem memRun_get {m : List Host.Cell} (h : Rising m) (a : Nat) (bs : List (Option Byte)) (hlo : ∀ c ∈ m, a ≤ c.1)
    (x : Nat) (hx : a ≤ x) (hx' : x < a + bs.length) :
    memGet (memRun m a bs) x = (bs[x - a]?.join).getD (memGet m x) := by
  induction bs generalizing m a with
  | nil => simp at hx'; omega
  | cons b bs ih =>
    simp only [List.length_cons] at hx'
    -- the tail of the run, and the byte at its head
    have tail (n : List Host.Cell) (hn : Rising n) (hl : ∀ c ∈ n, a + 1 ≤ c.1) (hxa : x ≠ a) :
        memGet (memRun n (a + 1) bs) x = ((b :: bs)[x - a]?.join).getD (memGet n x) := by
      rw [ih hn (a + 1) hl (by omega) (by omega)]
      have : x - a = (x - (a + 1)) + 1 := by omega
      rw [this, List.getElem?_cons_succ]
    have put (n : List Host.Cell) (hn : Rising n) (hl : ∀ c ∈ n, a + 1 ≤ c.1) (w : Byte) :
        memGet ((a, w) :: memRun n (a + 1) bs) x = if x = a then w else ((b :: bs)[x - a]?.join).getD (memGet n x) := by
      rw [memGet]
      by_cases hxa : x = a
      · simp [hxa]
      · rw [if_neg (by omega), if_neg (by omega), if_neg hxa, tail n hn hl hxa]
    have none0 (n : List Host.Cell) (hl : ∀ c ∈ n, a + 1 ≤ c.1) (t : List (Option Byte)) :
        memGet (memRun n (a + 1) t) a = 0 := by
      refine memGet_of_not_mem fun v hv => ?_
      have := (memRun_bounds _ _ _ _ hv).1
      simp only at this
      omega
    have keep (n : List Host.Cell) (hl : ∀ c ∈ n, a + 1 ≤ c.1) : memGet n a = 0 := by
      refine memGet_of_not_mem fun v hv => ?_
      have := hl _ hv
      simp only at this
      omega
    have zero0 (n : List Host.Cell) (hn : Rising n) (hl : ∀ c ∈ n, a + 1 ≤ c.1) (w : Byte) (hw : w = 0) :
        memGet (memRun n (a + 1) bs) x = if x = a then w else ((b :: bs)[x - a]?.join).getD (memGet n x) := by
      by_cases hxa : x = a
      · rw [if_pos hxa, hxa, none0 n hl, hw]
      · rw [if_neg hxa, tail n hn hl hxa]
    have head : x = a → (b :: bs)[x - a]?.join = b := by
      rintro rfl
      simp
    cases m with
    | nil =>
      have e : memGet (memRun [] a (b :: bs)) x =
          if x = a then b.getD 0 else ((b :: bs)[x - a]?.join).getD (memGet [] x) := by
        rw [memRun]
        split
        · exact zero0 [] (by simp) (by simp) _ ‹_›
        · exact put [] (by simp) (by simp) _
      rw [e]
      split
      · rw [head ‹_›]
        rfl
      · rfl
    | cons p r =>
      obtain ⟨y, v⟩ := p
      have hp := List.pairwise_cons.1 h
      have hya : a ≤ y := hlo (y, v) (List.mem_cons_self ..)
      have hr : ∀ c ∈ r, y < c.1 := fun c hc => hp.1 c hc
      rw [memRun]
      by_cases hy : y = a
      · subst hy
        have e : (if b.getD v = 0 then memRun r (y + 1) bs else (y, b.getD v) :: memRun r (y + 1) bs) =
            (if y = y then if b.getD v = 0 then memRun r (y + 1) bs else (y, b.getD v) :: memRun r (y + 1) bs
             else if b.getD 0 = 0 then memRun ((y, v) :: r) (y + 1) bs
             else (y, b.getD 0) :: memRun ((y, v) :: r) (y + 1) bs) := by simp
        rw [← e]
        have hl : ∀ c ∈ r, y + 1 ≤ c.1 := fun c hc => hr c hc
        have g : memGet (if b.getD v = 0 then memRun r (y + 1) bs else (y, b.getD v) :: memRun r (y + 1) bs) x =
            if x = y then b.getD v else ((b :: bs)[x - y]?.join).getD (memGet r x) := by
          split
          · exact zero0 r hp.2 hl _ ‹_›
          · exact put r hp.2 hl _
        rw [g, memGet]
        by_cases hxy : x = y
        · subst hxy
          rw [if_pos rfl, if_pos rfl, head rfl]
        · rw [if_neg hxy, if_neg (by omega), if_neg (by omega)]
      · rw [if_neg hy]
        have hl : ∀ c ∈ (y, v) :: r, a + 1 ≤ c.1 := by
          intro c hc
          rcases List.mem_cons.1 hc with rfl | hc
          · simp only
            omega
          · have := hr c hc
            omega
        have g : memGet (if b.getD 0 = 0 then memRun ((y, v) :: r) (a + 1) bs
            else (a, b.getD 0) :: memRun ((y, v) :: r) (a + 1) bs) x =
            if x = a then b.getD 0 else ((b :: bs)[x - a]?.join).getD (memGet ((y, v) :: r) x) := by
          split
          · exact zero0 _ h hl _ ‹_›
          · exact put _ h hl _
        rw [g]
        split
        · next hxa => rw [head hxa, hxa, keep _ hl]
        · rfl

/-- What a byte reads as after a write: the byte written where the run has one, and else the byte of before. -/
theorem memWrite_get {m : List Host.Cell} (h : Memory.wf m = true) (a : Nat) (bs : List (Option Byte)) (x : Nat) :
    memGet (memWrite m a bs) x =
      if a ≤ x ∧ x < a + bs.length then (bs[x - a]?.join).getD (memGet m x) else memGet m x := by
  have hw := (wf_iff _).1 (memWrite_wf h a bs)
  rw [wf_iff] at h
  have hb := memRun_bounds (m.filter fun c => decide (a ≤ c.1) && decide (c.1 < a + bs.length)) a bs
  split
  · next hx =>
    have e : memGet (memWrite m a bs) x =
        memGet (memRun (m.filter fun c => decide (a ≤ c.1) && decide (c.1 < a + bs.length)) a bs) x := by
      refine memGet_congr hw.1 (memRun_rising ..) fun v => ?_
      rw [memWrite]
      simp only [List.mem_append, List.mem_filter, decide_eq_true_eq]
      constructor
      · rintro ((h1 | h1) | h1)
        · omega
        · exact h1
        · omega
      · exact fun h1 => .inl (.inr h1)
    rw [e, memRun_get (h.1.filter _) a bs _ x hx.1 hx.2]
    · congr 1
      refine memGet_congr (h.1.filter _) h.1 fun v => ?_
      simp only [List.mem_filter, Bool.and_eq_true, decide_eq_true_eq, and_iff_left_iff_imp]
      exact fun _ => hx
    · intro c hc
      simp only [List.mem_filter, Bool.and_eq_true, decide_eq_true_eq] at hc
      exact hc.2.1
  · next hx =>
    refine memGet_congr hw.1 h.1 fun v => ?_
    rw [memWrite]
    simp only [List.mem_append, List.mem_filter, decide_eq_true_eq]
    constructor
    · rintro ((h1 | h1) | h1)
      · exact h1.1
      · have := hb _ h1
        simp only at this
        omega
      · exact h1.1
    · intro h1
      by_cases hxa : x < a
      · exact .inl (.inl ⟨h1, hxa⟩)
      · exact .inr ⟨h1, by omega⟩

/-- A write leaves every byte outside its run as it was. -/
theorem memWrite_frame {m : List Host.Cell} (h : Memory.wf m = true) (a : Nat) (bs : List (Option Byte)) (x : Nat)
    (hx : x < a ∨ a + bs.length ≤ x) : memGet (memWrite m a bs) x = memGet m x := by
  rw [memWrite_get h, if_neg (by omega)]

theorem write_get {s : State} (h : Memory.wf s.mem = true) (a : Nat) (bs : List Byte) (x : Nat) :
    (s.write a bs).byteAt x = if a ≤ x ∧ x < a + bs.length then (bs[x - a]?).getD 0 else s.byteAt x := by
  rw [State.byteAt, State.write, writeMasked_mem, memWrite_get h]
  simp only [List.length_map]
  split
  · next hx =>
    have : x - a < bs.length := by omega
    simp [List.getElem?_map, List.getElem?_eq_getElem this]
  · rfl

theorem memTake_get {m : List Host.Cell} (h : Rising m) (a n : Nat) (hlo : ∀ c ∈ m, a ≤ c.1) :
    memTake m a n = (List.range n).map fun i => memGet m (a + i) := by
  induction n generalizing m a with
  | zero => cases m <;> simp [memTake]
  | succ n ih =>
    have shift (f : Nat → Byte) : (List.range (n + 1)).map (fun i => f (a + i)) =
        f a :: (List.range n).map fun i => f (a + 1 + i) := by
      rw [List.range_succ_eq_map]
      simp only [List.map_cons, List.map_map, Nat.add_zero, List.cons.injEq, true_and]
      refine List.map_congr_left fun i _ => ?_
      simp only [Function.comp, Nat.succ_eq_add_one]
      congr 1
      omega
    rw [shift]
    cases m with
    | nil =>
      rw [memTake]
      simp [memGet, List.replicate_succ]
    | cons p r =>
      obtain ⟨y, v⟩ := p
      have hp := List.pairwise_cons.1 h
      have hya : a ≤ y := hlo (y, v) (List.mem_cons_self ..)
      have hr : ∀ c ∈ r, y < c.1 := fun c hc => hp.1 c hc
      rw [memTake]
      by_cases hy : y = a
      · subst hy
        rw [if_pos rfl, ih hp.2 _ fun c hc => hr c hc, memGet, if_pos rfl]
        congr 1
        refine List.map_congr_left fun i _ => ?_
        rw [memGet, if_neg (by omega), if_neg (by omega)]
      · rw [if_neg hy]
        have hl : ∀ c ∈ (y, v) :: r, a + 1 ≤ c.1 := by
          intro c hc
          rcases List.mem_cons.1 hc with rfl | hc
          · simp only
            omega
          · have := hr c hc
            omega
        rw [ih h _ hl, memGet, if_neg hy, if_pos (by omega)]

theorem dropWhile_rising {m : List Host.Cell} (h : Rising m) (a : Nat) :
    Rising (m.dropWhile (·.1 < a)) ∧ (∀ c ∈ m.dropWhile (·.1 < a), a ≤ c.1) ∧
      ∀ x v, a ≤ x → ((x, v) ∈ m.dropWhile (·.1 < a) ↔ (x, v) ∈ m) := by
  induction m with
  | nil => simp
  | cons p r ih =>
    obtain ⟨y, w⟩ := p
    have hp := List.pairwise_cons.1 h
    by_cases hy : y < a
    · have e : ((y, w) :: r).dropWhile (·.1 < a) = r.dropWhile (·.1 < a) := by simp [hy]
      rw [e]
      obtain ⟨h1, h2, h3⟩ := ih hp.2
      refine ⟨h1, h2, fun x v hx => ?_⟩
      rw [h3 x v hx, List.mem_cons, Prod.mk.injEq]
      constructor
      · exact .inr
      · rintro (⟨rfl, -⟩ | h)
        · omega
        · exact h
    · have e : ((y, w) :: r).dropWhile (·.1 < a) = (y, w) :: r := by simp [hy]
      rw [e]
      refine ⟨h, fun c hc => ?_, fun x v _ => Iff.rfl⟩
      rcases List.mem_cons.1 hc with rfl | hc
      · simp only
        omega
      · have := hp.1 c hc
        simp only at this
        omega

/-- A read of a run gives its bytes one by one. -/
theorem memRead_get {m : List Host.Cell} (h : Memory.wf m = true) (a n : Nat) :
    memRead m a n = (List.range n).map fun i => memGet m (a + i) := by
  rw [wf_iff] at h
  obtain ⟨h1, h2, h3⟩ := dropWhile_rising h.1 a
  rw [memRead, memTake_get h1 a n h2]
  refine List.map_congr_left fun i _ => ?_
  exact memGet_congr h1 h.1 fun v => h3 _ v (by omega)

/-- A read of what has just been written gives it back. -/
theorem read_write {s : State} (h : Memory.wf s.mem = true) (a : Nat) (bs : List Byte) :
    (s.write a bs).read a bs.length = bs := by
  have hw := write_wf h a bs
  rw [State.read, memRead_get hw]
  refine List.ext_getElem (by simp) fun i h1 h2 => ?_
  have := write_get h a bs (a + i)
  rw [State.byteAt] at this
  simp only [List.getElem_map, List.getElem_range]
  rw [this, if_pos (by omega)]
  simp [h2]

/-- A read outside a write's run gives what it gave before. -/
theorem read_frame {s : State} (h : Memory.wf s.mem = true) (a : Nat) (bs : List Byte) (b n : Nat)
    (hx : b + n ≤ a ∨ a + bs.length ≤ b) : (s.write a bs).read b n = s.read b n := by
  rw [State.read, State.read, memRead_get (write_wf h a bs), memRead_get h]
  refine List.map_congr_left fun i hi => ?_
  have := write_get h a bs (b + i)
  rw [State.byteAt, State.byteAt] at this
  rw [this, if_neg (by simp at hi; omega)]

end Sys2Proof.Laws.Memory
end

