-- ==== Sys2Proof/Laws/State.lean ====
section
/-! SUPPORT. Laws of the state: what each update leaves as it was, field by field, and what it puts in place. -/

namespace Sys2Proof.Machine.State

/-! ## Updates of a core touch no other field -/

@[simp] theorem setCore_now (s : State) (c : Nat) (k : Core) : (s.setCore c k).now = s.now := rfl
@[simp] theorem setCore_cyc (s : State) (c : Nat) (k : Core) : (s.setCore c k).cyc = s.cyc := rfl
@[simp] theorem setCore_mode (s : State) (c : Nat) (k : Core) : (s.setCore c k).mode = s.mode := rfl
@[simp] theorem setCore_timeOk (s : State) (c : Nat) (k : Core) : (s.setCore c k).timeOk = s.timeOk := rfl
@[simp] theorem setCore_hops (s : State) (c : Nat) (k : Core) : (s.setCore c k).hops = s.hops := rfl
@[simp] theorem setCore_parent (s : State) (c : Nat) (k : Core) : (s.setCore c k).parent = s.parent := rfl
@[simp] theorem setCore_children (s : State) (c : Nat) (k : Core) : (s.setCore c k).children = s.children := rfl
@[simp] theorem setCore_offset (s : State) (c : Nat) (k : Core) : (s.setCore c k).offset = s.offset := rfl
@[simp] theorem setCore_correction (s : State) (c : Nat) (k : Core) : (s.setCore c k).correction = s.correction := rfl
@[simp] theorem setCore_corrWait (s : State) (c : Nat) (k : Core) : (s.setCore c k).corrWait = s.corrWait := rfl
@[simp] theorem setCore_burgee (s : State) (c : Nat) (k : Core) : (s.setCore c k).burgee = s.burgee := rfl
@[simp] theorem setCore_epoch (s : State) (c : Nat) (k : Core) : (s.setCore c k).epoch = s.epoch := rfl
@[simp] theorem setCore_journal (s : State) (c : Nat) (k : Core) : (s.setCore c k).journal = s.journal := rfl
@[simp] theorem setCore_flash (s : State) (c : Nat) (k : Core) : (s.setCore c k).flash = s.flash := rfl
@[simp] theorem setCore_powerCap (s : State) (c : Nat) (k : Core) : (s.setCore c k).powerCap = s.powerCap := rfl
@[simp] theorem setCore_ncores (s : State) (c : Nat) (k : Core) : (s.setCore c k).ncores = s.ncores := rfl
@[simp] theorem setCore_coreMap (s : State) (c : Nat) (k : Core) : (s.setCore c k).coreMap = s.coreMap := rfl
@[simp] theorem setCore_remap (s : State) (c : Nat) (k : Core) : (s.setCore c k).remap = s.remap := rfl
@[simp] theorem setCore_damage (s : State) (c : Nat) (k : Core) : (s.setCore c k).damage = s.damage := rfl
@[simp] theorem setCore_deadPackage (s : State) (c : Nat) (k : Core) : (s.setCore c k).deadPackage = s.deadPackage := rfl
@[simp] theorem setCore_faultLog (s : State) (c : Nat) (k : Core) : (s.setCore c k).faultLog = s.faultLog := rfl
@[simp] theorem setCore_found (s : State) (c : Nat) (k : Core) : (s.setCore c k).found = s.found := rfl
@[simp] theorem setCore_errors (s : State) (c : Nat) (k : Core) : (s.setCore c k).errors = s.errors := rfl
@[simp] theorem setCore_corrected (s : State) (c : Nat) (k : Core) : (s.setCore c k).corrected = s.corrected := rfl
@[simp] theorem setCore_tooHot (s : State) (c : Nat) (k : Core) : (s.setCore c k).tooHot = s.tooHot := rfl
@[simp] theorem setCore_tooLow (s : State) (c : Nat) (k : Core) : (s.setCore c k).tooLow = s.tooLow := rfl
@[simp] theorem setCore_thermalAt (s : State) (c : Nat) (k : Core) : (s.setCore c k).thermalAt = s.thermalAt := rfl
@[simp] theorem setCore_channelTemp (s : State) (c : Nat) (k : Core) : (s.setCore c k).channelTemp = s.channelTemp := rfl
@[simp] theorem setCore_hotChannels (s : State) (c : Nat) (k : Core) : (s.setCore c k).hotChannels = s.hotChannels := rfl
@[simp] theorem setCore_retired (s : State) (c : Nat) (k : Core) : (s.setCore c k).retired = s.retired := rfl
@[simp] theorem setCore_safeReady (s : State) (c : Nat) (k : Core) : (s.setCore c k).safeReady = s.safeReady := rfl
@[simp] theorem setCore_commits (s : State) (c : Nat) (k : Core) : (s.setCore c k).commits = s.commits := rfl
@[simp] theorem setCore_base (s : State) (c : Nat) (k : Core) : (s.setCore c k).base = s.base := rfl
@[simp] theorem setCore_delta (s : State) (c : Nat) (k : Core) : (s.setCore c k).delta = s.delta := rfl
@[simp] theorem setCore_baseArea (s : State) (c : Nat) (k : Core) : (s.setCore c k).baseArea = s.baseArea := rfl
@[simp] theorem setCore_deltaArea (s : State) (c : Nat) (k : Core) : (s.setCore c k).deltaArea = s.deltaArea := rfl
@[simp] theorem setCore_logArea (s : State) (c : Nat) (k : Core) : (s.setCore c k).logArea = s.logArea := rfl
@[simp] theorem setCore_folding (s : State) (c : Nat) (k : Core) : (s.setCore c k).folding = s.folding := rfl
@[simp] theorem setCore_ckpt (s : State) (c : Nat) (k : Core) : (s.setCore c k).ckpt = s.ckpt := rfl
@[simp] theorem setCore_cycMark (s : State) (c : Nat) (k : Core) : (s.setCore c k).cycMark = s.cycMark := rfl
@[simp] theorem setCore_ageCounter (s : State) (c : Nat) (k : Core) : (s.setCore c k).ageCounter = s.ageCounter := rfl
@[simp] theorem setCore_seq (s : State) (c : Nat) (k : Core) : (s.setCore c k).seq = s.seq := rfl
@[simp] theorem setCore_sessions (s : State) (c : Nat) (k : Core) : (s.setCore c k).sessions = s.sessions := rfl
@[simp] theorem setCore_handles (s : State) (c : Nat) (k : Core) : (s.setCore c k).handles = s.handles := rfl
@[simp] theorem setCore_tables (s : State) (c : Nat) (k : Core) : (s.setCore c k).tables = s.tables := rfl
@[simp] theorem setCore_launches (s : State) (c : Nat) (k : Core) : (s.setCore c k).launches = s.launches := rfl
@[simp] theorem setCore_strands (s : State) (c : Nat) (k : Core) : (s.setCore c k).strands = s.strands := rfl
@[simp] theorem setCore_crews (s : State) (c : Nat) (k : Core) : (s.setCore c k).crews = s.crews := rfl
@[simp] theorem setCore_pageHeat (s : State) (c : Nat) (k : Core) : (s.setCore c k).pageHeat = s.pageHeat := rfl
@[simp] theorem setCore_regionHeat (s : State) (c : Nat) (k : Core) : (s.setCore c k).regionHeat = s.regionHeat := rfl
@[simp] theorem setCore_regionTier (s : State) (c : Nat) (k : Core) : (s.setCore c k).regionTier = s.regionTier := rfl
@[simp] theorem setCore_exchanges (s : State) (c : Nat) (k : Core) : (s.setCore c k).exchanges = s.exchanges := rfl
@[simp] theorem setCore_swapped (s : State) (c : Nat) (k : Core) : (s.setCore c k).swapped = s.swapped := rfl
@[simp] theorem setCore_recvQueues (s : State) (c : Nat) (k : Core) : (s.setCore c k).recvQueues = s.recvQueues := rfl
@[simp] theorem setCore_credits (s : State) (c : Nat) (k : Core) : (s.setCore c k).credits = s.credits := rfl
@[simp] theorem setCore_requests (s : State) (c : Nat) (k : Core) : (s.setCore c k).requests = s.requests := rfl
@[simp] theorem setCore_dirty (s : State) (c : Nat) (k : Core) : (s.setCore c k).dirty = s.dirty := rfl
@[simp] theorem setCore_logged (s : State) (c : Nat) (k : Core) : (s.setCore c k).logged = s.logged := rfl
@[simp] theorem setCore_units (s : State) (c : Nat) (k : Core) : (s.setCore c k).units = s.units := rfl
@[simp] theorem setCore_stackLimit (s : State) (c : Nat) (k : Core) : (s.setCore c k).stackLimit = s.stackLimit := rfl
@[simp] theorem setCore_waves (s : State) (c : Nat) (k : Core) : (s.setCore c k).waves = s.waves := rfl
@[simp] theorem setCore_links (s : State) (c : Nat) (k : Core) : (s.setCore c k).links = s.links := rfl
@[simp] theorem setCore_ports (s : State) (c : Nat) (k : Core) : (s.setCore c k).ports = s.ports := rfl
@[simp] theorem setCore_mem (s : State) (c : Nat) (k : Core) : (s.setCore c k).mem = s.mem := rfl
@[simp] theorem setCore_sent (s : State) (c : Nat) (k : Core) : (s.setCore c k).sent = s.sent := rfl
@[simp] theorem setCore_agenda (s : State) (c : Nat) (k : Core) : (s.setCore c k).agenda = s.agenda := rfl
@[simp] theorem setCore_arrivals (s : State) (c : Nat) (k : Core) : (s.setCore c k).arrivals = s.arrivals := rfl
@[simp] theorem setCore_inbound (s : State) (c : Nat) (k : Core) : (s.setCore c k).inbound = s.inbound := rfl
@[simp] theorem setCore_bankQueue (s : State) (c : Nat) (k : Core) : (s.setCore c k).bankQueue = s.bankQueue := rfl
@[simp] theorem setCore_bankHeld (s : State) (c : Nat) (k : Core) : (s.setCore c k).bankHeld = s.bankHeld := rfl
@[simp] theorem setCore_lateWrites (s : State) (c : Nat) (k : Core) : (s.setCore c k).lateWrites = s.lateWrites := rfl
@[simp] theorem setCore_arg (s : State) (c : Nat) (k : Core) : (s.setCore c k).arg = s.arg := rfl
@[simp] theorem setCore_curCore (s : State) (c : Nat) (k : Core) : (s.setCore c k).curCore = s.curCore := rfl
@[simp] theorem setCore_curCtx (s : State) (c : Nat) (k : Core) : (s.setCore c k).curCtx = s.curCtx := rfl
@[simp] theorem setCore_curSlot (s : State) (c : Nat) (k : Core) : (s.setCore c k).curSlot = s.curSlot := rfl
@[simp] theorem setCore_curChan (s : State) (c : Nat) (k : Core) : (s.setCore c k).curChan = s.curChan := rfl
@[simp] theorem setCore_ext (s : State) (c : Nat) (k : Core) : (s.setCore c k).ext = s.ext := rfl
@[simp] theorem setCore_drawn (s : State) (c : Nat) (k : Core) : (s.setCore c k).drawn = s.drawn := rfl

@[simp] theorem modCore_now (s : State) (c : Nat) (f : Core → Core) : (s.modCore c f).now = s.now := rfl
@[simp] theorem modCore_cyc (s : State) (c : Nat) (f : Core → Core) : (s.modCore c f).cyc = s.cyc := rfl
@[simp] theorem modCore_mode (s : State) (c : Nat) (f : Core → Core) : (s.modCore c f).mode = s.mode := rfl
@[simp] theorem modCore_timeOk (s : State) (c : Nat) (f : Core → Core) : (s.modCore c f).timeOk = s.timeOk := rfl
@[simp] theorem modCore_hops (s : State) (c : Nat) (f : Core → Core) : (s.modCore c f).hops = s.hops := rfl
@[simp] theorem modCore_parent (s : State) (c : Nat) (f : Core → Core) : (s.modCore c f).parent = s.parent := rfl
@[simp] theorem modCore_children (s : State) (c : Nat) (f : Core → Core) : (s.modCore c f).children = s.children := rfl
@[simp] theorem modCore_offset (s : State) (c : Nat) (f : Core → Core) : (s.modCore c f).offset = s.offset := rfl
@[simp] theorem modCore_correction (s : State) (c : Nat) (f : Core → Core) : (s.modCore c f).correction = s.correction := rfl
@[simp] theorem modCore_corrWait (s : State) (c : Nat) (f : Core → Core) : (s.modCore c f).corrWait = s.corrWait := rfl
@[simp] theorem modCore_burgee (s : State) (c : Nat) (f : Core → Core) : (s.modCore c f).burgee = s.burgee := rfl
@[simp] theorem modCore_epoch (s : State) (c : Nat) (f : Core → Core) : (s.modCore c f).epoch = s.epoch := rfl
@[simp] theorem modCore_journal (s : State) (c : Nat) (f : Core → Core) : (s.modCore c f).journal = s.journal := rfl
@[simp] theorem modCore_flash (s : State) (c : Nat) (f : Core → Core) : (s.modCore c f).flash = s.flash := rfl
@[simp] theorem modCore_powerCap (s : State) (c : Nat) (f : Core → Core) : (s.modCore c f).powerCap = s.powerCap := rfl
@[simp] theorem modCore_ncores (s : State) (c : Nat) (f : Core → Core) : (s.modCore c f).ncores = s.ncores := rfl
@[simp] theorem modCore_coreMap (s : State) (c : Nat) (f : Core → Core) : (s.modCore c f).coreMap = s.coreMap := rfl
@[simp] theorem modCore_remap (s : State) (c : Nat) (f : Core → Core) : (s.modCore c f).remap = s.remap := rfl
@[simp] theorem modCore_damage (s : State) (c : Nat) (f : Core → Core) : (s.modCore c f).damage = s.damage := rfl
@[simp] theorem modCore_deadPackage (s : State) (c : Nat) (f : Core → Core) : (s.modCore c f).deadPackage = s.deadPackage := rfl
@[simp] theorem modCore_faultLog (s : State) (c : Nat) (f : Core → Core) : (s.modCore c f).faultLog = s.faultLog := rfl
@[simp] theorem modCore_found (s : State) (c : Nat) (f : Core → Core) : (s.modCore c f).found = s.found := rfl
@[simp] theorem modCore_errors (s : State) (c : Nat) (f : Core → Core) : (s.modCore c f).errors = s.errors := rfl
@[simp] theorem modCore_corrected (s : State) (c : Nat) (f : Core → Core) : (s.modCore c f).corrected = s.corrected := rfl
@[simp] theorem modCore_tooHot (s : State) (c : Nat) (f : Core → Core) : (s.modCore c f).tooHot = s.tooHot := rfl
@[simp] theorem modCore_tooLow (s : State) (c : Nat) (f : Core → Core) : (s.modCore c f).tooLow = s.tooLow := rfl
@[simp] theorem modCore_thermalAt (s : State) (c : Nat) (f : Core → Core) : (s.modCore c f).thermalAt = s.thermalAt := rfl
@[simp] theorem modCore_channelTemp (s : State) (c : Nat) (f : Core → Core) : (s.modCore c f).channelTemp = s.channelTemp := rfl
@[simp] theorem modCore_hotChannels (s : State) (c : Nat) (f : Core → Core) : (s.modCore c f).hotChannels = s.hotChannels := rfl
@[simp] theorem modCore_retired (s : State) (c : Nat) (f : Core → Core) : (s.modCore c f).retired = s.retired := rfl
@[simp] theorem modCore_safeReady (s : State) (c : Nat) (f : Core → Core) : (s.modCore c f).safeReady = s.safeReady := rfl
@[simp] theorem modCore_commits (s : State) (c : Nat) (f : Core → Core) : (s.modCore c f).commits = s.commits := rfl
@[simp] theorem modCore_base (s : State) (c : Nat) (f : Core → Core) : (s.modCore c f).base = s.base := rfl
@[simp] theorem modCore_delta (s : State) (c : Nat) (f : Core → Core) : (s.modCore c f).delta = s.delta := rfl
@[simp] theorem modCore_baseArea (s : State) (c : Nat) (f : Core → Core) : (s.modCore c f).baseArea = s.baseArea := rfl
@[simp] theorem modCore_deltaArea (s : State) (c : Nat) (f : Core → Core) : (s.modCore c f).deltaArea = s.deltaArea := rfl
@[simp] theorem modCore_logArea (s : State) (c : Nat) (f : Core → Core) : (s.modCore c f).logArea = s.logArea := rfl
@[simp] theorem modCore_folding (s : State) (c : Nat) (f : Core → Core) : (s.modCore c f).folding = s.folding := rfl
@[simp] theorem modCore_ckpt (s : State) (c : Nat) (f : Core → Core) : (s.modCore c f).ckpt = s.ckpt := rfl
@[simp] theorem modCore_cycMark (s : State) (c : Nat) (f : Core → Core) : (s.modCore c f).cycMark = s.cycMark := rfl
@[simp] theorem modCore_ageCounter (s : State) (c : Nat) (f : Core → Core) : (s.modCore c f).ageCounter = s.ageCounter := rfl
@[simp] theorem modCore_seq (s : State) (c : Nat) (f : Core → Core) : (s.modCore c f).seq = s.seq := rfl
@[simp] theorem modCore_sessions (s : State) (c : Nat) (f : Core → Core) : (s.modCore c f).sessions = s.sessions := rfl
@[simp] theorem modCore_handles (s : State) (c : Nat) (f : Core → Core) : (s.modCore c f).handles = s.handles := rfl
@[simp] theorem modCore_tables (s : State) (c : Nat) (f : Core → Core) : (s.modCore c f).tables = s.tables := rfl
@[simp] theorem modCore_launches (s : State) (c : Nat) (f : Core → Core) : (s.modCore c f).launches = s.launches := rfl
@[simp] theorem modCore_strands (s : State) (c : Nat) (f : Core → Core) : (s.modCore c f).strands = s.strands := rfl
@[simp] theorem modCore_crews (s : State) (c : Nat) (f : Core → Core) : (s.modCore c f).crews = s.crews := rfl
@[simp] theorem modCore_pageHeat (s : State) (c : Nat) (f : Core → Core) : (s.modCore c f).pageHeat = s.pageHeat := rfl
@[simp] theorem modCore_regionHeat (s : State) (c : Nat) (f : Core → Core) : (s.modCore c f).regionHeat = s.regionHeat := rfl
@[simp] theorem modCore_regionTier (s : State) (c : Nat) (f : Core → Core) : (s.modCore c f).regionTier = s.regionTier := rfl
@[simp] theorem modCore_exchanges (s : State) (c : Nat) (f : Core → Core) : (s.modCore c f).exchanges = s.exchanges := rfl
@[simp] theorem modCore_swapped (s : State) (c : Nat) (f : Core → Core) : (s.modCore c f).swapped = s.swapped := rfl
@[simp] theorem modCore_recvQueues (s : State) (c : Nat) (f : Core → Core) : (s.modCore c f).recvQueues = s.recvQueues := rfl
@[simp] theorem modCore_credits (s : State) (c : Nat) (f : Core → Core) : (s.modCore c f).credits = s.credits := rfl
@[simp] theorem modCore_requests (s : State) (c : Nat) (f : Core → Core) : (s.modCore c f).requests = s.requests := rfl
@[simp] theorem modCore_dirty (s : State) (c : Nat) (f : Core → Core) : (s.modCore c f).dirty = s.dirty := rfl
@[simp] theorem modCore_logged (s : State) (c : Nat) (f : Core → Core) : (s.modCore c f).logged = s.logged := rfl
@[simp] theorem modCore_units (s : State) (c : Nat) (f : Core → Core) : (s.modCore c f).units = s.units := rfl
@[simp] theorem modCore_stackLimit (s : State) (c : Nat) (f : Core → Core) : (s.modCore c f).stackLimit = s.stackLimit := rfl
@[simp] theorem modCore_waves (s : State) (c : Nat) (f : Core → Core) : (s.modCore c f).waves = s.waves := rfl
@[simp] theorem modCore_links (s : State) (c : Nat) (f : Core → Core) : (s.modCore c f).links = s.links := rfl
@[simp] theorem modCore_ports (s : State) (c : Nat) (f : Core → Core) : (s.modCore c f).ports = s.ports := rfl
@[simp] theorem modCore_mem (s : State) (c : Nat) (f : Core → Core) : (s.modCore c f).mem = s.mem := rfl
@[simp] theorem modCore_sent (s : State) (c : Nat) (f : Core → Core) : (s.modCore c f).sent = s.sent := rfl
@[simp] theorem modCore_agenda (s : State) (c : Nat) (f : Core → Core) : (s.modCore c f).agenda = s.agenda := rfl
@[simp] theorem modCore_arrivals (s : State) (c : Nat) (f : Core → Core) : (s.modCore c f).arrivals = s.arrivals := rfl
@[simp] theorem modCore_inbound (s : State) (c : Nat) (f : Core → Core) : (s.modCore c f).inbound = s.inbound := rfl
@[simp] theorem modCore_bankQueue (s : State) (c : Nat) (f : Core → Core) : (s.modCore c f).bankQueue = s.bankQueue := rfl
@[simp] theorem modCore_bankHeld (s : State) (c : Nat) (f : Core → Core) : (s.modCore c f).bankHeld = s.bankHeld := rfl
@[simp] theorem modCore_lateWrites (s : State) (c : Nat) (f : Core → Core) : (s.modCore c f).lateWrites = s.lateWrites := rfl
@[simp] theorem modCore_arg (s : State) (c : Nat) (f : Core → Core) : (s.modCore c f).arg = s.arg := rfl
@[simp] theorem modCore_curCore (s : State) (c : Nat) (f : Core → Core) : (s.modCore c f).curCore = s.curCore := rfl
@[simp] theorem modCore_curCtx (s : State) (c : Nat) (f : Core → Core) : (s.modCore c f).curCtx = s.curCtx := rfl
@[simp] theorem modCore_curSlot (s : State) (c : Nat) (f : Core → Core) : (s.modCore c f).curSlot = s.curSlot := rfl
@[simp] theorem modCore_curChan (s : State) (c : Nat) (f : Core → Core) : (s.modCore c f).curChan = s.curChan := rfl
@[simp] theorem modCore_ext (s : State) (c : Nat) (f : Core → Core) : (s.modCore c f).ext = s.ext := rfl
@[simp] theorem modCore_drawn (s : State) (c : Nat) (f : Core → Core) : (s.modCore c f).drawn = s.drawn := rfl

/-! ## Updates of the context in hand -/

@[simp] theorem setCtx_now (s : State) (c x : Nat) (t : Ctx) : (s.setCtx c x t).now = s.now := rfl
@[simp] theorem setCtx_cyc (s : State) (c x : Nat) (t : Ctx) : (s.setCtx c x t).cyc = s.cyc := rfl
@[simp] theorem setCtx_mode (s : State) (c x : Nat) (t : Ctx) : (s.setCtx c x t).mode = s.mode := rfl
@[simp] theorem setCtx_timeOk (s : State) (c x : Nat) (t : Ctx) : (s.setCtx c x t).timeOk = s.timeOk := rfl
@[simp] theorem setCtx_hops (s : State) (c x : Nat) (t : Ctx) : (s.setCtx c x t).hops = s.hops := rfl
@[simp] theorem setCtx_parent (s : State) (c x : Nat) (t : Ctx) : (s.setCtx c x t).parent = s.parent := rfl
@[simp] theorem setCtx_children (s : State) (c x : Nat) (t : Ctx) : (s.setCtx c x t).children = s.children := rfl
@[simp] theorem setCtx_offset (s : State) (c x : Nat) (t : Ctx) : (s.setCtx c x t).offset = s.offset := rfl
@[simp] theorem setCtx_correction (s : State) (c x : Nat) (t : Ctx) : (s.setCtx c x t).correction = s.correction := rfl
@[simp] theorem setCtx_corrWait (s : State) (c x : Nat) (t : Ctx) : (s.setCtx c x t).corrWait = s.corrWait := rfl
@[simp] theorem setCtx_burgee (s : State) (c x : Nat) (t : Ctx) : (s.setCtx c x t).burgee = s.burgee := rfl
@[simp] theorem setCtx_epoch (s : State) (c x : Nat) (t : Ctx) : (s.setCtx c x t).epoch = s.epoch := rfl
@[simp] theorem setCtx_journal (s : State) (c x : Nat) (t : Ctx) : (s.setCtx c x t).journal = s.journal := rfl
@[simp] theorem setCtx_flash (s : State) (c x : Nat) (t : Ctx) : (s.setCtx c x t).flash = s.flash := rfl
@[simp] theorem setCtx_powerCap (s : State) (c x : Nat) (t : Ctx) : (s.setCtx c x t).powerCap = s.powerCap := rfl
@[simp] theorem setCtx_ncores (s : State) (c x : Nat) (t : Ctx) : (s.setCtx c x t).ncores = s.ncores := rfl
@[simp] theorem setCtx_coreMap (s : State) (c x : Nat) (t : Ctx) : (s.setCtx c x t).coreMap = s.coreMap := rfl
@[simp] theorem setCtx_remap (s : State) (c x : Nat) (t : Ctx) : (s.setCtx c x t).remap = s.remap := rfl
@[simp] theorem setCtx_damage (s : State) (c x : Nat) (t : Ctx) : (s.setCtx c x t).damage = s.damage := rfl
@[simp] theorem setCtx_deadPackage (s : State) (c x : Nat) (t : Ctx) : (s.setCtx c x t).deadPackage = s.deadPackage := rfl
@[simp] theorem setCtx_faultLog (s : State) (c x : Nat) (t : Ctx) : (s.setCtx c x t).faultLog = s.faultLog := rfl
@[simp] theorem setCtx_found (s : State) (c x : Nat) (t : Ctx) : (s.setCtx c x t).found = s.found := rfl
@[simp] theorem setCtx_errors (s : State) (c x : Nat) (t : Ctx) : (s.setCtx c x t).errors = s.errors := rfl
@[simp] theorem setCtx_corrected (s : State) (c x : Nat) (t : Ctx) : (s.setCtx c x t).corrected = s.corrected := rfl
@[simp] theorem setCtx_tooHot (s : State) (c x : Nat) (t : Ctx) : (s.setCtx c x t).tooHot = s.tooHot := rfl
@[simp] theorem setCtx_tooLow (s : State) (c x : Nat) (t : Ctx) : (s.setCtx c x t).tooLow = s.tooLow := rfl
@[simp] theorem setCtx_thermalAt (s : State) (c x : Nat) (t : Ctx) : (s.setCtx c x t).thermalAt = s.thermalAt := rfl
@[simp] theorem setCtx_channelTemp (s : State) (c x : Nat) (t : Ctx) : (s.setCtx c x t).channelTemp = s.channelTemp := rfl
@[simp] theorem setCtx_hotChannels (s : State) (c x : Nat) (t : Ctx) : (s.setCtx c x t).hotChannels = s.hotChannels := rfl
@[simp] theorem setCtx_retired (s : State) (c x : Nat) (t : Ctx) : (s.setCtx c x t).retired = s.retired := rfl
@[simp] theorem setCtx_safeReady (s : State) (c x : Nat) (t : Ctx) : (s.setCtx c x t).safeReady = s.safeReady := rfl
@[simp] theorem setCtx_commits (s : State) (c x : Nat) (t : Ctx) : (s.setCtx c x t).commits = s.commits := rfl
@[simp] theorem setCtx_base (s : State) (c x : Nat) (t : Ctx) : (s.setCtx c x t).base = s.base := rfl
@[simp] theorem setCtx_delta (s : State) (c x : Nat) (t : Ctx) : (s.setCtx c x t).delta = s.delta := rfl
@[simp] theorem setCtx_baseArea (s : State) (c x : Nat) (t : Ctx) : (s.setCtx c x t).baseArea = s.baseArea := rfl
@[simp] theorem setCtx_deltaArea (s : State) (c x : Nat) (t : Ctx) : (s.setCtx c x t).deltaArea = s.deltaArea := rfl
@[simp] theorem setCtx_logArea (s : State) (c x : Nat) (t : Ctx) : (s.setCtx c x t).logArea = s.logArea := rfl
@[simp] theorem setCtx_folding (s : State) (c x : Nat) (t : Ctx) : (s.setCtx c x t).folding = s.folding := rfl
@[simp] theorem setCtx_ckpt (s : State) (c x : Nat) (t : Ctx) : (s.setCtx c x t).ckpt = s.ckpt := rfl
@[simp] theorem setCtx_cycMark (s : State) (c x : Nat) (t : Ctx) : (s.setCtx c x t).cycMark = s.cycMark := rfl
@[simp] theorem setCtx_ageCounter (s : State) (c x : Nat) (t : Ctx) : (s.setCtx c x t).ageCounter = s.ageCounter := rfl
@[simp] theorem setCtx_seq (s : State) (c x : Nat) (t : Ctx) : (s.setCtx c x t).seq = s.seq := rfl
@[simp] theorem setCtx_sessions (s : State) (c x : Nat) (t : Ctx) : (s.setCtx c x t).sessions = s.sessions := rfl
@[simp] theorem setCtx_handles (s : State) (c x : Nat) (t : Ctx) : (s.setCtx c x t).handles = s.handles := rfl
@[simp] theorem setCtx_tables (s : State) (c x : Nat) (t : Ctx) : (s.setCtx c x t).tables = s.tables := rfl
@[simp] theorem setCtx_launches (s : State) (c x : Nat) (t : Ctx) : (s.setCtx c x t).launches = s.launches := rfl
@[simp] theorem setCtx_strands (s : State) (c x : Nat) (t : Ctx) : (s.setCtx c x t).strands = s.strands := rfl
@[simp] theorem setCtx_crews (s : State) (c x : Nat) (t : Ctx) : (s.setCtx c x t).crews = s.crews := rfl
@[simp] theorem setCtx_pageHeat (s : State) (c x : Nat) (t : Ctx) : (s.setCtx c x t).pageHeat = s.pageHeat := rfl
@[simp] theorem setCtx_regionHeat (s : State) (c x : Nat) (t : Ctx) : (s.setCtx c x t).regionHeat = s.regionHeat := rfl
@[simp] theorem setCtx_regionTier (s : State) (c x : Nat) (t : Ctx) : (s.setCtx c x t).regionTier = s.regionTier := rfl
@[simp] theorem setCtx_exchanges (s : State) (c x : Nat) (t : Ctx) : (s.setCtx c x t).exchanges = s.exchanges := rfl
@[simp] theorem setCtx_swapped (s : State) (c x : Nat) (t : Ctx) : (s.setCtx c x t).swapped = s.swapped := rfl
@[simp] theorem setCtx_recvQueues (s : State) (c x : Nat) (t : Ctx) : (s.setCtx c x t).recvQueues = s.recvQueues := rfl
@[simp] theorem setCtx_credits (s : State) (c x : Nat) (t : Ctx) : (s.setCtx c x t).credits = s.credits := rfl
@[simp] theorem setCtx_requests (s : State) (c x : Nat) (t : Ctx) : (s.setCtx c x t).requests = s.requests := rfl
@[simp] theorem setCtx_dirty (s : State) (c x : Nat) (t : Ctx) : (s.setCtx c x t).dirty = s.dirty := rfl
@[simp] theorem setCtx_logged (s : State) (c x : Nat) (t : Ctx) : (s.setCtx c x t).logged = s.logged := rfl
@[simp] theorem setCtx_units (s : State) (c x : Nat) (t : Ctx) : (s.setCtx c x t).units = s.units := rfl
@[simp] theorem setCtx_stackLimit (s : State) (c x : Nat) (t : Ctx) : (s.setCtx c x t).stackLimit = s.stackLimit := rfl
@[simp] theorem setCtx_waves (s : State) (c x : Nat) (t : Ctx) : (s.setCtx c x t).waves = s.waves := rfl
@[simp] theorem setCtx_links (s : State) (c x : Nat) (t : Ctx) : (s.setCtx c x t).links = s.links := rfl
@[simp] theorem setCtx_ports (s : State) (c x : Nat) (t : Ctx) : (s.setCtx c x t).ports = s.ports := rfl
@[simp] theorem setCtx_mem (s : State) (c x : Nat) (t : Ctx) : (s.setCtx c x t).mem = s.mem := rfl
@[simp] theorem setCtx_sent (s : State) (c x : Nat) (t : Ctx) : (s.setCtx c x t).sent = s.sent := rfl
@[simp] theorem setCtx_agenda (s : State) (c x : Nat) (t : Ctx) : (s.setCtx c x t).agenda = s.agenda := rfl
@[simp] theorem setCtx_arrivals (s : State) (c x : Nat) (t : Ctx) : (s.setCtx c x t).arrivals = s.arrivals := rfl
@[simp] theorem setCtx_inbound (s : State) (c x : Nat) (t : Ctx) : (s.setCtx c x t).inbound = s.inbound := rfl
@[simp] theorem setCtx_bankQueue (s : State) (c x : Nat) (t : Ctx) : (s.setCtx c x t).bankQueue = s.bankQueue := rfl
@[simp] theorem setCtx_bankHeld (s : State) (c x : Nat) (t : Ctx) : (s.setCtx c x t).bankHeld = s.bankHeld := rfl
@[simp] theorem setCtx_lateWrites (s : State) (c x : Nat) (t : Ctx) : (s.setCtx c x t).lateWrites = s.lateWrites := rfl
@[simp] theorem setCtx_arg (s : State) (c x : Nat) (t : Ctx) : (s.setCtx c x t).arg = s.arg := rfl
@[simp] theorem setCtx_curCore (s : State) (c x : Nat) (t : Ctx) : (s.setCtx c x t).curCore = s.curCore := rfl
@[simp] theorem setCtx_curCtx (s : State) (c x : Nat) (t : Ctx) : (s.setCtx c x t).curCtx = s.curCtx := rfl
@[simp] theorem setCtx_curSlot (s : State) (c x : Nat) (t : Ctx) : (s.setCtx c x t).curSlot = s.curSlot := rfl
@[simp] theorem setCtx_curChan (s : State) (c x : Nat) (t : Ctx) : (s.setCtx c x t).curChan = s.curChan := rfl
@[simp] theorem setCtx_ext (s : State) (c x : Nat) (t : Ctx) : (s.setCtx c x t).ext = s.ext := rfl
@[simp] theorem setCtx_drawn (s : State) (c x : Nat) (t : Ctx) : (s.setCtx c x t).drawn = s.drawn := rfl

@[simp] theorem modCur_now (s : State) (f : Ctx → Ctx) : (s.modCur f).now = s.now := rfl
@[simp] theorem modCur_cyc (s : State) (f : Ctx → Ctx) : (s.modCur f).cyc = s.cyc := rfl
@[simp] theorem modCur_mode (s : State) (f : Ctx → Ctx) : (s.modCur f).mode = s.mode := rfl
@[simp] theorem modCur_timeOk (s : State) (f : Ctx → Ctx) : (s.modCur f).timeOk = s.timeOk := rfl
@[simp] theorem modCur_hops (s : State) (f : Ctx → Ctx) : (s.modCur f).hops = s.hops := rfl
@[simp] theorem modCur_parent (s : State) (f : Ctx → Ctx) : (s.modCur f).parent = s.parent := rfl
@[simp] theorem modCur_children (s : State) (f : Ctx → Ctx) : (s.modCur f).children = s.children := rfl
@[simp] theorem modCur_offset (s : State) (f : Ctx → Ctx) : (s.modCur f).offset = s.offset := rfl
@[simp] theorem modCur_correction (s : State) (f : Ctx → Ctx) : (s.modCur f).correction = s.correction := rfl
@[simp] theorem modCur_corrWait (s : State) (f : Ctx → Ctx) : (s.modCur f).corrWait = s.corrWait := rfl
@[simp] theorem modCur_burgee (s : State) (f : Ctx → Ctx) : (s.modCur f).burgee = s.burgee := rfl
@[simp] theorem modCur_epoch (s : State) (f : Ctx → Ctx) : (s.modCur f).epoch = s.epoch := rfl
@[simp] theorem modCur_journal (s : State) (f : Ctx → Ctx) : (s.modCur f).journal = s.journal := rfl
@[simp] theorem modCur_flash (s : State) (f : Ctx → Ctx) : (s.modCur f).flash = s.flash := rfl
@[simp] theorem modCur_powerCap (s : State) (f : Ctx → Ctx) : (s.modCur f).powerCap = s.powerCap := rfl
@[simp] theorem modCur_ncores (s : State) (f : Ctx → Ctx) : (s.modCur f).ncores = s.ncores := rfl
@[simp] theorem modCur_coreMap (s : State) (f : Ctx → Ctx) : (s.modCur f).coreMap = s.coreMap := rfl
@[simp] theorem modCur_remap (s : State) (f : Ctx → Ctx) : (s.modCur f).remap = s.remap := rfl
@[simp] theorem modCur_damage (s : State) (f : Ctx → Ctx) : (s.modCur f).damage = s.damage := rfl
@[simp] theorem modCur_deadPackage (s : State) (f : Ctx → Ctx) : (s.modCur f).deadPackage = s.deadPackage := rfl
@[simp] theorem modCur_faultLog (s : State) (f : Ctx → Ctx) : (s.modCur f).faultLog = s.faultLog := rfl
@[simp] theorem modCur_found (s : State) (f : Ctx → Ctx) : (s.modCur f).found = s.found := rfl
@[simp] theorem modCur_errors (s : State) (f : Ctx → Ctx) : (s.modCur f).errors = s.errors := rfl
@[simp] theorem modCur_corrected (s : State) (f : Ctx → Ctx) : (s.modCur f).corrected = s.corrected := rfl
@[simp] theorem modCur_tooHot (s : State) (f : Ctx → Ctx) : (s.modCur f).tooHot = s.tooHot := rfl
@[simp] theorem modCur_tooLow (s : State) (f : Ctx → Ctx) : (s.modCur f).tooLow = s.tooLow := rfl
@[simp] theorem modCur_thermalAt (s : State) (f : Ctx → Ctx) : (s.modCur f).thermalAt = s.thermalAt := rfl
@[simp] theorem modCur_channelTemp (s : State) (f : Ctx → Ctx) : (s.modCur f).channelTemp = s.channelTemp := rfl
@[simp] theorem modCur_hotChannels (s : State) (f : Ctx → Ctx) : (s.modCur f).hotChannels = s.hotChannels := rfl
@[simp] theorem modCur_retired (s : State) (f : Ctx → Ctx) : (s.modCur f).retired = s.retired := rfl
@[simp] theorem modCur_safeReady (s : State) (f : Ctx → Ctx) : (s.modCur f).safeReady = s.safeReady := rfl
@[simp] theorem modCur_commits (s : State) (f : Ctx → Ctx) : (s.modCur f).commits = s.commits := rfl
@[simp] theorem modCur_base (s : State) (f : Ctx → Ctx) : (s.modCur f).base = s.base := rfl
@[simp] theorem modCur_delta (s : State) (f : Ctx → Ctx) : (s.modCur f).delta = s.delta := rfl
@[simp] theorem modCur_baseArea (s : State) (f : Ctx → Ctx) : (s.modCur f).baseArea = s.baseArea := rfl
@[simp] theorem modCur_deltaArea (s : State) (f : Ctx → Ctx) : (s.modCur f).deltaArea = s.deltaArea := rfl
@[simp] theorem modCur_logArea (s : State) (f : Ctx → Ctx) : (s.modCur f).logArea = s.logArea := rfl
@[simp] theorem modCur_folding (s : State) (f : Ctx → Ctx) : (s.modCur f).folding = s.folding := rfl
@[simp] theorem modCur_ckpt (s : State) (f : Ctx → Ctx) : (s.modCur f).ckpt = s.ckpt := rfl
@[simp] theorem modCur_cycMark (s : State) (f : Ctx → Ctx) : (s.modCur f).cycMark = s.cycMark := rfl
@[simp] theorem modCur_ageCounter (s : State) (f : Ctx → Ctx) : (s.modCur f).ageCounter = s.ageCounter := rfl
@[simp] theorem modCur_seq (s : State) (f : Ctx → Ctx) : (s.modCur f).seq = s.seq := rfl
@[simp] theorem modCur_sessions (s : State) (f : Ctx → Ctx) : (s.modCur f).sessions = s.sessions := rfl
@[simp] theorem modCur_handles (s : State) (f : Ctx → Ctx) : (s.modCur f).handles = s.handles := rfl
@[simp] theorem modCur_tables (s : State) (f : Ctx → Ctx) : (s.modCur f).tables = s.tables := rfl
@[simp] theorem modCur_launches (s : State) (f : Ctx → Ctx) : (s.modCur f).launches = s.launches := rfl
@[simp] theorem modCur_strands (s : State) (f : Ctx → Ctx) : (s.modCur f).strands = s.strands := rfl
@[simp] theorem modCur_crews (s : State) (f : Ctx → Ctx) : (s.modCur f).crews = s.crews := rfl
@[simp] theorem modCur_pageHeat (s : State) (f : Ctx → Ctx) : (s.modCur f).pageHeat = s.pageHeat := rfl
@[simp] theorem modCur_regionHeat (s : State) (f : Ctx → Ctx) : (s.modCur f).regionHeat = s.regionHeat := rfl
@[simp] theorem modCur_regionTier (s : State) (f : Ctx → Ctx) : (s.modCur f).regionTier = s.regionTier := rfl
@[simp] theorem modCur_exchanges (s : State) (f : Ctx → Ctx) : (s.modCur f).exchanges = s.exchanges := rfl
@[simp] theorem modCur_swapped (s : State) (f : Ctx → Ctx) : (s.modCur f).swapped = s.swapped := rfl
@[simp] theorem modCur_recvQueues (s : State) (f : Ctx → Ctx) : (s.modCur f).recvQueues = s.recvQueues := rfl
@[simp] theorem modCur_credits (s : State) (f : Ctx → Ctx) : (s.modCur f).credits = s.credits := rfl
@[simp] theorem modCur_requests (s : State) (f : Ctx → Ctx) : (s.modCur f).requests = s.requests := rfl
@[simp] theorem modCur_dirty (s : State) (f : Ctx → Ctx) : (s.modCur f).dirty = s.dirty := rfl
@[simp] theorem modCur_logged (s : State) (f : Ctx → Ctx) : (s.modCur f).logged = s.logged := rfl
@[simp] theorem modCur_units (s : State) (f : Ctx → Ctx) : (s.modCur f).units = s.units := rfl
@[simp] theorem modCur_stackLimit (s : State) (f : Ctx → Ctx) : (s.modCur f).stackLimit = s.stackLimit := rfl
@[simp] theorem modCur_waves (s : State) (f : Ctx → Ctx) : (s.modCur f).waves = s.waves := rfl
@[simp] theorem modCur_links (s : State) (f : Ctx → Ctx) : (s.modCur f).links = s.links := rfl
@[simp] theorem modCur_ports (s : State) (f : Ctx → Ctx) : (s.modCur f).ports = s.ports := rfl
@[simp] theorem modCur_mem (s : State) (f : Ctx → Ctx) : (s.modCur f).mem = s.mem := rfl
@[simp] theorem modCur_sent (s : State) (f : Ctx → Ctx) : (s.modCur f).sent = s.sent := rfl
@[simp] theorem modCur_agenda (s : State) (f : Ctx → Ctx) : (s.modCur f).agenda = s.agenda := rfl
@[simp] theorem modCur_arrivals (s : State) (f : Ctx → Ctx) : (s.modCur f).arrivals = s.arrivals := rfl
@[simp] theorem modCur_inbound (s : State) (f : Ctx → Ctx) : (s.modCur f).inbound = s.inbound := rfl
@[simp] theorem modCur_bankQueue (s : State) (f : Ctx → Ctx) : (s.modCur f).bankQueue = s.bankQueue := rfl
@[simp] theorem modCur_bankHeld (s : State) (f : Ctx → Ctx) : (s.modCur f).bankHeld = s.bankHeld := rfl
@[simp] theorem modCur_lateWrites (s : State) (f : Ctx → Ctx) : (s.modCur f).lateWrites = s.lateWrites := rfl
@[simp] theorem modCur_arg (s : State) (f : Ctx → Ctx) : (s.modCur f).arg = s.arg := rfl
@[simp] theorem modCur_curCore (s : State) (f : Ctx → Ctx) : (s.modCur f).curCore = s.curCore := rfl
@[simp] theorem modCur_curCtx (s : State) (f : Ctx → Ctx) : (s.modCur f).curCtx = s.curCtx := rfl
@[simp] theorem modCur_curSlot (s : State) (f : Ctx → Ctx) : (s.modCur f).curSlot = s.curSlot := rfl
@[simp] theorem modCur_curChan (s : State) (f : Ctx → Ctx) : (s.modCur f).curChan = s.curChan := rfl
@[simp] theorem modCur_ext (s : State) (f : Ctx → Ctx) : (s.modCur f).ext = s.ext := rfl
@[simp] theorem modCur_drawn (s : State) (f : Ctx → Ctx) : (s.modCur f).drawn = s.drawn := rfl

@[simp] theorem push_now (s : State) (p : Pend) : (s.push p).now = s.now := rfl
@[simp] theorem push_cyc (s : State) (p : Pend) : (s.push p).cyc = s.cyc := rfl
@[simp] theorem push_mode (s : State) (p : Pend) : (s.push p).mode = s.mode := rfl
@[simp] theorem push_timeOk (s : State) (p : Pend) : (s.push p).timeOk = s.timeOk := rfl
@[simp] theorem push_hops (s : State) (p : Pend) : (s.push p).hops = s.hops := rfl
@[simp] theorem push_parent (s : State) (p : Pend) : (s.push p).parent = s.parent := rfl
@[simp] theorem push_children (s : State) (p : Pend) : (s.push p).children = s.children := rfl
@[simp] theorem push_offset (s : State) (p : Pend) : (s.push p).offset = s.offset := rfl
@[simp] theorem push_correction (s : State) (p : Pend) : (s.push p).correction = s.correction := rfl
@[simp] theorem push_corrWait (s : State) (p : Pend) : (s.push p).corrWait = s.corrWait := rfl
@[simp] theorem push_burgee (s : State) (p : Pend) : (s.push p).burgee = s.burgee := rfl
@[simp] theorem push_epoch (s : State) (p : Pend) : (s.push p).epoch = s.epoch := rfl
@[simp] theorem push_journal (s : State) (p : Pend) : (s.push p).journal = s.journal := rfl
@[simp] theorem push_flash (s : State) (p : Pend) : (s.push p).flash = s.flash := rfl
@[simp] theorem push_powerCap (s : State) (p : Pend) : (s.push p).powerCap = s.powerCap := rfl
@[simp] theorem push_ncores (s : State) (p : Pend) : (s.push p).ncores = s.ncores := rfl
@[simp] theorem push_coreMap (s : State) (p : Pend) : (s.push p).coreMap = s.coreMap := rfl
@[simp] theorem push_remap (s : State) (p : Pend) : (s.push p).remap = s.remap := rfl
@[simp] theorem push_damage (s : State) (p : Pend) : (s.push p).damage = s.damage := rfl
@[simp] theorem push_deadPackage (s : State) (p : Pend) : (s.push p).deadPackage = s.deadPackage := rfl
@[simp] theorem push_faultLog (s : State) (p : Pend) : (s.push p).faultLog = s.faultLog := rfl
@[simp] theorem push_found (s : State) (p : Pend) : (s.push p).found = s.found := rfl
@[simp] theorem push_errors (s : State) (p : Pend) : (s.push p).errors = s.errors := rfl
@[simp] theorem push_corrected (s : State) (p : Pend) : (s.push p).corrected = s.corrected := rfl
@[simp] theorem push_tooHot (s : State) (p : Pend) : (s.push p).tooHot = s.tooHot := rfl
@[simp] theorem push_tooLow (s : State) (p : Pend) : (s.push p).tooLow = s.tooLow := rfl
@[simp] theorem push_thermalAt (s : State) (p : Pend) : (s.push p).thermalAt = s.thermalAt := rfl
@[simp] theorem push_channelTemp (s : State) (p : Pend) : (s.push p).channelTemp = s.channelTemp := rfl
@[simp] theorem push_hotChannels (s : State) (p : Pend) : (s.push p).hotChannels = s.hotChannels := rfl
@[simp] theorem push_retired (s : State) (p : Pend) : (s.push p).retired = s.retired := rfl
@[simp] theorem push_safeReady (s : State) (p : Pend) : (s.push p).safeReady = s.safeReady := rfl
@[simp] theorem push_commits (s : State) (p : Pend) : (s.push p).commits = s.commits := rfl
@[simp] theorem push_base (s : State) (p : Pend) : (s.push p).base = s.base := rfl
@[simp] theorem push_delta (s : State) (p : Pend) : (s.push p).delta = s.delta := rfl
@[simp] theorem push_baseArea (s : State) (p : Pend) : (s.push p).baseArea = s.baseArea := rfl
@[simp] theorem push_deltaArea (s : State) (p : Pend) : (s.push p).deltaArea = s.deltaArea := rfl
@[simp] theorem push_logArea (s : State) (p : Pend) : (s.push p).logArea = s.logArea := rfl
@[simp] theorem push_folding (s : State) (p : Pend) : (s.push p).folding = s.folding := rfl
@[simp] theorem push_ckpt (s : State) (p : Pend) : (s.push p).ckpt = s.ckpt := rfl
@[simp] theorem push_cycMark (s : State) (p : Pend) : (s.push p).cycMark = s.cycMark := rfl
@[simp] theorem push_ageCounter (s : State) (p : Pend) : (s.push p).ageCounter = s.ageCounter := rfl
@[simp] theorem push_seq (s : State) (p : Pend) : (s.push p).seq = s.seq := rfl
@[simp] theorem push_sessions (s : State) (p : Pend) : (s.push p).sessions = s.sessions := rfl
@[simp] theorem push_handles (s : State) (p : Pend) : (s.push p).handles = s.handles := rfl
@[simp] theorem push_tables (s : State) (p : Pend) : (s.push p).tables = s.tables := rfl
@[simp] theorem push_launches (s : State) (p : Pend) : (s.push p).launches = s.launches := rfl
@[simp] theorem push_strands (s : State) (p : Pend) : (s.push p).strands = s.strands := rfl
@[simp] theorem push_crews (s : State) (p : Pend) : (s.push p).crews = s.crews := rfl
@[simp] theorem push_pageHeat (s : State) (p : Pend) : (s.push p).pageHeat = s.pageHeat := rfl
@[simp] theorem push_regionHeat (s : State) (p : Pend) : (s.push p).regionHeat = s.regionHeat := rfl
@[simp] theorem push_regionTier (s : State) (p : Pend) : (s.push p).regionTier = s.regionTier := rfl
@[simp] theorem push_exchanges (s : State) (p : Pend) : (s.push p).exchanges = s.exchanges := rfl
@[simp] theorem push_swapped (s : State) (p : Pend) : (s.push p).swapped = s.swapped := rfl
@[simp] theorem push_recvQueues (s : State) (p : Pend) : (s.push p).recvQueues = s.recvQueues := rfl
@[simp] theorem push_credits (s : State) (p : Pend) : (s.push p).credits = s.credits := rfl
@[simp] theorem push_requests (s : State) (p : Pend) : (s.push p).requests = s.requests := rfl
@[simp] theorem push_dirty (s : State) (p : Pend) : (s.push p).dirty = s.dirty := rfl
@[simp] theorem push_logged (s : State) (p : Pend) : (s.push p).logged = s.logged := rfl
@[simp] theorem push_units (s : State) (p : Pend) : (s.push p).units = s.units := rfl
@[simp] theorem push_stackLimit (s : State) (p : Pend) : (s.push p).stackLimit = s.stackLimit := rfl
@[simp] theorem push_waves (s : State) (p : Pend) : (s.push p).waves = s.waves := rfl
@[simp] theorem push_links (s : State) (p : Pend) : (s.push p).links = s.links := rfl
@[simp] theorem push_ports (s : State) (p : Pend) : (s.push p).ports = s.ports := rfl
@[simp] theorem push_mem (s : State) (p : Pend) : (s.push p).mem = s.mem := rfl
@[simp] theorem push_sent (s : State) (p : Pend) : (s.push p).sent = s.sent := rfl
@[simp] theorem push_agenda (s : State) (p : Pend) : (s.push p).agenda = s.agenda := rfl
@[simp] theorem push_arrivals (s : State) (p : Pend) : (s.push p).arrivals = s.arrivals := rfl
@[simp] theorem push_inbound (s : State) (p : Pend) : (s.push p).inbound = s.inbound := rfl
@[simp] theorem push_bankQueue (s : State) (p : Pend) : (s.push p).bankQueue = s.bankQueue := rfl
@[simp] theorem push_bankHeld (s : State) (p : Pend) : (s.push p).bankHeld = s.bankHeld := rfl
@[simp] theorem push_lateWrites (s : State) (p : Pend) : (s.push p).lateWrites = s.lateWrites := rfl
@[simp] theorem push_arg (s : State) (p : Pend) : (s.push p).arg = s.arg := rfl
@[simp] theorem push_curCore (s : State) (p : Pend) : (s.push p).curCore = s.curCore := rfl
@[simp] theorem push_curCtx (s : State) (p : Pend) : (s.push p).curCtx = s.curCtx := rfl
@[simp] theorem push_curSlot (s : State) (p : Pend) : (s.push p).curSlot = s.curSlot := rfl
@[simp] theorem push_curChan (s : State) (p : Pend) : (s.push p).curChan = s.curChan := rfl
@[simp] theorem push_ext (s : State) (p : Pend) : (s.push p).ext = s.ext := rfl
@[simp] theorem push_drawn (s : State) (p : Pend) : (s.push p).drawn = s.drawn := rfl

@[simp] theorem outcome_now (s : State) (o : SlotOut) : (s.outcome o).now = s.now := rfl
@[simp] theorem outcome_cyc (s : State) (o : SlotOut) : (s.outcome o).cyc = s.cyc := rfl
@[simp] theorem outcome_mode (s : State) (o : SlotOut) : (s.outcome o).mode = s.mode := rfl
@[simp] theorem outcome_timeOk (s : State) (o : SlotOut) : (s.outcome o).timeOk = s.timeOk := rfl
@[simp] theorem outcome_hops (s : State) (o : SlotOut) : (s.outcome o).hops = s.hops := rfl
@[simp] theorem outcome_parent (s : State) (o : SlotOut) : (s.outcome o).parent = s.parent := rfl
@[simp] theorem outcome_children (s : State) (o : SlotOut) : (s.outcome o).children = s.children := rfl
@[simp] theorem outcome_offset (s : State) (o : SlotOut) : (s.outcome o).offset = s.offset := rfl
@[simp] theorem outcome_correction (s : State) (o : SlotOut) : (s.outcome o).correction = s.correction := rfl
@[simp] theorem outcome_corrWait (s : State) (o : SlotOut) : (s.outcome o).corrWait = s.corrWait := rfl
@[simp] theorem outcome_burgee (s : State) (o : SlotOut) : (s.outcome o).burgee = s.burgee := rfl
@[simp] theorem outcome_epoch (s : State) (o : SlotOut) : (s.outcome o).epoch = s.epoch := rfl
@[simp] theorem outcome_journal (s : State) (o : SlotOut) : (s.outcome o).journal = s.journal := rfl
@[simp] theorem outcome_flash (s : State) (o : SlotOut) : (s.outcome o).flash = s.flash := rfl
@[simp] theorem outcome_powerCap (s : State) (o : SlotOut) : (s.outcome o).powerCap = s.powerCap := rfl
@[simp] theorem outcome_ncores (s : State) (o : SlotOut) : (s.outcome o).ncores = s.ncores := rfl
@[simp] theorem outcome_coreMap (s : State) (o : SlotOut) : (s.outcome o).coreMap = s.coreMap := rfl
@[simp] theorem outcome_remap (s : State) (o : SlotOut) : (s.outcome o).remap = s.remap := rfl
@[simp] theorem outcome_damage (s : State) (o : SlotOut) : (s.outcome o).damage = s.damage := rfl
@[simp] theorem outcome_deadPackage (s : State) (o : SlotOut) : (s.outcome o).deadPackage = s.deadPackage := rfl
@[simp] theorem outcome_faultLog (s : State) (o : SlotOut) : (s.outcome o).faultLog = s.faultLog := rfl
@[simp] theorem outcome_found (s : State) (o : SlotOut) : (s.outcome o).found = s.found := rfl
@[simp] theorem outcome_errors (s : State) (o : SlotOut) : (s.outcome o).errors = s.errors := rfl
@[simp] theorem outcome_corrected (s : State) (o : SlotOut) : (s.outcome o).corrected = s.corrected := rfl
@[simp] theorem outcome_tooHot (s : State) (o : SlotOut) : (s.outcome o).tooHot = s.tooHot := rfl
@[simp] theorem outcome_tooLow (s : State) (o : SlotOut) : (s.outcome o).tooLow = s.tooLow := rfl
@[simp] theorem outcome_thermalAt (s : State) (o : SlotOut) : (s.outcome o).thermalAt = s.thermalAt := rfl
@[simp] theorem outcome_channelTemp (s : State) (o : SlotOut) : (s.outcome o).channelTemp = s.channelTemp := rfl
@[simp] theorem outcome_hotChannels (s : State) (o : SlotOut) : (s.outcome o).hotChannels = s.hotChannels := rfl
@[simp] theorem outcome_retired (s : State) (o : SlotOut) : (s.outcome o).retired = s.retired := rfl
@[simp] theorem outcome_safeReady (s : State) (o : SlotOut) : (s.outcome o).safeReady = s.safeReady := rfl
@[simp] theorem outcome_commits (s : State) (o : SlotOut) : (s.outcome o).commits = s.commits := rfl
@[simp] theorem outcome_base (s : State) (o : SlotOut) : (s.outcome o).base = s.base := rfl
@[simp] theorem outcome_delta (s : State) (o : SlotOut) : (s.outcome o).delta = s.delta := rfl
@[simp] theorem outcome_baseArea (s : State) (o : SlotOut) : (s.outcome o).baseArea = s.baseArea := rfl
@[simp] theorem outcome_deltaArea (s : State) (o : SlotOut) : (s.outcome o).deltaArea = s.deltaArea := rfl
@[simp] theorem outcome_logArea (s : State) (o : SlotOut) : (s.outcome o).logArea = s.logArea := rfl
@[simp] theorem outcome_folding (s : State) (o : SlotOut) : (s.outcome o).folding = s.folding := rfl
@[simp] theorem outcome_ckpt (s : State) (o : SlotOut) : (s.outcome o).ckpt = s.ckpt := rfl
@[simp] theorem outcome_cycMark (s : State) (o : SlotOut) : (s.outcome o).cycMark = s.cycMark := rfl
@[simp] theorem outcome_ageCounter (s : State) (o : SlotOut) : (s.outcome o).ageCounter = s.ageCounter := rfl
@[simp] theorem outcome_seq (s : State) (o : SlotOut) : (s.outcome o).seq = s.seq := rfl
@[simp] theorem outcome_sessions (s : State) (o : SlotOut) : (s.outcome o).sessions = s.sessions := rfl
@[simp] theorem outcome_handles (s : State) (o : SlotOut) : (s.outcome o).handles = s.handles := rfl
@[simp] theorem outcome_tables (s : State) (o : SlotOut) : (s.outcome o).tables = s.tables := rfl
@[simp] theorem outcome_launches (s : State) (o : SlotOut) : (s.outcome o).launches = s.launches := rfl
@[simp] theorem outcome_strands (s : State) (o : SlotOut) : (s.outcome o).strands = s.strands := rfl
@[simp] theorem outcome_crews (s : State) (o : SlotOut) : (s.outcome o).crews = s.crews := rfl
@[simp] theorem outcome_pageHeat (s : State) (o : SlotOut) : (s.outcome o).pageHeat = s.pageHeat := rfl
@[simp] theorem outcome_regionHeat (s : State) (o : SlotOut) : (s.outcome o).regionHeat = s.regionHeat := rfl
@[simp] theorem outcome_regionTier (s : State) (o : SlotOut) : (s.outcome o).regionTier = s.regionTier := rfl
@[simp] theorem outcome_exchanges (s : State) (o : SlotOut) : (s.outcome o).exchanges = s.exchanges := rfl
@[simp] theorem outcome_swapped (s : State) (o : SlotOut) : (s.outcome o).swapped = s.swapped := rfl
@[simp] theorem outcome_recvQueues (s : State) (o : SlotOut) : (s.outcome o).recvQueues = s.recvQueues := rfl
@[simp] theorem outcome_credits (s : State) (o : SlotOut) : (s.outcome o).credits = s.credits := rfl
@[simp] theorem outcome_requests (s : State) (o : SlotOut) : (s.outcome o).requests = s.requests := rfl
@[simp] theorem outcome_dirty (s : State) (o : SlotOut) : (s.outcome o).dirty = s.dirty := rfl
@[simp] theorem outcome_logged (s : State) (o : SlotOut) : (s.outcome o).logged = s.logged := rfl
@[simp] theorem outcome_units (s : State) (o : SlotOut) : (s.outcome o).units = s.units := rfl
@[simp] theorem outcome_stackLimit (s : State) (o : SlotOut) : (s.outcome o).stackLimit = s.stackLimit := rfl
@[simp] theorem outcome_waves (s : State) (o : SlotOut) : (s.outcome o).waves = s.waves := rfl
@[simp] theorem outcome_links (s : State) (o : SlotOut) : (s.outcome o).links = s.links := rfl
@[simp] theorem outcome_ports (s : State) (o : SlotOut) : (s.outcome o).ports = s.ports := rfl
@[simp] theorem outcome_mem (s : State) (o : SlotOut) : (s.outcome o).mem = s.mem := rfl
@[simp] theorem outcome_sent (s : State) (o : SlotOut) : (s.outcome o).sent = s.sent := rfl
@[simp] theorem outcome_agenda (s : State) (o : SlotOut) : (s.outcome o).agenda = s.agenda := rfl
@[simp] theorem outcome_arrivals (s : State) (o : SlotOut) : (s.outcome o).arrivals = s.arrivals := rfl
@[simp] theorem outcome_inbound (s : State) (o : SlotOut) : (s.outcome o).inbound = s.inbound := rfl
@[simp] theorem outcome_bankQueue (s : State) (o : SlotOut) : (s.outcome o).bankQueue = s.bankQueue := rfl
@[simp] theorem outcome_bankHeld (s : State) (o : SlotOut) : (s.outcome o).bankHeld = s.bankHeld := rfl
@[simp] theorem outcome_lateWrites (s : State) (o : SlotOut) : (s.outcome o).lateWrites = s.lateWrites := rfl
@[simp] theorem outcome_arg (s : State) (o : SlotOut) : (s.outcome o).arg = s.arg := rfl
@[simp] theorem outcome_curCore (s : State) (o : SlotOut) : (s.outcome o).curCore = s.curCore := rfl
@[simp] theorem outcome_curCtx (s : State) (o : SlotOut) : (s.outcome o).curCtx = s.curCtx := rfl
@[simp] theorem outcome_curSlot (s : State) (o : SlotOut) : (s.outcome o).curSlot = s.curSlot := rfl
@[simp] theorem outcome_curChan (s : State) (o : SlotOut) : (s.outcome o).curChan = s.curChan := rfl
@[simp] theorem outcome_ext (s : State) (o : SlotOut) : (s.outcome o).ext = s.ext := rfl
@[simp] theorem outcome_drawn (s : State) (o : SlotOut) : (s.outcome o).drawn = s.drawn := rfl

/-! ## What an update puts in place -/

@[simp] theorem core_setCore (s : State) (c : Nat) (k : Core) (h : c < 128) : (s.setCore c k).core c = k := by
  simp [core, setCore, h]

@[simp] theorem core_setCore_ne (s : State) (c d : Nat) (k : Core) (h : c ≠ d) : (s.setCore c k).core d = s.core d := by
  simp [core, setCore, h]

@[simp] theorem ctx_setCtx (s : State) (c x : Nat) (t : Ctx) (h : c < 128) (hx : x < 4) : (s.setCtx c x t).ctx c x = t := by
  simp [ctx, setCtx, modCore, h, hx]

@[simp] theorem ctx_setCtx_ne (s : State) (c x y : Nat) (t : Ctx) (h : x ≠ y) : (s.setCtx c x t).ctx c y = s.ctx c y := by
  by_cases hc : c < 128
  · simp [ctx, setCtx, modCore, hc, h]
  · have : (s.setCtx c x t).core c = s.core c := by
      simp [core, setCtx, modCore, setCore, hc]
    rw [ctx, ctx, this]

@[simp] theorem core_setCtx_ne (s : State) (c d x : Nat) (t : Ctx) (h : c ≠ d) : (s.setCtx c x t).core d = s.core d := by
  simp [setCtx, modCore, h]

@[simp] theorem cur_modCur {s : State} (h : s.InHand) (f : Ctx → Ctx) : (s.modCur f).cur = f s.cur := by
  simp [cur, modCur, modCtx, h.1, h.2]

theorem cur_push {s : State} (h : s.InHand) (p : Pend) :
    (s.push p).cur = { s.cur with pend := s.cur.pend ++ [{ p with wall := s.wallOf p.due, order := s.slotOrder }] } :=
  cur_modCur h _

theorem cur_outcome {s : State} (h : s.InHand) (o : SlotOut) : (s.outcome o).cur = { s.cur with out := o } :=
  cur_modCur h _

theorem inHand_modCur {s : State} (h : s.InHand) (f : Ctx → Ctx) : (s.modCur f).InHand := h

end Sys2Proof.Machine.State
end

