-- ==== Sys2Proof/Tests/Slice0.lean ====
section
/-! SUPPORT. Tests: words that the spec spells, refused fields, one step from reset for each kind of word, and for the
statements a state and operands that meet their hypotheses. -/

namespace Sys2Proof.Tests

open Sys2Proof.Machine

-- One theorem at a time: the kernel evaluates each, and many at once would wait for one another.
set_option Elab.async false

/-- The words of a list decode, in a class, to the instructions beside them. -/
def decodesTo (k : SlotClass) (l : List (Word × Instr)) : Bool :=
  l.all fun p => match decode k p.1 with | .ok i => i == p.2 | .error _ => false

/-- The same for microwords. -/
def microsTo (l : List (DWord × Instr)) : Bool :=
  l.all fun p => match decodeMicro p.1 with | .ok i => i == p.2 | .error _ => false

/-- Why a word of a class is refused. -/
def refusal (k : SlotClass) (w : Word) : Option DecodeError :=
  match decode k w with | .ok _ => none | .error e => some e

/-! ## Words that the spec spells decode to their instructions (15, 16, 17, 18, 19, 20, 21, 24 to 27) -/

theorem test_words_s : decodesTo .s
    [(0x40028345, .addi 0 0 5 1 0x145), (0xC0000091, .ext 0x91), (0x400282D4, .addi 0 0 5 1 0xD4),
     (0xC1FFFFFF, .ext 0x1FFFFFF), (0x520C7800, .lih 0 0 24 30720), (0x560B2A00, .cmpi 0 0 2 6 21 0),
     (0xB4003103, .mput 0 0 24 0x103), (0x8A04000A, .loopi 0 0 8 10)] = true := by decide

theorem test_words_s_more : decodesTo .s
    [(0x6E0B2C19, .fcvt 0 0 22 22 0 3 1), (0x803FFFE6, .b 0 1 0x1FFFE6), (0xB001800A, .mfs 0 0 3 0x00A),
     (0x48020634, .shli 0 0 4 3 52), (0x08028A20, .or 0 0 5 5 4), (0xB6038007, .mget 0 0 7 7),
     (0xE0000000, .eret 0 0), (0xE4000000, .halt 0 0), (0xE6000000, .idle 0 0)] = true := by decide

theorem test_words_v : decodesTo .v
    [(0x5400420C, .vfmul 0 0 1 2 3 0), (0x02110518, .vadd 0 1 4 5 6), (0x84104203, .vslide 0 1 1 2 3),
     (0xA4032800, .vrdacc 0 12 40), (0x60038CB9, .vcvt1 0 0 14 12 0xB 9), (0x52018525, .vfsub 0 0 6 5 9 1),
     (0xA0004408, .vtget 0 1 4 2), (0xA2020204, .vtset 0 8 2 1), (0x90225600, .vbcast 0 2 9 22)] = true := by decide

theorem test_words_x : decodesTo .x
    [(0x14040808, .exp2 0 4 2 2), (0x16050808, .log2 0 5 2 2), (0x10060808, .rcp 0 6 2 2),
     (0x18070808, .sinpi 0 7 2 2), (0x040C2BF0, .tqp 0 12 10 63), (0x060513E4, .tqi 0 5 4 62 1)] = true := by decide

theorem test_words_m : decodesTo .m
    [(0x02020780, .mcall 0 0x040 15 0), (0x03891940, .mcall 3 0x123 2 1), (0x05000000, .msync 2),
     (0x06800000, .mreload 1), (0x08B50000, .mflip 1 3 5), (0x0A7F8000, .mswitch 0 7 15 1),
     (0x0C000000, .mload 0), (0x0E008000, .mlock 1), (0x10108F00, .bfly 4 4 3 3 0), (0x12108000, .tperm 4 4 0)] = true := by decide

theorem test_words_c : decodesTo .c
    [(0x164387FE, .std 2 7 3 0x1FE), (0x24084041, .vldq 0 2 4 1 1), (0x28003081, .tld 0 3 2 1),
     (0x300061C5, .vgatherW 0 0 6 7 5), (0x4068A30F, .aadd 3 1 5 6 7 1), (0x524C9200, .waitw 2 3 9 8),
     (0x62302354, .copyt 1 2 2 3 5 4), (0x6A014000, .copyw 1 4), (0x50000C80, .fence 6 1)] = true := by decide

theorem test_words_c_more : decodesTo .c
    [(0x8006AA18, .send 0 3 5 20 12), (0x8206AA80, .recv 0 3 5 21), (0x70059400, .barinit 0 11 10 0),
     (0x76001400, .barwait 0 0 10 0), (0x66005240, .copyg 0 0 5 2 4 0), (0x68083641, .copysa 0 1 0 3 6 4 1),
     (0x904C20C4, .fbind 1 3 2 3 4), (0x92947000, .fwr 2 5 7), (0x94948000, .frd 2 5 8)] = true := by decide

theorem test_words_bank : decodesTo .bank
    [(0x18E00400, .bpop 0 7 1), (0x18200000, .bpop 0 1 0), (0x08620400, .bld 0 3 1 1 0),
     (0x388E6400, .bfma 0 4 7 3 1), (0x51080400, .bacc 0 8 4 1), (0x10048400, .bst 0 2 4 1 0),
     (0x60000004, .bloop 0 4), (0x20100000, .bpush 8 0), (0x68000000, .bend)] = true := by decide

/-- Microwords by 19 R405: the code in bits [63:60], then the fields. -/
theorem test_words_micro : microsTo
    [(0x1000000000000400, .clr 0 16), (0x2000404000000000, .feed 0x4040), (0x300000000FF82001, .mac 511 1 1),
     (0x5000000000001000, .out 0 64), (0x4000018000000000, .scale 0x0180), (0x6000000000000000, .waith), (0x7000000000000000, .fliph), (0x80000000000003FF, .microLoop 255 3),
     (0x9000000000000000, .microEnd)] = true := by decide

/-- Words that 15 R309, R315 to R327 and 21 R441 refuse: unassigned ops, Reserved bits, fields out of range. -/
theorem test_words_refused : refusal .c 0x50000D80 = some .outOfRange ∧ refusal .s 0xFFFFFFFF = some .unassigned ∧
    refusal .v 0x00000001 = some .unassigned ∧ refusal .x 0x00000001 = some .unassigned ∧
    refusal .s 0x08028A21 = some .reservedBits ∧ refusal .m 0x05000001 = some .reservedBits ∧
    refusal .bank 0x70000000 = some .unassigned ∧
    microsTo [(0, .microEnd)] = false ∧
    microsTo [(0x6000000000000001, .waith)] = false := by decide

/-! ## Every instruction by a word written from its row of the opcode table, its fields at values of their own -/

theorem test_all_scalar_1 : decodesTo .s
    [(0x00000000, .nop), (0x03B2AD98, .add 1 5 37 22 51), (0x05B2AD98, .sub 1 5 37 22 51),
     (0x07B2AD98, .and 1 5 37 22 51), (0x09B2AD98, .or 1 5 37 22 51), (0x0BB2AD98, .xor 1 5 37 22 51),
     (0x0DB2AD98, .andn 1 5 37 22 51), (0x0FB2AD9A, .sel 1 5 37 22 51 2), (0x11B2AD98, .shl 1 5 37 22 51),
     (0x13B2AD98, .shr 1 5 37 22 51), (0x15B2AD98, .sar 1 5 37 22 51), (0x17B2AD98, .rotl 1 5 37 22 51),
     (0x19B2AD98, .min 1 5 37 22 51), (0x1BB2AD98, .max 1 5 37 22 51), (0x1DB2AD98, .minu 1 5 37 22 51),
     (0x1FB2AD98, .maxu 1 5 37 22 51), (0x21B2AD98, .mul 1 5 37 22 51), (0x23B2AD98, .mulh 1 5 37 22 51),
     (0x25B2AD98, .mulhu 1 5 37 22 51), (0x27B2AD98, .div 1 5 37 22 51), (0x29B2AD98, .divu 1 5 37 22 51),
     (0x2BB2AD98, .rem 1 5 37 22 51), (0x2DB2AD98, .remu 1 5 37 22 51), (0x31B2AC00, .clz 1 5 37 22),
     (0x33B2AC00, .ctz 1 5 37 22), (0x35B2AC00, .popc 1 5 37 22), (0x37B2AC00, .brev 1 5 37 22),
     (0x39B2AC00, .bswap 1 5 37 22), (0x3BB2AD98, .extf 1 5 37 22 51), (0x3DB2AD98, .insf 1 5 37 22 51)] = true := by decide

theorem test_all_scalar_2 : decodesTo .s
    [(0x41B2ACAB, .addi 1 5 37 22 171), (0x43B2ACAB, .andi 1 5 37 22 171), (0x45B2ACAB, .ori 1 5 37 22 171),
     (0x47B2ACAB, .xori 1 5 37 22 171), (0x49B2ACAB, .shli 1 5 37 22 171), (0x4BB2ACAB, .shri 1 5 37 22 171),
     (0x4DB2ACAB, .sari 1 5 37 22 171), (0x51B280AB, .li 1 5 37 171), (0x53B280AB, .lih 1 5 37 171),
     (0x55B62D98, .cmp 1 5 5 4 22 51), (0x57B62CAB, .cmpi 1 5 5 4 22 171), (0x59A28C1B, .kop 1 5 5 6 3 3),
     (0x61B2AD9A, .faddF32 1 5 37 22 51 2), (0x63B2AD9A, .fsubF32 1 5 37 22 51 2),
     (0x65B2AD9A, .fmulF32 1 5 37 22 51 2), (0x67B2AD9A, .ffmaF32 1 5 37 22 51 2),
     (0x69B2AD98, .fminF32 1 5 37 22 51), (0x6BB2AD98, .fmaxF32 1 5 37 22 51), (0x6DB62D98, .fcmpF32 1 5 5 4 22 51),
     (0x6FB2AC1A, .fcvt 1 5 37 22 0 3 2), (0x71B2AD9A, .faddF64 1 5 37 22 51 2),
     (0x73B2AD9A, .fsubF64 1 5 37 22 51 2), (0x75B2AD9A, .fmulF64 1 5 37 22 51 2),
     (0x77B2AD9A, .ffmaF64 1 5 37 22 51 2), (0x79B2AD98, .fminF64 1 5 37 22 51), (0x7BB2AD98, .fmaxF64 1 5 37 22 51),
     (0x7DB62D98, .fcmpF64 1 5 5 4 22 51), (0x81A000AB, .b 1 5 171), (0x83A000AB, .call 1 5 171),
     (0x85B2AC00, .callr 1 5 37 22)] = true := by decide

theorem test_all_scalar_3 : decodesTo .s
    [(0x87A02C00, .jr 1 5 22), (0x89A2AC00, .loop 1 5 5 22), (0x8BA280AB, .loopi 1 5 5 171), (0x91A00000, .brk 1 5),
     (0x93A00000, .trap 1 5), (0x95A00000, .yield 1 5), (0x97A00000, .exit 1 5), (0x99B2AD98, .spawn 1 5 37 22 51),
     (0x9A000000, .mode 0), (0xA1B28000, .cnew 1 5 37), (0xA3A02C00, .cjoin 1 5 22), (0xA5A00000, .cleave 1 5),
     (0xA7A00000, .cbar 1 5), (0xB1B2800A, .mfs 1 5 37 10), (0xB3A02C10, .mts 1 5 0 22 16),
     (0xB5A02D05, .mput 1 5 22 261), (0xB7B28106, .mget 1 5 37 262), (0xC0000003, .ext 3), (0xE1A00000, .eret 1 5),
     (0xE3A02C00, .tlbi 1 5 22), (0xE5A00000, .halt 1 5), (0xE7A00000, .idle 1 5), (0xE9A02C00, .csave 1 5 22),
     (0xEBA02C00, .cload 1 5 22)] = true := by decide

theorem test_all_vector_1 : decodesTo .v
    [(0x02E956CC, .vadd 3 2 37 22 51), (0x04E956CC, .vsub 3 2 37 22 51), (0x06E956CD, .vadds 3 2 37 22 51 1),
     (0x08E956CD, .vsubs 3 2 37 22 51 1), (0x0AE956CC, .vmul 3 2 37 22 51), (0x0CE956CD, .vmulh 3 2 37 22 51 1),
     (0x0EE956CD, .vdot4 3 37 22 51 1), (0x10E956CD, .vmin 3 2 37 22 51 1), (0x12E956CD, .vmax 3 2 37 22 51 1),
     (0x14E95600, .vabs 3 2 37 22), (0x16E95600, .vneg 3 2 37 22), (0x18E95600, .vpopc 3 2 37 22),
     (0x1AE95600, .vclz 3 2 37 22), (0x20C956CC, .vand 3 37 22 51), (0x22C956CC, .vor 3 37 22 51),
     (0x24C956CC, .vxor 3 37 22 51), (0x26C956CC, .vandn 3 37 22 51), (0x28E956CC, .vshl 3 2 37 22 51),
     (0x2AE956CC, .vshr 3 2 37 22 51), (0x2CE956CC, .vsar 3 2 37 22 51), (0x30E956AB, .vshli 3 2 37 22 171),
     (0x32E956AB, .vshri 3 2 37 22 171), (0x40E956CC, .vcmp 3 2 4 5 22 51), (0x42C956CC, .vsel 3 37 22 51),
     (0x4401460E, .qop 5 6 3 2), (0x46015600, .qfromg 5 22), (0x50E956CE, .vfadd 3 2 37 22 51 2),
     (0x52E956CE, .vfsub 3 2 37 22 51 2), (0x54E956CE, .vfmul 3 2 37 22 51 2), (0x56E956CE, .vfma 3 2 37 22 51 2)] = true := by decide

theorem test_all_vector_2 : decodesTo .v
    [(0x58E956CE, .vfnma 3 2 37 22 51 2), (0x5AE956CC, .vfmin 3 2 37 22 51), (0x5CE956CC, .vfmax 3 2 37 22 51),
     (0x5EE956CC, .vfcmp 3 2 4 5 22 51), (0x60D95639, .vcvt1 3 1 37 22 3 9), (0x62D95639, .vcvt2 3 1 37 22 3 9),
     (0x64D15639, .vcvtef1 3 1 5 22 3 9), (0x66D95639, .vcvtef2 3 1 37 22 3 9), (0x70E95602, .vsum 3 2 37 22 2),
     (0x72E95602, .vrmax 3 2 37 22 2), (0x74E95602, .vrmin 3 2 37 22 2), (0x76E95602, .vscan 3 2 37 22 2),
     (0x80E956CC, .vperm 3 2 37 22 51), (0x82E956AB, .vshuf 3 2 37 22 171), (0x84E956AB, .vslide 3 2 37 22 171),
     (0x90E95600, .vbcast 3 2 37 22), (0x92D95609, .vextr 3 1 37 22 9), (0x94E940AB, .vmovi 3 2 37 171),
     (0x96C95600, .vmov 3 37 22), (0xA0C94E14, .vtget 3 37 14 5), (0xA2C39614, .vtset 3 14 22 5),
     (0xA4C95600, .vrdacc 3 37 22)] = true := by decide

theorem test_all_table_1 : decodesTo .x
    [(0x02E558EA, .tq 3 37 22 14 2 1), (0x04E558E0, .tqp 3 37 22 14), (0x06E558E8, .tqi 3 37 22 14 2),
     (0x080058E0, .tload 22 14), (0x0A2500E0, .tinfo 37 14), (0x10E55808, .rcp 3 37 22 2),
     (0x12E55808, .rsq 3 37 22 2), (0x14E55808, .exp2 3 37 22 2), (0x16E55808, .log2 3 37 22 2),
     (0x18E55808, .sinpi 3 37 22 2), (0x1AE55808, .cospi 3 37 22 2), (0x1CE50008, .vrand 3 37 2)] = true := by decide

theorem test_all_matrix_1 : decodesTo .m
    [(0x02952940, .mcall 1 677 2 1), (0x04800000, .msync 1), (0x06800000, .mreload 1), (0x08D60000, .mflip 1 5 6),
     (0x0AD68000, .mswitch 1 5 6 1), (0x0C800000, .mload 1), (0x0E008000, .mlock 1), (0x1016CE80, .bfly 5 22 3 2 1),
     (0x1216C080, .tperm 5 22 1)] = true := by decide

theorem test_all_memory_1 : decodesTo .c
    [(0x0292E6AB, .ldb 4 37 51 171), (0x0492E6AB, .ldbn 4 37 51 171), (0x0692E6AB, .ldh 4 37 51 171),
     (0x0892E6AB, .ldhn 4 37 51 171), (0x0A92E6AB, .ldw 4 37 51 171), (0x0C92E6AB, .ldwn 4 37 51 171),
     (0x0E92E6AB, .ldd 4 37 51 171), (0x1092E6AB, .stb 4 37 51 171), (0x1292E6AB, .sth 4 37 51 171),
     (0x1492E6AB, .stw 4 37 51 171), (0x1692E6AB, .std 4 37 51 171), (0x20825CEB, .vld 4 37 51 43),
     (0x22825CEB, .vst 4 37 51 43), (0x248E5CEB, .vldq 4 3 37 51 43), (0x268E5CEB, .vstq 4 3 37 51 43),
     (0x2880ECEB, .tld 4 14 51 43), (0x2A80ECEB, .tst 4 14 51 43), (0x308E55B3, .vgatherW 4 3 37 22 51),
     (0x328E55B3, .vgatherD 4 3 37 22 51), (0x348E55B3, .vscatterW 4 3 37 22 51),
     (0x368E55B3, .vscatterD 4 3 37 22 51), (0x408CB983, .aadd 4 1 37 51 1 1), (0x428CB983, .amin 4 1 37 51 1 1),
     (0x448CB983, .amax 4 1 37 51 1 1), (0x468CB983, .axchg 4 1 37 51 1 1), (0x488CB983, .acas 4 1 37 51 1 1),
     (0x4A8CB983, .afadd 4 1 37 51 1 1), (0x4C8CB983, .afaddh 4 1 37 51 1 1), (0x50000C80, .fence 6 1),
     (0x5296DCC0, .waitw 4 5 45 51)] = true := by decide

theorem test_all_memory_2 : decodesTo .c
    [(0x60886307, .copy 4 1 6 3 7), (0x628863C7, .copyt 4 1 6 3 12 7), (0x648863C7, .copyx 4 1 0 6 3 12 7),
     (0x668863C7, .copyg 4 1 6 3 12 7), (0x688863C7, .copysa 4 1 0 6 3 12 7), (0x6A006000, .copyw 0 6),
     (0x7092E6AB, .barinit 4 37 51 171), (0x7292E6AB, .barexp 4 37 51 171), (0x748066AB, .bararv 4 51 171),
     (0x7692E6AB, .barwait 4 37 51 171), (0x808A76D8, .send 4 5 3 45 44), (0x828A7680, .recv 4 5 3 45),
     (0x90B96CEC, .fbind 2 14 22 51 44), (0x92B96000, .fwr 2 14 22), (0x94B96000, .frd 2 14 22)] = true := by decide

theorem test_all_bank_unit_1 : decodesTo .bank
    [(0x00000000, .bnop), (0x0A6A0406, .bld 1 3 5 1 6), (0x12046406, .bst 1 2 3 1 6), (0x1AA00000, .bpop 1 5 0),
     (0x200C0001, .bpush 6 1), (0x2AAC6000, .badd 1 5 6 3 0), (0x32AC6000, .bmul 1 5 6 3 0),
     (0x3AAC6000, .bfma 1 5 6 3 0), (0x422C7000, .bcmp 1 1 6 3 4), (0x4AAC6000, .bsel 1 5 6 3),
     (0x532C0000, .bacc 1 9 6 0), (0x58000000, .bskip), (0x600600C8, .bloop 3 200), (0x68000000, .bend)] = true := by decide

/-! ## One ill-formed term for each check of WellFormed -/

theorem test_wf_scalar : (Instr.kop 0 0 1 2 1 6).wf = false ∧ (Instr.faddF32 0 0 1 2 3 6).wf = false ∧
    (Instr.ffmaF64 0 0 1 2 3 7).wf = false ∧ (Instr.fcmpF32 0 0 1 6 2 3).wf = false ∧ (Instr.fcvt 0 0 1 2 2 2 0).wf = false ∧
    (Instr.fcvt 0 0 1 2 2 3 0).wf = false ∧ (Instr.fcvt 0 0 1 2 0 6 0).wf = false ∧ (Instr.fcvt 0 0 1 2 0 1 6).wf = false ∧
    (Instr.mfs 0 0 1 0x005).wf = false ∧ (Instr.mts 0 0 0 1 0x001).wf = false ∧ (Instr.mts 0 0 1 1 0x000).wf = false ∧
    (Instr.mput 0 0 1 0x008).wf = false ∧ (Instr.mget 0 0 1 0x020).wf = false := by decide

theorem test_wf_vector : (Instr.vfcmp 0 0 6 1 2 3).wf = false ∧ (Instr.vsum 0 0 1 2 1).wf = false ∧
    (Instr.vscan 0 0 1 2 3).wf = false ∧ (Instr.vrmax 0 0 1 2 3).wf = false ∧ (Instr.vcvtef1 0 0 63 1 0 1).wf = false ∧
    (Instr.vextr 0 3 1 2 32).wf = false ∧ (Instr.vtget 0 1 20 0).wf = false ∧ (Instr.vtset 0 20 1 0).wf = false := by decide

theorem test_wf_others : (Instr.tq 0 1 2 3 3 0).wf = false ∧ (Instr.tqp 0 63 2 3).wf = false ∧ (Instr.tqp 0 1 63 3).wf = false ∧
    (Instr.rcp 0 1 2 0).wf = false ∧ (Instr.vrand 0 1 3).wf = false ∧ (Instr.bfly 1 2 0 0 0).wf = false ∧
    (Instr.bfly 1 2 6 0 0).wf = false ∧ (Instr.bfly 1 2 2 1 0).wf = false ∧ (Instr.tld 0 20 1 0).wf = false ∧
    (Instr.aadd 0 3 1 2 3 0).wf = false ∧ (Instr.fence 1 3).wf = false ∧ (Instr.copy 0 3 1 2 3).wf = false := by decide

theorem test_wf_engines : (Instr.bld 0 8 1 0 0).wf = false ∧ (Instr.bld 0 1 8 0 0).wf = false ∧ (Instr.bld 0 1 1 1 0).wf = false ∧
    (Instr.bst 0 8 1 0 0).wf = false ∧ (Instr.bacc 0 7 1 0).wf = false ∧ (Instr.bloop 8 0).wf = false ∧
    (Instr.bloop 0 256).wf = false ∧ (Instr.clr 0 0).wf = false ∧ (Instr.out 0 65).wf = false ∧
    (Instr.feed 1).wf = false ∧ (Instr.scale 32).wf = false := by decide

/-! ## States that meet the hypotheses of the statements

Each theorem names the statement in whose clauses its states and operands stand; the states are the one of a placed
strand and small changes of it. -/

set_option maxRecDepth 100000

/-- A SYSTEM session and its strand in context 0 of core 0, its page at address 0. -/
def sys : State := State.reset.place

/-- The same with a session without SYSTEM. -/
def user : State := { sys with sessions := sys.sessions.map fun t => { t with system := false } }

/-- The context in hand changed. -/
def at1 (f : Ctx → Ctx) : State := sys.modCur f

/-- General register `n` holds `x`. -/
def withG (s : State) (n : Nat) (x : DWord) : State :=
  s.modCur fun c => { c with regs := { c.regs with g := c.regs.g.setIfInBounds n x } }

/-- ScalarForms, ScalarMultiplyDivide, ScalarBitsAndFields, ScalarFloat. -/
theorem wit_scalar : sys.cur.pred 0 0 = true ∧ fcvtPair 0 1 = true ∧ sys.cur.scalarMode 0 ≠ .sto := by decide

/-- ScalarFloat's operands: NaN, equal, less. -/
theorem wit_scalar_order : (f32F.decode 0x7FC00000).isNan = true ∧ (f32F.decode 0).isNan = false ∧
    fordV (f32F.read false 0) (f32F.read false 0x80000000) = .eq ∧ fordV (f32F.read false 0) (f32F.read false 1) = .lt ∧
    fordV (f32F.read false 1) (f32F.read false 0) = .gt := by decide

/-- FloatRounding: the least and the greatest finite f32, and a zero; products that are a NaN and an infinity. -/
theorem wit_rounding : f32F.decode 0 = .fin false 0 (-149) ∧ f32F.decode 1 = .fin false 1 (-149) ∧
    f32F.decode 0x7F7FFFFF = .fin false 0xFFFFFF 104 ∧ fmulV (.inf false) (.fin false 0 0) = .nan true ∧
    fmulV (.inf true) (.fin false 3 0) = .inf true ∧ fmulV (.fin false 3 0) (.fin true 1 0) ≠ .nan true := by decide

/-- ControlForms: an aligned and a misaligned target; a level that fits, a count of 0, and a depth of four. -/
theorem wit_control : sys.cur.pred 0 0 = true ∧ sys.cur.rg 0 % 32 = 0 ∧ (withG sys 1 33).cur.rg 1 % 32 ≠ 0 ∧
    sys.cur.hnd = false ∧ sys.cur.wait = .none ∧ sys.cur.loops.length < 4 ∧ (withG sys 1 2).cur.rg 1 ≠ 0 ∧
    (at1 fun c => { c with loops := List.replicate 4 { depth := 0, start := 0, last := 64 } }).cur.loops.length = 4 := by decide

def handler : State := at1 fun c => { c with sys := { c.sys with tvec := 0x40 } }
def inHandler : State := at1 fun c => { c with sys := { c.sys with tvec := 0x40, status := 6, epc := 0x20 } }

/-- TrapAndReturn: a strand with a handler, one in it, one outside, one with a result outstanding. -/
theorem wit_trap : handler.InHand ∧ handler.cur.pred 0 0 = true ∧ handler.cur.accesses = [] ∧ handler.cur.pend = [] ∧
    handler.cur.sys.tvec ≠ 0 ∧ handler.cur.hnd = false ∧ inHandler.InHand ∧ inHandler.cur.hnd = true ∧ sys.cur.hnd = false ∧
    (at1 fun c => { c with pend := [{ dest := .g 1, data := 0, due := .access 9 }] }).cur.pend ≠ [] := by
  unfold State.InHand; decide

/-- SessionEnds: a strand without a handler, one in its handler, and a SYSTEM strand that names session 1. -/
theorem wit_session_ends : sys.curStrand.isSome = true ∧ sys.cur.accesses = [] ∧ sys.cur.pend = [] ∧ sys.cur.sys.tvec = 0 ∧
    inHandler.cur.pend = [] ∧ inHandler.cur.accesses = [] ∧ inHandler.cur.hnd = true ∧ inHandler.curStrand.isSome = true ∧
    sys.isSystem sys.curSess = true ∧ ((withG sys 1 1).cur.rg 1).toNat % 64 = 1 := by
  decide

/-- A second strand of the core, READY. -/
def other : Strand := { age := 1, launch := 0, sess := 1, index := 1, core := 0, prio := 0 }

def crowd : State :=
  let l : Launch := { id := 0, port := 1, sq := 1, sess := 1, body := [], entered := true, nextIndex := 2 }
  { sys with strands := sys.strands ++ [other], launches := [l] }

/-- The strand in hand, member of a crew with the other. -/
def crewed (arrived : List Nat) : State := { crowd with crews := [{ id := 7, sess := 1, members := [0, 1], arrived := arrived }] }

/-- StrandForms: a rival for YIELD, none; a pool with room; a crew to join, one with the strand, its last member. -/
theorem wit_strands : crowd.InHand ∧ crowd.cur.strand = some 0 ∧ crowd.curStrand.isSome = true ∧ crowd.cur.exits = false ∧ crowd.cur.wait = .none ∧
    (crowd.strands.any fun u => u.core == 0 && u.st == .ready) = true ∧
    (sys.strands.any fun u => u.core == 0 && u.st == .ready) = false ∧ State.pooled crowd < State.poolMax ∧
    (crowd.launch? 0).isSome = true ∧ crowd.crewOf? crowd.curAge = none ∧
    (crewed []).barCrew.map (fun k => (k.1.id, k.1.episode, k.2)) = some (7, 0, 0) ∧ crowd.barCrew = none ∧ (crewed []).cur.accesses = [] ∧ (crewed []).curSlot ∉ (crewed []).cur.met ∧
    (crewed []).crewOf? 0 ≠ none ∧ (crewed []).cur.parkMet = false ∧ (crewed []).cur.arrivedIn = none ∧
    ((crewed [1]).crews.any fun k => k.members.all fun m => m == 0 || k.arrived.contains m) = true ∧
    ((crewed []).crews.any fun k => k.members.any fun m => m != 0 && !k.arrived.contains m) = true := by
  unfold State.InHand; decide

/-- StrandForms: a crew of another to join; every id in use; a full pool. -/
theorem wit_strands_full : (∃ k ∈ ([{ id := 7, sess := 1, members := [1] }] : List Crew), k.id = 7 ∧ k.sess = 1) ∧
    (∀ k, 1 ≤ k → k ≤ 65535 → ∃ j ∈ (List.range 65536).map fun n => ({ id := n, sess := 2, members := [9] } : Crew), j.id = k) ∧
    State.poolMax ≤ State.pooled { sys with strands := List.replicate 1048576 other } := by
  refine ⟨by decide, fun k _ h => ⟨_, List.mem_map.2 ⟨k, by simp; omega, rfl⟩, rfl⟩, ?_⟩
  unfold State.pooled State.poolMax
  exact Nat.le_of_eq (by rw [List.filter_replicate_of_pos (by decide), List.length_replicate])

/-- FalsePredicateDoesNothing, SystemRegisters: a false predicate, a privileged form in a session without SYSTEM. -/
theorem wit_privilege : guardOf (.add 1 0 1 2 3) = some (1, 0) ∧ sys.cur.pred 1 0 = false ∧ systemForm (.idle 0 0) = true ∧
    systemForm (.mfs 0 0 1 0x100) = true ∧ systemForm (.mfs 0 0 1 0x01C) = false ∧ user.isSystem user.curSess = false ∧
    sys.isSystem sys.curSess = true ∧ (sys.session? sys.curSess).isSome = true := by decide

def lockedS : State := at1 fun c => { c with locked := true, sys := { c.sys with status := 1 } }

/-- Supervision: MODE in a locked context; results that land, one that does not; a level open for CSAVE; the two bounds of
a pointer's checks. -/
theorem wit_supervision : lockedS.cur.locked = true ∧ sys.cur.locked = false ∧ State.loading sys.cur = false ∧
    sys.cur.pend = [] ∧ (at1 fun c => { c with loops := [{ depth := 0, start := 0, last := 0 }] }).cur.loops ≠ [] ∧ sys.cur.loops = [] ∧
    sys.imageReady = true ∧ (at1 fun c => { c with tableQ := [{ ptr := 0, slot := 0 }] }).imageReady = false ∧ sys.cur.wait = .none ∧
    (at1 fun c => c.addWait (.tlbi 0)).cur.wait = .tlbi 0 ∧ ({ wait := .exit } : Ctx).wait = .exit ∧
    (2#64 <<< 60).toNat / 2 ^ 60 = 2 ∧ (64 : DWord).toNat % 64 = 0 ∧ (1 : DWord).toNat % 64 ≠ 0 := by decide

/-- Supervision: an image of zeros in the page passes the checks of CSAVE and CLOAD. -/
theorem wit_image : (sys.checkAccess sys.curSess .write 0 areaBytes).2.2 = none ∧
    (sys.checkAccess sys.curSess .read 0 areaBytes).2.2 = none ∧
    (sys.checkAccess sys.curSess .read 0 areaBytes).1.all (fun p => match p.home with | .here _ => true | _ => false) = true ∧
    (∀ w ∈ [Purpose.write, .read], let ps := (sys.checkAccess sys.curSess w 0 areaBytes).1
      ps.any sys.pieceWaits = false ∧ ps.any (sys.portTaken sys.curSess) = false ∧ sys.granuleHold ps = false ∧
        sys.roomFor (State.cutPieces ps) = true) ∧ sys.errors = [] := by decide +kernel

/-- The parts pass their checks in `s`, nothing holds the access, and nothing keeps its bytes from being reached. -/
def passes (s : State) (why : Purpose) (l : List Part) : Bool :=
  let r := s.checkParts why false l
  r.2.2.isNone && !s.granuleHold r.1 && !r.1.any s.pieceWaits && !r.1.any (s.portTaken s.curSess) && s.errors == [] &&
    r.1.all (!·.mig)

def fixedS : State := at1 fun c => { c with sys := { c.sys with status := 1 } }
/-- A pointer to the slice of core 0. -/
def slice0 : DWord := 0x1000_0000_0000_0000

/-- LoadStoreForms: aligned accesses of each size that pass; a load of the own slice in a fixed region; a load of HBM4
there, a misaligned address, a page that no leaf maps. -/
theorem wit_load_store : sys.InHand ∧ sys.cur.fixed = false ∧ fixedS.cur.fixed = true ∧ sys.cur.rg 0 = 0 ∧
    (∀ n ∈ [1, 2, 4, 8, 256, 4096], passes sys .read [(0, 0, n)] = true ∧ passes sys .write [(0, 0, n)] = true) ∧
    (sys.checkParts .read false [(0, 0, 256)]).1.any State.isPeer = false ∧
    fixedS.ownPtr slice0 = true ∧ passes fixedS .read [(slice0, 0, 8)] = true ∧ fixedS.ownPtr 0 = false ∧
    ((fixedS.checkParts .read false [(slice0, 0, 8)]).1.map fun p => (p.off, p.len)) = [(0, 8)] ∧
    fixedS.cur.accesses = [] ∧ (1 : DWord).toNat % 8 ≠ 0 ∧
    (sys.checkParts .read false [(0x2000_0000, 0, 8)]).2.2.isSome = true := by
  unfold State.InHand; decide +kernel

/-- A leaf of the session's second page, in the capacity tier, with MIG set; and an older access of session 2 that is to claim the
macro of core 0 which `slice0` names. -/
def migS : State := sys.writeNat (Config.tableArea + 65536 + 8) 8 (1 + 2 + 4 + 16 + 64 + 4096)
def claimS (st : Bool) : State :=
  let a : Access := { id := 0, cls := 0, act := .store, pieces := [{ home := .here (sliceHome 0 0), off := 0, len := 8 }] }
  let s := (if st then fixedS else sys).modCtx 0 1 fun c => { c with strand := some 9, accesses := [a] }
  { s with strands := s.strands ++ [{ age := 9, launch := 0, sess := 2, index := 0, core := 0, prio := 0 }] }

/-- LoadStoreForms, Atomics: bytes that leave the own slice at their first byte and at their last; a page that is exchanged; a
macro that an older access is to claim. -/
theorem wit_access_waits : leavesOwn fixedS [(0, 0, 8)] ∧ leavesOwn fixedS [(slice0 + 0xF_FFFF_FFFF_FF80, 0, 256)] ∧
    ¬ leavesOwn fixedS [(slice0, 0, 8)] ∧
    (let r := migS.checkParts .write false [(0x2000_0000, 0, 8)]
     r.2.2 = none ∧ (∃ p ∈ r.1, p.mig = true) ∧ migS.granuleHold r.1 = false) ∧
    ∀ st, (let r := (claimS st).checkParts .read false [(slice0, 0, 8)]
     r.2.2 = none ∧ r.1.any ((claimS st).portTaken (claimS st).curSess) = true ∧ (claimS st).cur.fixed = st) := by
  unfold leavesOwn; decide +kernel

/-- The second page of the session is memory of the device at link 3. -/
def peerS : State := sys.writeNat (Config.tableArea + 65536 + 8) 8 (1 + 2 + 4 + 192 + 768)
def peerPiece : Piece := { home := .peer 3 0, off := 0, len := 8, va := 0x2000_0000, win := .tiers }

/-- LoadStoreForms, Atomics: a load of peer memory that has not asked; one that has, with a reply to come, one of data and a
refusal. -/
def asked (r : Option (Nat × List Byte × DWord)) : State :=
  let q : Request := { link := 3, tag := 9, sess := 1, who := .access 0 0 5, read := true, reply := r }
  { peerS.modCur fun c => { c with
      sys := { c.sys with tvec := 64 }, far := [{ slot := 0, pieces := [peerPiece], src := { asked := true, tags := [some 9] } }] } with
    requests := [q] }

theorem wit_peer_access : passes peerS .read [(0x2000_0000, 0, 8)] = true ∧ passes peerS .write [(0x2000_0000, 0, 8)] = true ∧
    (peerS.checkParts .read false [(0x2000_0000, 0, 8)]).1 = [peerPiece] ∧ State.isPeer peerPiece = true ∧ peerS.cur.far = [] ∧
    (asked none).cur.far.map (·.slot) = [(asked none).curSlot] ∧ (asked none).answered [peerPiece] [some 9] = false ∧
    (asked (some (0, List.replicate 8 7, 5))).answered [peerPiece] [some 9] = true ∧
    (asked (some (0, List.replicate 8 7, 5))).refusedAt [peerPiece] [some 9] = none ∧
    (asked (some (0, List.replicate 8 7, 5))).replyOf peerPiece (some 9) = some (0, List.replicate 8 7, 5) ∧
    (asked (some (1, [], 0))).refusedAt [peerPiece] [some 9] = some 0x2000_0000 ∧ (asked none).pieceWaits peerPiece = false ∧
    (asked none).cur.sys.tvec ≠ 0 ∧ (asked none).cur.hnd = false ∧ (asked none).cur.accesses = [] ∧ (asked none).cur.pend = [] ∧
    (asked none).cur.far.map (·.pieces.map askKey) = [(State.cutPieces [peerPiece]).map askKey] ∧
    [{ peerPiece with home := .peer 3 64 }].map askKey ≠ (State.cutPieces [peerPiece]).map askKey ∧
    (State.cutPieces [peerPiece]).any (asked none).pieceWaits = false := by decide +kernel

/-- GatherScatterForms: an element, in a scoreboard and in a fixed region, whose accesses pass; a first element that is
misaligned; one in a page that no leaf maps. -/
def oneLane (s : State) (x : DWord) : State :=
  withG (s.modCur fun c => { c with regs := { c.regs with q := c.regs.q.setIfInBounds 1 15 } }) 1 x

theorem wit_gather : (gatherForms (oneLane sys 0) 0 1 2 0 1).length = 2 ∧
    ((oneLane sys 0).elemParts 1 1 0 4).map (·.1.toNat % 4) = [0] ∧
    passes (oneLane sys 0) .read (((oneLane sys 0).elemParts 1 1 0 4).flatMap (·.2)) = true ∧
    ((oneLane fixedS slice0).elemParts 1 1 0 4).all (fun e => e.2.all fun p => (oneLane fixedS slice0).ownPtr p.1) = true ∧
    passes (oneLane fixedS slice0) .read (((oneLane fixedS slice0).elemParts 1 1 0 4).flatMap (·.2)) = true ∧
    ((oneLane sys 2).elemParts 1 1 0 4).map (·.1.toNat % 4) = [2] ∧
    ((oneLane sys 0x2000_0000).checkParts .read true (((oneLane sys 0x2000_0000).elemParts 1 1 0 4).flatMap (·.2))).2.2.isSome = true ∧
    passes (oneLane peerS 0x2000_0000) .read (((oneLane peerS 0x2000_0000).elemParts 1 1 0 4).flatMap (·.2)) = true := by
  decide +kernel

/-- The access that ACCESS_PERFORM names. -/
def performing (a : Access) : State :=
  { at1 (fun c => { c with accesses := [a], pend := [{ dest := .g 1, data := 0, due := .access 5 }] }) with
    arg := { core := 0, ctx := 0, n := 5 } }
def piece8 : Piece := { home := .here 64, off := 0, len := 8, va := 64 }
def access5 (act : Act) : Access := { id := 5, cls := 0, act := act, pieces := [piece8], size := 8 }

/-- AccessesPerform, Atomics: a load, a store and an atomic whose turn has come, at home. -/
theorem wit_perform : ∀ act ∈ [Act.load, .store, .atomic 0 true 1 2],
    Performs (performing (access5 act)) 0 0 5 (access5 act) ∧ Memory.wf (performing (access5 act)).mem = true := by
  intro act h
  simp only [List.mem_cons, List.not_mem_nil, or_false] at h
  rcases h with rfl | rfl | rfl
  all_goals
    refine ⟨⟨by decide, by decide, rfl, rfl, rfl, by decide +kernel, rfl, rfl, rfl, by decide +kernel, ⟨?_, by decide +kernel⟩, ?_⟩, by decide +kernel⟩
    · unfold ReachAt; decide +kernel
    · exact fun p hp => ⟨64, by cases List.mem_singleton.1 hp; rfl⟩

/-- Atomics: an atomic of peer memory whose reply has come. -/
theorem wit_peer_atomic : let a : Access := { id := 5, cls := 0, act := .atomic 0 true 1 2, pieces := [peerPiece], src := { asked := true, tags := [some 9] } }
    let s := { asked (some (0, [], 5)) with arg := { core := 0, ctx := 0, n := 5 } }.modCur fun c => { c with accesses := [a] }
    ((s.ctx 0 0).accesses.find? (·.id == 5)) = some a ∧ State.inOrder (s.ctx 0 0) a = true ∧ s.answered a.pieces a.src.tags = true ∧
    s.refusedAt a.pieces a.src.tags = none ∧ s.replyOf peerPiece ((a.src.tags.head?).join) = some (0, [], 5) := by decide +kernel

/-- Atomics: aligned operands that pass, and a misaligned one; FENCE in slot 7 after one of its bundle. -/
theorem wit_atomic : passes sys .write [(0, 0, 2)] = true ∧ passes sys .write [(0, 0, 4)] = true ∧
    passes fixedS .write [(slice0, 0, 8)] = true ∧ (fixedS.checkParts .write false [(slice0, 0, 8)]).1.length = 1 ∧
    ((withG sys 1 1).cur.rg 1).toNat % 2 ≠ 0 ∧
    ((at1 fun c => { c with accesses := [{ id := 3, cls := 0, act := .fence 1 0, bundle := c.issue }] }).cur.accesses.getLast?.map
      (·.bundle)) = some sys.cur.issue := by
  decide +kernel

/-- FencesWaitsBarriers: a word of the page for WAITW, whose zero equals g0 and is not less; COPYW of a transfer that is
done and of the next; a barrier in the own slice, which passes; a phase that has turned, one that has not, a poisoned one. -/
theorem wit_waits : sys.cur.parkMet = false ∧ sys.cur.met = [] ∧ sys.curSlot = 0 ∧ sys.cur.accesses = [] ∧
    ((sys.checkAccess sys.curSess .read 0 8).1.map fun p => (p.off, p.len)) = [(0, 8)] ∧ passes sys .read [(0, 0, 8)] = true ∧
    Machine.cond 0 (BitVec.ofNat 64 (sys.readNat 0 8)) 0 = true ∧
    Machine.cond 2 (BitVec.ofNat 64 (sys.readNat 0 8)) 0 = false ∧
    (let c := (withG sys 1 0xFFFFFFFF).cur.sys; c.wmk0.toNat % 2 ^ 32 = 0xFFFFFFFF ∧ c.tidn0.toNat % 2 ^ 32 = 0) ∧
    passes sys .write [(slice0, 0, 16)] = true ∧ (sys.checkAccess sys.curSess .write slice0 16).1.length = 1 ∧
    slice0.toNat % 16 = 0 ∧ slice0.toNat / 2 ^ 60 = 1 ∧
    (migS.checkAccess migS.curSess .read 0x2000_0000 8).2.2 = none ∧ (0x2000_0000 : DWord).toNat % 8 = 0 ∧
    (migS.checkAccess migS.curSess .read 0x2000_0000 8).1.any migS.pieceWaits = true ∧
    Bar.phase 0 = 0 ∧ Bar.state 0 < 2 ∧ 2 ≤ Bar.state (Bar.poison 0) := by decide +kernel

/-- A channel whose queue is full, and credits and queues of link 1. -/
def chans : State :=
  let k : CopyCmd := { kind := .copy, age := 0, sess := 1, tid := 0, dst := 0, src := 0, aux := 0, mode := false, shape := 0, issueCyc := 0, rel := {} }
  let q : RecvQueue := { link := 1, core := 0, rq := 2, owner := 1, msgs := [7] }
  let cr : Credit := { link := 1, core := 0, rq := 2, owner := 1, count := 3 }
  let s : State := { sys with recvQueues := [q], credits := [cr], sessions := sys.sessions.map fun t => { t with peer := true } }
  s.modChan 0 0 fun h => { h with queue := List.replicate 16 k }

/-- CopyAndMessages: a full queue and one with room; a credit, none; a session with a peer, one without; a queue with a
message, none. -/
theorem wit_copy_messages : 16 ≤ (chans.chan 0 0).queue.length ∧ (chans.chan 0 1).queue.length < 16 ∧ chans.cur.repush0 = [] ∧
    chans.repushWaits 0 1 = false ∧
    (chans.modCtx 0 1 fun c => { c with repush1 := (chans.chan 0 0).queue }).repushWaits 0 1 = true ∧
    chans.kept true 1 0 2 = 0 ∧ (chans.modCtx 0 1 fun c => { c with holds := [(0, true, 1, 0, 2), (1, false, 1, 0, 2)] }).kept true 1 0 2 = 1 ∧
    (chans.credit? 1 0 2).map (fun k => (k.owner, k.count)) = some (1, 3) ∧ chans.credit? 0 0 0 = none ∧ chans.curSess = 1 ∧
    ((chans.session? 1).map (·.peer)) = some true ∧ ((sys.session? 1).map (·.peer)) = some false ∧
    ((chans.queue? 1 0 2).map (·.msgs)) = some [7] ∧ chans.queue? 0 0 0 = none ∧ (chans.link 1).up = true ∧
    chans.classFree 0 .recv [] = true ∧
    ((chans.modLink 1 fun k => { k with up := false }).link 1).up = false := by decide

/-- Table slots of core 0: 0, 4 and 8 with tables of the three kinds of session 1, 12 busy, 16 of session 2, 20 empty. -/
def tables : State :=
  let d (k : Nat) : TSlot := { desc := BitVec.ofNat 128 k }
  let put (v : Vector TSlot 64) (p : Nat × Nat) : Vector TSlot 64 := v.setIfInBounds p.1 (d p.2)
  sys.modCore 0 fun k => { k with tslots := [(0, 0x4101), (4, 0x4102), (8, 0x4123), (12, 0x4141), (16, 0x4201)].foldl put k.tslots }

/-- Tables: a slot for each form that passes, one that is another session's, one that is busy, one that is empty. -/
theorem wit_tables : ([(0, 1), (4, 2), (8, 3)].all fun p => !tables.slotForeign 0 p.1 tables.curSess && !tables.slotBusy 0 p.1 &&
      Desc.kind (tables.tdesc 0 p.1) == p.2) = true ∧ tables.curCore = 0 ∧ Desc.ew (tables.tdesc 0 0) = 0 ∧
    tables.slotForeign 0 16 tables.curSess = true ∧ tables.slotBusy 0 12 = true ∧ tables.slotForeign 0 12 tables.curSess = false ∧
    Desc.kind (tables.tdesc 0 20) = 0 ∧ tables.slotForeign 0 20 tables.curSess = false := by decide +kernel

/-- Tables: TLOAD's pointer in space 0, one of space 3, a misaligned one, slot 60, a full queue. -/
theorem wit_table_load : (ptrOf sys.ncores (sys.cur.rg 0)).isSome = true ∧ (sys.cur.rg 0).toNat % 64 = 0 ∧
    1 < ((withG sys 1 (3#64 <<< 60)).cur.rg 1).toNat / 2 ^ 60 ∧ ((withG sys 1 32).cur.rg 1).toNat % 64 ≠ 0 ∧
    sys.cur.tableQ.length < 8 ∧
    8 ≤ (at1 fun c => { c with tableQ := List.replicate 8 { ptr := 0, slot := 0 } }).cur.tableQ.length := by decide

/-- A routine of one word at address 0 of the store, loaded; macro 0 of layer 0 in compute mode; m1 names it. -/
def routine0 : DirEntry := { addr := 0, len := 1, sess := 1, n := 1, kcyc := 4, loaded := true }

def matrix : State :=
  let s := sys.modCore 0 fun k => { k with dir := [routine0], arrs := k.arrs.setIfInBounds 0 { compute := true } }
  s.modCur fun c => { c with regs := { c.regs with m := c.regs.m.setIfInBounds 1 0x10, fmt := c.regs.fmt.setIfInBounds 0 0x33 } }

/-- MatrixCalls: a call that passes, with a full stream and with room; a locked context that the hazard monitor stops and
one that it lets pass. -/
theorem wit_matrix_call : CallOk matrix 0 (matrix.cur.rfmt 0) false routine0 ∧ Calm matrix 0 false ∧ matrix.InHand ∧
    matrix.cur.out = .done ∧ (matrix.cur.stream 0).entries.length < 64 ∧ lockedS.cur.fixed = true ∧
    (lockedS.cur.locked = true ∧ (mForms 1 0 0 0 0 0 0 0 0 0 0).any (fun i => i.2.1 != 0) = true) ∧
    Calm lockedS 0 false ∧ sys.cur.fixed = false := by
  unfold CallOk Calm State.InHand; decide +kernel

/-- The registers of MRELOAD and MLOAD: one array, one word at store address 1. -/
def loadsM : State := matrix.modCur fun c => { c with regs := { c.regs with m := c.regs.m.setIfInBounds 5 0x3010 } }
def loadsR : State := matrix.modCur fun c => { c with regs := { c.regs with m := (c.regs.m.setIfInBounds 4 0x1001).setIfInBounds 5 1 } }

/-- MatrixCommands: the conditions of each command; a stream with work, an idle one, a poisoned one. -/
theorem wit_matrix_commands : rb (loadsM.cur.rm 5) 11 4 ≠ 0 ∧ wtCode (rb (loadsM.cur.rm 5) 15 12) = true ∧
    loadsM.spaceOk (loadsM.cur.rm 3) 65536 = true ∧ loadsM.foreignArr [0] = false ∧ loadsM.inStorage [0] = false ∧
    rb (loadsR.cur.rm 4) 24 12 = 1 ∧ rb (loadsR.cur.rm 4) 11 0 = 1 ∧ rb (loadsR.cur.rm 4) 63 25 = 0 ∧
    loadsR.spaceOk (loadsR.cur.rm 3) 1 = true ∧
    ((loadsR.core 0).dir.filter fun v => overlap (v.addr, v.addr + v.len) (1, 2)) = [] ∧
    matrix.streamIdle 0 = true ∧ matrix.cur.claims = [] ∧
    (matrix.modCur fun c => { c with claims := [{ entry := 3, lambda := 9, rows := 0, tiles := 0, fixed := false, stream := 0 }] }).cur.claims.map (·.stream) = [0] ∧ (matrix.cur.stream 0).poisoned = false ∧
    (matrix.modCur fun c => { c with streams := c.streams.setIfInBounds 0 { entries := [{ id := 1, cmd := .msync 0 }] } }).streamIdle 0 = false ∧
    ((handler.modCur fun c => { c with streams := c.streams.setIfInBounds 0 { poisoned := true } }).cur.stream 0).poisoned = true := by
  decide +kernel

/-- Transforms: a BFLY of 16 points by radix 2 and a TPERM of radix 2, with the datapath free and busy. -/
theorem wit_transform : spanBad f32F (16 + 2 ^ 14) 0 1 = false ∧ bits (16 + 2 ^ 14) 26 14 ≠ 0 ∧
    bits (16 + 2 ^ 14) 13 0 % (radixOf 1 * bits (16 + 2 ^ 14) 26 14) = 0 ∧ smooth 64 (bits 16 24 0) = true ∧ bits 16 24 0 ≠ 0 ∧
    (let m6 := 1
     bits m6 63 39 = 0 ∧ radices m6 ≠ [] ∧ (∀ c ∈ digitCodes m6, c < 6) ∧
      (∀ c ∈ (digitCodes m6).drop (radices m6).length, c = 0) ∧ bits (16 + 2 ^ 14) 13 0 % product (radices m6) = 0) ∧
    sys.now < ((sys.modCore 0 fun k => { k with dpFree := 9 }).core 0).dpFree ∧ ¬ sys.now < (sys.core 0).dpFree := by
  decide +kernel

/-- Channel 0's unit in hand, changed: its running slot 0 is a binding of session 1 and of the strand in hand, whose routine
of two words begins the unit's store. -/
def bank (f : BankUnit → BankUnit) (b : BankSlot) (i j : Instr) : State :=
  let w (k : Instr) : Nat := ((encodeWord k).getD 0).toNat
  let s := (sys.writeNat (bankStoreHome 0 0) 4 (w i)).writeNat (bankStoreHome 0 1) 4 (w j)
  { s with units := [f { chan := 0, slots := [(0, { b with sess := 1, len := 2 })], cur := some 0 }] }

def bank0 : State := bank id {} (.bld 0 0 0 0 0) .bend

/-- BankArithmetic, BankMemory, BankControl: a running slot, its column in the page inside a row operation and without one,
a column that the checks refuse; an operand, none; a full output. -/
theorem wit_bank : bank0.runSlot.map (·.1) = some 0 ∧ bank0.columnOk 0 0 1 .read = true ∧ bank0.columnOk 0 0 1 .write = true ∧
    bank0.columnOk 0 0x1000000 1 .read = false ∧ (bank0.unit 0).rowOp = none ∧
    ((bank (fun u => { u with rowOp := some (0, 0, 3) }) {} .bnop .bend).unit 0).rowOp = some (0, 0, 3) ∧
    (bank0.operand { input := [(7, 0)] }).map (·.1) = some 7 ∧ bank0.operand {} = none ∧ bank0.curChan = 0 ∧
    Memory.wf bank0.mem = true := by decide +kernel

/-- BankMemory: the strand of a failing instance is resident and the instance lives, or is dying; a row operation that has used its
16 columns. -/
theorem wit_bank_fails : (bank0.runSlot.map fun p => (p.2.age, p.2.feed, p.2.dying)) = some (0, 0, false) ∧
    (bank0.strand? 0).map (fun t => (t.st, t.core)) = some (.resident, 0) ∧ bank0.ctxOf? 0 0 = some 0 ∧
    ((bank id { dying := true } .bnop .bend).runSlot.map (·.2.dying)) = some true ∧
    ((bank (fun u => { u with rowOp := some (0, 0, 16) }) {} .bnop .bend).unit 0).rowOp = some (0, 0, 16) ∧
    bank0.columnOk 0 0x1000000 1 .write = false := by decide +kernel

/-- BankControl: an index bit of 1, of 0 with a BLOOP after it and without one, an empty stream that refills. -/
theorem wit_bank_skip : ((1#32).getLsbD 0 = true ∧ (0#32).getLsbD 0 = false) ∧
    (let s := bank id { skn := 1 } .bskip (.bloop 0 0)
     s.skipIndex 0 { skn := 1, len := 2 } = 1 ∧ s.runSlot.map (·.2.skn) = some 1) ∧
    (let s := bank id { skn := 1 } .bskip .bend
     2 ≤ s.skipIndex 0 { skn := 1, len := 2 }) := by decide +kernel

/-- A feed register of the strand in hand: bound to the pseudo-channel 0, as `f` says. -/
def feeds (f : Feed → Feed) : State :=
  let r : Feed := f { state := 1, target := 1, hdr := some 0x50001 }
  let b : BankSlot := { output := [9] }
  (bank id b .bnop .bend).modCur fun c => { c with regs := { c.regs with feed := c.regs.feed.setIfInBounds 0 r } }

/-- Feeds: a bound single feed with a result, a wave, an unresolved one and a failed state. -/
theorem wit_feeds : ((feeds id).cur.feed 0).pending = false ∧ ((feeds id).cur.feed 0).state = 1 ∧
    ((feeds id).cur.feed 0).tag = 0 ∧ (feeds id).headResult (feeds id).curAge 0 (Target.chans 1) = some (0, 0, 9) ∧
    ((State.bound? ((feeds id).unit 0) (feeds id).curAge 0).map fun q => (q.1, q.2.input.length)) = some (0, 0) ∧
    ((feeds fun r => { r with wave := true }).cur.feed 0).wave = true ∧
    ((feeds fun r => { r with pending := true }).cur.feed 0).pending = true ∧
    ((feeds fun r => { r with state := 2 }).cur.feed 0).state = 2 ∧ ((feeds fun r => { r with state := 3 }).cur.feed 0).state = 3 ∧
    (State.bound? ((feeds id).unit 0) 0 0).map (·.2.output) = some [9] ∧ Target.kind ((feeds id).cur.feed 0).target = 1 ∧
    (sys.headResult 0 0 (Target.chans 1)) = none := by decide +kernel

/-- Feeds: a binding to resolve, with its routine resident and a free slot, and one of a bad target. -/
def binds (x : DWord) : State :=
  let s := feeds fun r => { r with state := 0, pending := true, target := x }
  { s.modUnit 0 fun u => { u with slots := [], cur := none, routines := [{ frame := 0, frames := 1, id := 5, sess := 1, len := 1, lastBound := 0 }] } with
    arg := { core := 0, ctx := 0, idx := 0 } }

theorem wit_binding : ((binds 1).ctx 0 0).strand = some 0 ∧ ((binds 1).strand? 0).map (fun t => (t.st, t.core, t.sess)) =
      some (.resident, 0, 1) ∧ (binds 1).ctxOf? 0 0 = some 0 ∧ ((binds 1).ctx 0 0).accesses = [] ∧
    ((binds 1).ctx 0 0).feed 0 = { state := 0, pending := true, target := 1, hdr := some 0x50001 } ∧
    Target.ok 1 = true ∧ imageOk 0x50001 = true ∧ imageId 0x50001 = 5 ∧ Target.kind 1 = 1 ∧
    ((binds 1).unit 0).slots = [] ∧ Target.ok 3 = false := by decide +kernel

/-- BankScheduling: a row operation that may start and one whose bank is taken; a slot at a boundary. -/
theorem wit_bank_schedule : bank0.wanted 0 { len := 2, sess := 1 } = some (0, 0, false) ∧ bank0.bankQueued 0 0 = false ∧
    (let a : Access := { id := 1, cls := 0, act := .load, pieces := [{ home := .here (bankPa 0 0 0 0 0), off := 0, len := 8 }] }
     ({ bank0.modCur (fun c => { c with accesses := [a] }) with bankQueue := [.access 0 0 1] } : State).bankQueued 0 0 = true) ∧
    bank0.bankTaken 0 0 = false ∧ ({ bank0 with bankHeld := [(0, 0, 23)] } : State).bankTaken 0 0 = true ∧
    (bank0.unit 0).stepAt ≤ bank0.now ∧
    (let s := bank (fun u => { u with rowOp := some (0, 0, 3) }) {} .bend .bend
     ((s.unit 0).slots.map fun q => s.endsRow 0 q.2 0 0 3) = [true] ∧ (s.unit 0).closeAt = none ∧
      (s.unit 0).opFrom + 14 + 2 * 3 + 7 > s.now) ∧
    bank0.granuleHold [{ home := .here (bankPa 0 0 0 0 0), off := 0, len := 64 }] = false ∧ bank0.ckpt = none ∧
    (let u := (bank (fun u => { u with cur := none }) {} .bnop .bend).unit 0
     u.cur = none ∧ u.rowOp = none ∧ u.guaranteed = none ∧ (u.lastSlot + 1 + 0) % 4 = 0 ∧ (State.slot? u 0).isSome = true) ∧
    (bank id {} .bnop .bend).slotReady 0 { len := 2 } = true := by decide +kernel

/-- BankScheduling: a slot that has waited for its bank; a wave that starts. -/
theorem wit_bank_waits : ({ bank0 with now := 4400 } : State).wanted 0 { len := 2, sess := 1, waitingSince := some 0 } =
      some (0, 0, false) ∧ 0 + 4400 ≤ ({ bank0 with now := 4400 } : State).now ∧
    (let w : Wave := { age := 0, feed := 0, stack := 0, sess := 1, arg := 0, routine := 5 }
     w.owed = [] ∧ w.members = [] ∧ w.next < 64 ∧ w.stack < 12) := by decide +kernel

/-- The unit of core 0 runs the routine of an entry. -/
def runs (e : MEntry) : State := { sys.setRunning 0 (some { ctx := 0, stream := 0, entry := e }) with dirty := [] }
def call0 : MEntry := { id := 3, cmd := .mcall 0 0 0 0, m1 := 0x10, fmt := 0x33 }

/-- MicroForms, MicroRoutines, MicroMac, MicroOut: a routine that runs, of one layer and of none, with a block weight
format; OUT to tiles and to a slice that no macro holds. -/
theorem wit_micro : ((runs call0).routine?.map (·.entry)) = some call0 ∧ (runs call0).curCore < 128 ∧
    isBlock (rb call0.fmt 7 4) = false ∧ isBlock (rb 0x53 7 4) = true ∧
    (layersOf (rb call0.m1 11 4)).length = 1 ∧ (layersOf (rb 0 11 4)).length = 0 ∧
    (runs call0).errors = [] ∧ (runs call0).reloading 0 call0.arrays = false ∧ call0.arrays.Nodup ∧ (∀ i ∈ call0.arrays, i < 128) ∧
    call0.m2.getLsbD 6 = false ∧ (0x40 : DWord).getLsbD 6 = true ∧ call0.half = false ∧ (runs call0).dirty = [] ∧
    ((List.range 128).all fun i => !((runs call0).arr 0 i).compute && ((runs call0).arr 0 i).owner.isNone) = true := by
  decide +kernel

/-- MicroMac, MicroRoutines: a routine of 8-bit integers whose activations lie in the slice; one that has done its END. -/
theorem wit_mac : (let e : MEntry := { call0 with fmt := 0x99, m0 := 1 }
      ((runs e).routine?.map (·.entry)) = some e ∧ rb e.fmt 7 4 = 9 ∧ rb e.fmt 3 0 = 9 ∧ e.m0.getLsbD 0 = true ∧ layersOf (rb e.m1 11 4) ≠ []) ∧
    (let s := sys.setRunning 0 (some { ctx := 0, stream := 0, entry := call0, last := true })
     (s.routine?.map fun r => (r.last, r.busyUntil, r.planes)) = some (true, 0, 0) ∧ s.curCore < 128) := by decide +kernel

/-- An entry of each kind at the head of stream 0, which the unit takes. -/
def heads (k : MKind) (i : Instr) : State :=
  let e : MEntry := { id := 3, cmd := i, kind := k, len := 1 }
  let s := sys.modCtx 0 0 fun t => { t with streams := t.streams.setIfInBounds 0 { entries := [e] } }
  { s with now := 8, arg := { core := 0 } }

theorem wit_matrix_start : ([(MKind.mcall, Instr.mcall 0 0 0 0), (.mreload, .mreload 0), (.mflip, .mflip 0 0 0),
      (.mswitch true, .mswitch 0 0 0 1), (.mload, .mload 0)].all fun p =>
        let s := heads p.1 p.2
        ((s.pickEntry 0).map fun q => (q.1, q.2.1, q.2.2.id)) == some (0, 0, 3) &&
        ((List.range 16).all fun i => !s.headDoomed 0 (i / 4) (i % 4)) && !s.macroBusy 0 0 3 && !s.reloading 0 [0] && s.errors == [] && Memory.wf s.mem) = true := by
  decide +kernel

/-- MatrixEntriesComplete: a reload whose source passes, and a routine of CLR and END to be loaded. -/
def reload0 : Reload :=
  { ctx := 0, age := 0, sess := 1, stream := 0, arr := 0, lmask := 1, fmt := 9, wptr := some 0, sptr := none, wstr := 0, sstr := 0 }

theorem wit_reload : sys.goodRun 1 4 0 65536 = (65536, false) ∧
    ((sys.checkPartsFor 1 .engRead true [(0, 0, 65536)]).1.map fun p => (p.off, p.len)) = [(0, 65536)] ∧
    (sys.checkPartsFor 1 .engRead true [(0, 0, 65536)]).2 = (false, none) ∧ reload0.lmask.toNat = 2 ^ 0 ∧
    reload0.killedAt = none ∧ Memory.wf sys.mem = true := by decide +kernel

/-- MatrixEntries: a reload of the macro that MFLIP names. -/
theorem wit_flip_waits : (sys.modCore 0 fun k => { k with reloads := [reload0] }).reloading 0 [0] = true := by decide +kernel

theorem wit_mload : ∃ w0 w1, encodeMicro (.clr 0 1) = some w0 ∧ encodeMicro .microEnd = some w1 ∧
    State.microsOf [w0, w1] = some [.clr 0 1, .microEnd] ∧ (State.routineFacts [.clr 0 1, .microEnd]).isSome = true ∧
    ((sys.checkRange 1 .engRead (16 / 256 + 3) 0 0 16).1.map fun p => (p.off, p.len)) = [(0, 16)] :=
  ⟨_, _, rfl, rfl, by decide +kernel, by decide +kernel, by decide +kernel⟩

/-- An MLOAD of a routine at address 0 that declares rows and cycles, its directory entry there or gone. -/
def mloading (n k : Nat) (kept : Bool) : State :=
  let w (i : Instr) : Nat := ((encodeMicro i).getD 0).toNat
  let e : MEntry := { id := 3, cmd := .mload 0, kind := .mload, len := 2, rt := 0, m2 := BitVec.ofNat 64 n, m3 := BitVec.ofNat 64 k }
  let s := ((sys.writeNat 0 8 (w (.clr 0 1))).writeNat 8 8 (w .microEnd)).setRunning 0 (some { ctx := 0, stream := 0, entry := e })
  s.modCore 0 fun k => { k with dir := if kept then [{ addr := 0, len := 2, sess := 1, n := 0, kcyc := 0, loader := 3 }] else [] }

/-- MatrixEntriesComplete: facts that are as declared, facts that are not, and no directory entry. -/
theorem wit_mload_facts : ((State.microsOf (State.dwords 2 ((mloading 0 4 true).read 0 16))).bind State.routineFacts).map
      (fun f => (f.1, f.2.1)) = some (0, 4) ∧
    ((mloading 0 4 true).core 0).dir.map (·.loader) = [3] ∧ rb (BitVec.ofNat 64 4) 31 0 = 4 ∧ rb (BitVec.ofNat 64 9) 31 0 ≠ 4 ∧
    ((mloading 0 9 false).core 0).dir.map (·.loader) = [] ∧ ((mloading 0 9 false).strand? 0).map (·.sess) = some 1 := by decide +kernel

/-! ### The module -/

/-- A command message: TYPE, TAG, its length and the body as one number. -/
def command (ty len : Nat) (body : Nat) : List Byte :=
  toBytes 1 ty ++ toBytes 1 2 ++ toBytes 2 len ++ toBytes 4 0 ++ toBytes 8 77 ++ toBytes 16 0 ++ toBytes (len - 32) body

/-- The message at port 1, whose host has Burgee; a device without strands. -/
def at0 (s : State) (m : List Byte) : State := { s with burgee := 1, arg := { port := 1, msg := m } }
def quietS : State := { sys.setCtx 0 0 {} with strands := [], mode := .ready }

def arrives (s : State) (m : List Byte) (i : Instr) : Bool :=
  let s := at0 s m
  s.mode == .ready && s.ckpt.isNone && !s.folding && s.journal == [] && Cmd.headerOk m && Cmd.event m == i &&
    s.sameTag 1 m == none && s.rejects 1 m == none

/-- SessionCommands, ControlCommands: a message of each kind that arrives; sessions 1 and 2, big pages at 0 and 512 MiB. -/
theorem wit_commands : ([(command 1 160 (1 * 2 ^ 144), Instr.launch),
      (command 2 64 (2 * 2 ^ 8 + (Config.tableArea + 0x40000) * 2 ^ 64), .sessionCreate),
      (command 2 64 (1 + 1 * 2 ^ 8), .sessionDestroy),
      (command 3 64 (1 + 1 * 2 ^ 8 + 0x20000000 * 2 ^ 64 + 0x20000000 * 2 ^ 128 + 1 * 2 ^ 192), .map),
      (command 4 64 (1 + 1 * 2 ^ 8 + 1 * 2 ^ 128), .unmap), (command 5 168 (1 + 1 * 2 ^ 8 + 5 * 2 ^ 16), .handleRelease),
      (command 6 40 0, .checkpoint), (command 7 40 0, .restore), (command 8 64 (3 * 2 ^ 124), .queryIdentity),
      (command 8 64 (1 + 3 * 2 ^ 124), .querySequence), (command 8 64 (2 + 3 * 2 ^ 124), .queryFaultLog),
      (command 8 64 (3 + 3 * 2 ^ 124), .queryHeatMap), (command 8 64 (4 + 3 * 2 ^ 124), .queryAttestation),
      (command 9 64 0, .mgmtReset), (command 9 64 (1 + 3 * 2 ^ 124 + 64 * 2 ^ 128), .mgmtFirmwareUpdate),
      (command 9 64 (2 + 3 * 2 ^ 124 + 0x4000001 * 2 ^ 128), .mgmtCoreMapChange),
      (command 9 64 (3 + 800 * 2 ^ 128), .mgmtPowerCap), (command 9 64 (4 + 1 * 2 ^ 128), .mgmtTimeRoot)].all fun p =>
        arrives quietS p.1 p.2) = true ∧ quietS.sessionQuiet 1 = true ∧ quietS.deadPackage = none ∧ quietS.tables.contains (Config.tableArea + 0x40000) = false ∧
    (quietS.session? 1).map (fun t => (t.noRoom, t.table)) = some (false, Config.tableArea) := by decide +kernel

/-- SessionCommands: a descriptor of one dimension of four f32 elements, which registers. -/
theorem wit_handle : arrives quietS (command 5 168 (1 + 5 * 2 ^ 16 + (1 * 2 ^ 68 + 4 * 2 ^ 128) * 2 ^ 64)) .handleRegister = true := by
  decide +kernel

/-- ControlAndCheckpointCommands, LaunchLife: a device that is quiet for every checkpoint. -/
theorem wit_quiet : ∀ k, quietS.quiesced k = true := fun _ => rfl

/-- ControlAndCheckpointCommands: a checkpoint whose delta is written, for a CHECKPOINT and for a reset; a delta that is
committed, to be folded; a base image. -/
def written (ty : Nat) (reset : Bool) : State :=
  { quietS with
    delta := some { number := 1 }, ckpt := some { at_ := .written, who := some (1, 9), reset := reset }, safeReady := true
    journal := [{ port := 1, sq := 9, tag := 0, cmd := command ty 40 0, effected := true }] }
def folds : State :=
  let k : Commit := { number := 1, markA := 0, markB := 0, cyc := 5, index := [3], digest := State.indexDigest [3] }
  { quietS with delta := some { number := 1 }, folding := true, commits := [k, k] }

theorem wit_written : Written (written 6 false) 1 9 { number := 1 } 6 false ∧ Written (written 9 true) 1 9 { number := 1 } 9 true ∧
    State.lostSessions { number := 1 } quietS.useRecord.ncores = [] :=
  ⟨⟨rfl, rfl, ⟨_, rfl, rfl, rfl, rfl⟩, _, rfl, rfl, rfl, rfl, rfl, by decide⟩,
    ⟨rfl, rfl, ⟨_, rfl, rfl, rfl, rfl⟩, _, rfl, rfl, rfl, rfl, rfl, by decide⟩, by decide +kernel⟩

theorem wit_folds : folds.ckpt = none ∧ folds.journal = [] ∧ (folds.committed.map fun k => (k.number, k.index)) = some (1, [3]) ∧
    folds.deadPackage = none ∧ folds.baseArea.bad = [] ∧ folds.deltaArea.bad = [] ∧ ([3] : List Nat).Nodup ∧ 3 < State.hbmGranules := by decide +kernel

/-- SessionCommands: the tables of session 1: its level 2, a leaf there and a free entry. -/
theorem wit_map : Pte.ok (quietS.readNat Config.tableArea 8) false = true ∧ quietS.exchanges = [] ∧
    (let a2 := Pte.ppn (quietS.readNat Config.tableArea 8) * 65536
     Pte.ok (quietS.readNat (a2 + 8) 8) false = false ∧ Pte.ok (quietS.readNat a2 8) true = true) ∧
    quietS.isRetired 0 0x20000000 Config.bigPageBytes = false ∧ Memory.wf quietS.mem = true := by decide +kernel

/-- CommandsTurnedAway: a bad header, a repeated TAG, a bad body, no Burgee, a session that is not, a full journal. -/
theorem wit_turned_away : Cmd.headerOk (command 1 159 0) = false ∧ Cmd.type (command 8 64 0) = 8 ∧
    (let s := (at0 quietS (command 6 40 0)).modPort 1 fun p => { p with tags := [(77, 3)], highest := 3, lastQuery := some 0 }
     (s.port 1).tags = [(77, 3)] ∧ (s.port 1).highest < 3 + 2 ^ 20 ∧ (s.port 1).lastQuery = some 0) ∧
    quietS.badBody (command 3 64 1) = true ∧ quietS.badBody (command 6 40 0) = false ∧
    State.needsBurgee (command 6 40 0) = true ∧ quietS.burgee.toNat ≠ 1 ∧ quietS.badTarget (command 1 160 0) = some 0x13 ∧
    quietS.badTarget (command 6 40 0) = none := by decide +kernel

/-- CommandsTurnedAway: a journal that is full. -/
theorem wit_journal_full (j : Journal) (h : j.covered = false) :
    4194304 ≤ State.journalUsed { quietS with journal := List.replicate 4194304 j } := by
  unfold State.journalUsed
  exact Nat.le_of_eq (by rw [List.filter_replicate_of_pos (by simp [h]), List.length_replicate])

/-- StartUpAndFatalEvents: a clean start, with an image and without; a step that fails; what is package-fatal; a part. -/
theorem wit_start : CleanStart sys ∧ sys.safeReady = false ∧ sys.base = none ∧ sys.delta = none ∧ sys.ckpt = none ∧
    sys.retired = [] ∧ State.lostSessions {} sys.useRecord.ncores = [] ∧
    ({ sys with base := some {}, journal := [], arg := {} } : State).deadPackage = none ∧ (1 : Nat) ∈ [1, 2, 3, 4, 5, 7] ∧
    (∀ c, c < 4 → sys.flash.active.getD c 0 ≤ 1) := by unfold CleanStart; decide +kernel

/-- A device with a safe region: a base image; a delta that is committed, or not; a journal whose commands are completed. -/
def safeS (d : Option Nat) (l : List Commit) : State :=
  { sys with
    safeReady := true, base := some {}, delta := d.map fun n => { number := n, markA := 9 }, commits := l, mode := .ready
    journal := [{ port := 1, sq := 0, tag := 0, cmd := command 1 160 0, final := some 0x20, effected := true }] }
def commit1 : Commit := { number := 1, markA := 0, markB := 0, cyc := 5, index := [], digest := State.indexDigest [] }

/-- StartUpAndFatalEvents: each kind of checkpoint that a restart goes back to. -/
theorem wit_safe : CleanStart (safeS none []) ∧ (safeS none []).mode ≠ .pennant ∧ SafeAt (safeS none []) {} ∧
    SafeAt (safeS (some 1) [commit1, commit1]) { number := 1, markA := 9 } ∧ SafeAt (safeS (some 2) [commit1, commit1]) {} ∧
    (∃ x ∈ ({ safeS none [] with tooHot := [(3, 0)], now := 1100001 } : State).tooHot, x.2 + 1100000 < 1100001) := by
  have l (n : Nat) : State.lostSessions { number := n, markA := 9 } sys.useRecord.ncores = [] := by rfl
  refine ⟨by unfold CleanStart; decide +kernel, by decide, ?_, ?_, ?_, by decide⟩
  · exact ⟨rfl, rfl, rfl, by decide +kernel, .inl ⟨rfl, rfl⟩, by decide +kernel⟩
  · exact ⟨rfl, rfl, rfl, l 1, .inr (.inl ⟨rfl, by decide +kernel⟩), by decide +kernel⟩
  · exact ⟨rfl, rfl, rfl, by decide +kernel, .inr (.inr ⟨rfl, _, rfl, by decide +kernel⟩), by decide +kernel⟩

theorem wit_fatal : (∃ x ∈ [((3 : Nat), (0 : Nat))], x.2 + 1100000 < ({ sys with now := 1100001 } : State).now) ∧ sys.mode ≠ .pennant ∧
    ({ sys with mode := .pennant } : State).mode = .pennant ∧ sys.ckpt = none ∧ (partOf 4 5 (2 + 256 * 7)).isSome = true ∧
    5 ∈ sys.useRecord.coreMap ∧ (2 + 256 * 7) % 256 < 8 ∧ 4 < sys.ncores := by decide +kernel

/-- ThermalAndTime: a link of the time tree whose exchange is due, and one that is not in it; an offset of each sign; tokens
of a unit that computes. -/
theorem wit_time : (let s : State := { sys with parent := some 3, children := [4], now := 70000, mode := .ready }
      (s.link 3).up = true ∧ s.mode = .ready ∧ (s.link 3).lastTime + 65536 ≤ s.now ∧ 3 ∉ s.children ∧ 5 ∉ s.children ∧ s.parent ≠ some 5) ∧ sys.mode ≠ .ready ∧
    (sys.corrWait = 0 ∧ sys.correction = 0 ∧ (-5 : Int) < 0 ∧ (0 : Int) < 5) ∧ (sys.core 0).heatAt ≤ sys.now ∧
    (2 : Nat) ≤ min ((sys.core 0).bucket + (sys.core 0).refill) 65536 := by decide +kernel

/-- HostRegisters: registers heard; a ring of 64 positions with a record that waits, one that is full, none. -/
def ring (f : Port → Port) : State :=
  let s : State := { sys with arg := { port := 1 } }
  (s.modLink 16 fun k => { k with peerCredit := 4 }).modPort 1 fun p => f { p with crsize := 64, waiting := [(1, List.replicate 32 0)] }

theorem wit_host : Heard { sys with arg := { port := 1, msg := regMsg 0 0x20 5 } } 1 (regMsg 0 0x20 5) ∧
    ((ring id).port 1).waiting.head? = some (1, List.replicate 32 0) ∧ ((ring id).port 1).crsize.toNat ≠ 0 ∧
    ¬ ((ring id).port 1).crcons.toNat + 64 ≤ ((ring id).port 1).nextPos ∧ ((ring id).port 1).notDone = [] ∧
    ((ring id).link 16).backlog = [] ∧ 1 ≤ ((ring id).link 16).room ∧
    ((ring fun p => { p with nextPos := 64 }).port 1).crcons.toNat + 64 ≤ ((ring fun p => { p with nextPos := 64 }).port 1).nextPos ∧
    (let s : State := { sys with burgee := 1 }; s.burgee.toNat = 1) ∧ (2 : Nat) ^ 6 = 64 ∧
    ((ring fun p => { p with notDone := [(0, List.replicate 32 0, none)] }).port 1).notDone = [] ++ (0, List.replicate 32 0, none) :: [] ∧
    sys.mode ≠ .pennant := by
  unfold Heard; decide +kernel

/-- A launch of session 1 in the launch list: its body as a number, its dependences. -/
def launched (body : Nat) (deps : List (Nat × Nat)) (e : Bool) : State :=
  let l : Launch := { id := 5, port := 1, sq := 9, sess := 1, body := toBytes 128 body, deps := deps, entered := e }
  { quietS with launches := [l], arg := { n := 5, sess := 1 }
                journal := [{ port := 1, sq := 8, tag := 0, cmd := command 1 160 0, final := some 0x20, effected := true },
                            { port := 1, sq := 9, tag := 1, cmd := command 1 160 0, effected := true }] }

/-- LaunchLife: a launch that can enter, and one whose dependence has failed. -/
theorem wit_launch : let l := launched 0 [] false
    (∀ j ∈ l.journal, j.final.isSome = true ∨ (j.effected = true ∧ Cmd.type j.cmd = 1)) ∧ l.ckpt = none ∧
    (l.nextLaunchable.map fun k => (k.id, l.depsOf k)) = some (5, some true) ∧ (l.session? 1).map (·.killed) = some false ∧
    l.crews = [] ∧ State.pooled l + 1 ≤ 1048576 ∧
    (let d := launched 0 [(1, 8)] false
     (d.nextLaunchable.map fun k => (k.id, d.depsOf k)) = some (5, some false)) := by decide +kernel

/-- LaunchLife: the hint for a crew, and a mask of no core; a launch that has entered, without a live strand. -/
theorem wit_launch_forms : bit (field (toBytes 128 (4 * 2 ^ 160)) 20 4) 2 = 1 ∧
    ((List.range 64).filter fun c => bit (2 ^ 100) c = 1) = [] ∧
    ((launched 0 [] true).launch? 5).map (·.entered) = some true ∧ (launched 0 [] true).strands = [] := by decide +kernel

/-- LaunchLife: the device's own checkpoint, due and not. -/
theorem wit_not_due : quietS.folding = false ∧ quietS.mode = .ready ∧ quietS.dirty.length < 245760 := by decide +kernel
theorem wit_due : 245760 ≤ ({ quietS with dirty := List.replicate 245760 0 } : State).dirty.length :=
  Nat.le_of_eq List.length_replicate.symm

/-- Two movable pages of session 1, at 512 MiB and the next 64 KiB: in the capacity tier and in HBM4, one hot. -/
def twoPages : State :=
  let t := Config.tableArea
  let s := (sys.writeNat (t + 65536 + 8) 8 (Pte.table (t + 131072))).writeNat (t + 131072) 8 (1 + 2 + 4 + 16 + 64)
  let s := s.writeNat (t + 131072 + 8) 8 (1 + 2 + 4 + 16 + 3 * 65536)
  { s with pageHeat := [(1, 8192, 2000)], arg := { sess := 1, addr := 0x20000000, addr2 := 0x20010000 } }

theorem wit_pages : ((twoPages.session? 1).bind fun t => twoPages.movable t 0x20000000).map (·.addr) = some (Config.tableArea + 131072) ∧
    ((twoPages.session? 1).bind fun t => twoPages.movable t 0x20010000).map (·.addr) = some (Config.tableArea + 131080) ∧
    ((twoPages.session? 1).map fun t => twoPages.mayExchange t 0x20000000 0x20010000) = some true ∧
    ((twoPages.session? 1).map fun t => twoPages.mayExchange t 0x20010000 0x20000000) = some false ∧
    twoPages.inFlight 1 0x20000000 = false ∧ twoPages.exchanges = [] ∧ Memory.wf twoPages.mem = true ∧
    twoPages.granuleHold [{ home := .here (capBase), off := 0, len := 65536 }, { home := .here 196608, off := 0, len := 65536 }] = false := by
  decide +kernel

/-- PageExchanges: an exchange to be ended, its frames and its leaves apart. -/
theorem wit_swap : let s : State := { twoPages with exchanges := [{ sess := 1, va := 0x20000000, vb := 0x20010000 }] }
    s.ckpt = none ∧ s.journal = [] ∧ s.errors = [] ∧ (s.exchanges.find? fun x => x.sess == 1 && !x.held).isSome = true ∧ ((s.session? 1).bind fun t => s.walk t.table 0x20000000).map (fun l => State.leafHome l.entry) = some (some capBase) ∧
    ((s.session? 1).bind fun t => s.walk t.table 0x20010000).map (fun l => State.leafHome l.entry) = some (some 196608) ∧
    196608 + 65536 ≤ capBase ∧ Config.tableArea + 131072 + 8 ≤ capBase ∧
    ({ twoPages with exchanges := [{ sess := 1, va := 0x20000000, vb := 0x20010000, held := true }] } : State).exchanges =
      [{ sess := 1, va := 0x20000000, vb := 0x20010000, held := true }] := by
  decide +kernel

/-! ### Scheduling, links, tables and copies -/

/-- The event names context `x` of core 0, which `f` changes. -/
def ctxAt (x : Nat) (f : Ctx → Ctx) : State := { sys.modCtx 0 x f with now := 20000, arg := { core := 0, ctx := x } }

/-- A READY strand of core 0 with a save area; all contexts of the core held, by strands 0 and 2 to 4, strand 1 READY. -/
def readyS (p : Nat) : Strand := { age := 1, launch := 0, sess := 1, index := 0, core := 0, prio := p, area := some 0 }
def heldS (p t : Nat) : State :=
  let res (a x : Nat) : Strand := { age := a, launch := 0, sess := 1, index := 0, core := 0, prio := 0, st := .resident, ctx := x, residentAt := a }
  let hold (s : State) (x a : Nat) : State := s.setCtx 0 x { st := .issuable, strand := some a }
  let s := hold (hold (hold sys 1 2) 2 3) 3 4
  { s with strands := s.strands ++ [res 2 1, res 3 2, res 4 3, { readyS p with readyAt := t }], now := t, arg := { core := 0 } }

/-- SchedulerEvents: a dispatch; a strand to pre-empt, one not to, a quantum that is over. -/
theorem wit_dispatch : (let s : State := { sys with strands := sys.strands ++ [readyS 0], arg := { core := 0 } }
      s.freeCtx 0 = some 1 ∧ (s.nextReady 0).map (·.age) = some 1 ∧ s.ckpt = none) ∧
    (heldS 9 0).allHeld 0 = true ∧ ((heldS 9 0).nextReady 0).map (·.age) = some 1 ∧
    ((heldS 9 0).victims 0).map (·.age) = [0, 2, 3, 4] ∧ (heldS 9 0).ctxOf? 0 4 = some 3 ∧
    ((heldS 9 0).strand? 1).map (heldS 9 0).effective = some 9 ∧ ((heldS 0 0).strand? 1).map (heldS 0 0).effective = some 0 ∧
    ((heldS 9 0).victims 0).map (·.eff) = [0, 0, 0, 0] ∧ (sys.nextReady 0) = none := by decide +kernel

theorem wit_quantum : let s := heldS 0 2300000
    s.allHeld 0 = true ∧ (s.nextReady 0).map (fun h => (h.age, s.effective h)) = some (1, 0) ∧
    (s.victims 0).map (fun u => (u.eff, u.residentAt, u.prio)) = [(0, 0, 0), (0, 2, 0), (0, 3, 0), (0, 4, 0)] ∧
    s.ctxOf? 0 0 = some 0 ∧ 0 + 2200000 ≤ s.now := by decide +kernel

/-- SchedulerEvents: a context that loads, one that is saved, entries to be pushed again, a switch. -/
theorem wit_load : (ctxAt 0 fun c => { c with st := .loading, since := some 0 }).strand? 0 ≠ none ∧
    State.moveCycles (State.savedEntries {}) ≤ 20000 ∧
    (let s := ctxAt 0 fun c => { c with st := .draining, halt := some false, since := some 0 }
     s.drainedHalt 0 0 = true ∧ (s.strand? 0).map s.areaMoves = some false ∧ (s.strand? 0).map s.areaVa = some none ∧
      ((s.ctx 0 0).strand.bind s.strand?).isSome = true) ∧ (ctxAt 0 id).drainedHalt 0 0 = false ∧ (ctxAt 0 id).best ((ctxAt 0 id).issuables 0) ≠ none ∧
    (let s := heldS 0 0
     let t := s.modCore 0 fun k => { k with running := 3 }
     (t.best (t.issuables 0)).map (·.age) = some 0 ∧ t.ctxOf? 0 0 = some 0 ∧ (t.strandOf 0 3).isSome = true) := by decide +kernel

/-- SchedulerEvents: a strand whose state stands in its save area, which can be read; a pool that is not mapped. -/
theorem wit_load_area : (let w := ctxAt 0 fun c => { c with st := .loading, since := some 0 }
      let s : State := { w with strands := sys.strands.map fun t => { t with saved := true, area := some 1 } }
      (s.strand? 0).map (fun t => (t.saved, t.sess)) = some (true, 1) ∧ (s.session? 1).map (·.pool) = some 0 ∧
      ((s.strand? 0).map fun t => (s.areaImage t).1.isSome) = some true ∧ s.errors = []) := by decide +kernel

/-- A strand whose save area is in the second 128 KiB of its page, with the word of MODE there. -/
def savedS (m : Nat) : State :=
  { (ctxAt 0 fun c => { c with st := .loading, since := some 0 }).writeNat (131072 + 0x1_CCF8) 8 m with
    strands := sys.strands.map fun t => { t with saved := true, area := some 1 } }

/-- The bytes of the second of two pages laid side by side. -/
theorem laid (n : Nat) (x y : List Byte) (k : Nat) (h : x.length ≤ k) (hy : k < x.length + y.length) :
    (State.lay (State.lay (List.replicate n 0) 0 x) x.length y)[k]? = y[k - x.length]? := by
  unfold State.lay
  simp only [List.take_zero, List.nil_append, List.take_left', Nat.zero_add]
  rw [List.append_assoc, List.getElem?_append_right h, List.getElem?_append_left (by omega)]

/-- What two pieces at home give. -/
theorem gather_two (s : State) (n a b m k o : Nat) (v w : DWord) :
    s.gather n [{ home := .here a, off := 0, len := m, va := v }, { home := .here b, off := o, len := k, va := w }] [] =
      State.lay (State.lay (List.replicate n 0) 0 (s.read a m)) o (s.read b k) := rfl

/-- A save area read in two pages, whose MODE word is 4. -/
theorem laid_mode (n : Nat) (x y : List Byte) (hx : x.length = 65536) (hy : y.length = 0xCD40)
    (h : ∀ j, j < 8 → y[0xCCF8 + j]? = some (if j = 0 then 4 else 0)) :
    bit (imageSys (State.lay (State.lay (List.replicate n 0) 0 x) 65536 y).toArray 15).toNat 2 = 1 := by
  have hg : ∀ j, j < 8 → (State.lay (State.lay (List.replicate n 0) 0 x) 65536 y)[0x1CCF8 + j]? = some (if j = 0 then 4 else 0) := by
    intro j hj
    have g := laid n x y (0x1CCF8 + j) (by omega) (by omega)
    rw [hx] at g
    rw [g, show 0x1CCF8 + j - 65536 = 0xCCF8 + j by omega]
    exact h j hj
  generalize State.lay (State.lay (List.replicate n 0) 0 x) 65536 y = b at hg
  have e : (List.range 8).map (fun j => (b.toArray[0x1CCF8 + 0 * 8 + j]?).getD 0) = (List.range 8).map fun j => if j = 0 then 4 else 0 := by
    refine List.map_congr_left fun j hj => ?_
    rw [List.getElem?_toArray, Nat.zero_mul, Nat.add_zero, hg j (List.mem_range.1 hj)]
    rfl
  simp only [imageSys, imageRegs, show sysOff + 8 * 15 = 0x1CCF8 from rfl, show List.range 1 = [0] from rfl, List.map_cons, List.map_nil, e]
  decide

/-- SchedulerEvents: a save area whose MODE word has bit 2 set. -/
theorem wit_load_bit : ∃ b, ((savedS 4).strand? 0).map (fun t => ((savedS 4).areaVa t, ((savedS 4).areaImage t).1)) =
    some (some 131072, some b) ∧ bit (imageSys b.toArray 15).toNat 2 = 1 := by
  have hp : (savedS 4).piecesVa 1 4 131072 0 0x1CD40 = some
      [{ home := .here 131072, off := 0, len := 65536, va := 131072 }, { home := .here 196608, off := 65536, len := 0xCD40, va := 196608 }] := by
    decide +kernel
  have hs : ((savedS 4).strand? 0).map (fun t => ((savedS 4).areaVa t, State.areaLen t, t.sess)) = some (some 131072, 0x1CD40, 1) := by
    decide +kernel
  have hm : (((savedS 4).meetPieces 1 [{ home := .here 131072, off := 0, len := 65536, va := 131072 }, { home := .here 196608, off := 65536, len := 0xCD40, va := 196608 }]).heatOf 1 [{ home := .here 131072, off := 0, len := 65536, va := 131072 }, { home := .here 196608, off := 65536, len := 0xCD40, va := 196608 }]).mem = (savedS 4).mem := by decide +kernel
  have hw : Memory.wf (savedS 4).mem = true := by decide +kernel
  have hb : ∀ j, j < 8 → memGet (savedS 4).mem (196608 + (0xCCF8 + j)) = if j = 0 then 4 else 0 := by
    decide +kernel
  generalize savedS 4 = s at *
  obtain ⟨t, ht, h⟩ := Option.map_eq_some_iff.1 hs
  simp only [Prod.mk.injEq] at h
  obtain ⟨ha, hn, hsess⟩ := h
  refine ⟨State.lay (State.lay (List.replicate 0x1CD40 0) 0 (memRead s.mem 131072 65536)) 65536 (memRead s.mem 196608 0xCD40), ?_, ?_⟩
  · rw [ht]
    simp only [Option.map_some, ha, State.areaImage, State.readVa, hn, hsess, hp]
    rw [gather_two]
    simp only [State.read, hm]
  · refine laid_mode _ _ _ (by rw [Laws.Memory.memRead_get hw, List.length_map, List.length_range])
      (by rw [Laws.Memory.memRead_get hw, List.length_map, List.length_range]) fun j hj => ?_
    rw [Laws.Memory.memRead_get hw, List.getElem?_map, List.getElem?_range (by omega), Option.map_some, hb j hj]
/-- PeerMessages: a slot of the ring of a session with PEER lies at home, and one of an unmapped pool does not. -/
def ringS (p : DWord) : State := { chans with sessions := sys.sessions.map fun t => { t with
  peer := true, pool := p, poolSize := 0x2002_0000 } }

theorem wit_ring : ((ringS 0).session? 1).map (fun t => (t.pool, t.poolSize)) = some (0, 0x2002_0000) ∧
    (ringS 0).checkByte 1 .engRead (BitVec.ofNat 64 (0x2_0000 + ((1 * 128 + 0) * 16 + 2) * 16384)) =
      .ok .global (.here (0x2_0000 + ((1 * 128 + 0) * 16 + 2) * 16384)) false ∧
    (ringS 0x1_0000_0000).checkByte 1 .engRead (BitVec.ofNat 64 (0x1_0002_0000 + ((1 * 128 + 0) * 16 + 2) * 16384)) = .no 3 6 ∧
    (0x2_0000 + ((1 * 128 + 0) * 16 + 2) * 16384) % 65536 ≤ 65280 ∧ ((ringS 0).queue? 1 0 2).map (·.placed) = some 0 := by
  decide +kernel

/-- SchedulerEvents: a switch away from a context that cannot issue. -/
theorem wit_switch : let s := (heldS 0 0).modCtx 0 0 fun c => { c with st := .blocked }
    (s.best (s.issuables 0)).map (·.age) = some 2 ∧ s.ctxOf? 0 2 = some 1 ∧ (s.core 0).running = 0 ∧
    s.canIssue 0 0 = false ∧ (s.strandOf 0 0).isSome = true := by decide +kernel

/-- SchedulerEvents: a freeze that ends while the selector switches; a byte range of one page that a save writes. -/
theorem wit_thaw : ((sys.modCore 0 fun k => { k with running := 1, switching := 2, thawTo := some 0 }).core 0).thawTo = some 0 ∧
    (sys.modCore 0 fun k => { k with running := 1, switching := 2, thawTo := some 0 }).canIssue 0 0 = true ∧
    sys.checkByte 1 .engRead 64 = .ok .global (.here 64) false ∧ 2 ≤ State.runLength 64 2 ∧ sys.lateWrites = [] ∧
    sys.bankBusy { home := .here 64, off := 0, len := 2, va := 64 } = false ∧ Memory.wf sys.mem = true := by decide +kernel

/-- WaitsEnd: a blocked WAITW for PARK; parked strands whose condition holds and does not. -/
theorem wit_park : AtCtx (ctxAt 0 id) 0 0 ∧
    (let c := (ctxAt 0 fun c => { c with st := .blocked, out := .blocked true, conds := [(6, .waitw 0 0 0)], since := some 0 }).ctx 0 0
     c.strand = some 0 ∧ c.st = .blocked ∧ c.conds ≠ [] ∧ c.wait = .none ∧ c.exits = false ∧ c.since = some 0) ∧
    sys.heatFrozen 0 0 = false ∧
    ((runs call0).modCore 0 fun k => { k with stopped := true }).heatFrozen 0 0 = true ∧
    sys.parkHolds 1 (.waitw 0 0 0) = true ∧ sys.parkHolds 1 (.waitw 0 0 1) = false ∧ sys.parkHome 1 0 = some (.here 0) ∧
    (let s : State := { sys with strands := [{ readyS 0 with st := .parked, conds := [.waitw 0 0 0] }], arg := { age := 1 } }
     (s.strand? 1).map (fun t => (t.st, t.asked.length, t.pollAt)) = some (.parked, 0, 0)) := by
  unfold AtCtx; decide +kernel

/-- WaitsEnd: the waits of a trap, EXIT and MODE that can end. -/
theorem wit_waits_end : (let c := (ctxAt 0 fun c => { c with wait := .trap 1 2, sys := { c.sys with tvec := 64 } }).ctx 0 0
      State.performedAll c = true ∧ c.pend = [] ∧ c.fault = none ∧ c.sys.tvec ≠ 0 ∧ c.hnd = false) ∧
    (let c := (ctxAt 0 fun c => { c with fault := some (1, 2) }).ctx 0 0
     c.wait = .none ∧ c.fault = some (1, 2)) ∧
    ((ctxAt 0 fun c => { c with wait := .land }).ctx 0 0).wait = .land ∧
    (let s := ctxAt 0 fun c => { c with wait := .exit }
     s.matrixBusy 0 0 = false ∧ s.tableBusy 0 0 = false ∧ s.fwrAccepted 0 0 = true ∧
      (s.strand? 0).map (·.killed) = some false ∧ (s.ctx 0 0).accesses = []) ∧
    (let s := ctxAt 0 fun c => { c with wait := .mode true }
     s.drained 0 0 = true ∧ s.fwrAccepted 0 0 = true ∧ (s.ctx 0 0).loops = [] ∧ (s.ctx 0 0).hnd = false ∧
      (s.ctx 0 0).st ≠ .draining) ∧
    (at1 fun c => { c with tableQ := [{ ptr := 0, slot := 0 }] }).drained 0 0 = false := by decide +kernel

/-- WaitsEnd: CSAVE's two pages of the save area, apart; an image of the length that CLOAD reads. -/
theorem wit_saved : let r := sys.checkAccess 1 .write 0 131072
    (r.1.map fun p => (p.off, p.len, p.va)) = [(0, 65536, 0), (65536, 65536, 65536)] ∧ r.2 = (false, none) ∧
    r.1.any sys.pieceWaits = false := by
  decide +kernel

theorem wit_image_length : (List.replicate 131072 (0 : Byte)).length = 131072 := List.length_replicate

/-- LinkEvents, PeerMessages: a link, its messages; a flit in order, a copy, one ahead; one whose CRC fails. -/
def flit0 (q : BitVec 32) : List Byte := flitBytes q 4 0 0 0 (toBytes 8 1)

theorem wit_links : (sys.link 3).up = true ∧ (sys.link 3).retrying = false ∧ (sys.link 3).expected = 0 ∧
    (sys.link 3).badSeqs = [] ∧ (sys.link 3).unserved = [] ∧ (2 ^ 11 : BitVec 16).toNat / 2 ^ 11 % 4 ≠ 3 ∧ (sys.link 3).lastRetry + 2200 ≤ ({ sys with now := 2200 } : State).now ∧ sys.widthOf 3 ≠ 0 ∧ (flit0 0).length = 256 ∧ (flit0 0).drop 248 = toBytes 8 (crc64 ((flit0 0).take 248)).toNat ∧
    (0xFFFFFFFF - 0 : BitVec 32).msb = true ∧ ((5 : BitVec 32) - 0).msb = false ∧
    (let f := (flit0 0).take 248 ++ toBytes 8 0
     f.length = 256 ∧ f.drop 248 ≠ toBytes 8 (crc64 (f.take 248)).toNat ∧ field f 4 1 = 4) := by decide +kernel

theorem wit_flit : isFlit (flit0 7) 7 4 0 0 (toBytes 8 1) := by unfold isFlit; decide +kernel

/-- PeerMessages: a page that grants a peer; a request that awaits its reply; MGMT's image that is read. -/
theorem wit_peer : (({ sys with sessions := sys.sessions.map fun t => { t with peer := true } } : State).session? 1).map
      (fun t => (sys.grants t false 0, sys.grants t false 255)) = some (true, true) ∧
    (({ sys with requests := [{ link := 2, tag := 9, sess := 1, who := .engine, read := true }] } : State).request? 2 9).isSome = true ∧
    Cmd.type (command 9 64 (1 + 64 * 2 ^ 128)) = 9 ∧ Cmd.arg (command 9 64 (1 + 64 * 2 ^ 128)) 0 1 = 1 ∧
    Cmd.arg (command 9 64 (1 + 64 * 2 ^ 128)) 16 4 = 64 ∧ chans.queue? 1 0 2 ≠ none := by decide +kernel

/-- PeerMessages: a bank that a row operation holds, and one that is free; an error that a request meets; a write that waits. -/
theorem wit_peer_bank : (bank (fun u => { u with rowOp := some (0, 0, 3) }) {} .bnop .bend).bankBusy
      { home := .here (bankPa 0 0 0 0 0), off := 0, len := 8 } = true ∧
    sys.bankBusy { home := .here (bankPa 0 0 0 0 0), off := 0, len := 8 } = false ∧
    (∃ e ∈ ({ sys with errors := [(70, 3)] } : State).errors, 64 ≤ e.1 ∧ e.1 < 64 + 8 ∧ e.2 % 4 = 3) ∧
    (∃ k ∈ ({ sys with lateWrites := [(1, 64, [7])] } : State).lateWrites, k.1 = 1) ∧ 64 + 8 ≤ Config.tableArea ∧
    (sys.session? 1).map (·.noRoom) = some false := by decide +kernel

/-- TableLoads: a load to start, with a header of kind 1 of one slot, and the header of zeros that fails; one to end. -/
def tload (h : Nat) : State :=
  let s := (sys.writeNat 64 16 h).modCtx 0 0 fun c => { c with tableQ := [{ ptr := 64, slot := 3 }] }
  { s with arg := { core := 0 } }

theorem wit_table_events : ((tload 0x2_0000_0001).nextLoad 0).map (fun p => (p.1, p.2.ptr)) = some (0, 64) ∧
    ((tload 0x2_0000_0001).checkRange 1 .engRead 2 64 0 16).1 = [{ home := .here 64, off := 0, len := 16, va := 64 }] ∧
    (tload 0x2_0000_0001).readNat 64 16 = 0x2_0000_0001 ∧ (tload 0).readNat 64 16 % 4 = 0 ∧ (tload 0).slotForeign 0 3 1 = false ∧
    ((tload 0).checkRange 1 .engRead (16384 / 256 + 2) (64 + 16) 0 16384).1 = [{ home := .here 80, off := 0, len := 16384, va := 80 }] ∧
    Desc.span 1 = 1 ∧ (3#6).toNat + Desc.span 1 ≤ 60 ∧ (tload 0).strandOf 0 0 ≠ none := by decide +kernel

/-- TableLoads: a release that is not met; a body whose reads fail after 64 bytes, and one whose first read does. -/
theorem wit_table_waits : (let a : Access := { id := 0, cls := 0, act := .store }
      let s := sys.modCtx 0 0 fun c => { c with accesses := [a] }
      s.releasedFor 0 { mask := 1, scope := 2, before := 5 } = false) ∧ sys.releasedFor 0 {} = true ∧
    (let at1 : DWord := 0x1FFF_FFC0 + 16
     let k (f : Denied) : Nat := (16 + 0 + (f.eva - at1).toNat) / 64 * 64 - (16 + 0)
     (sys.checkRange 1 .engRead (16384 / 256 + 2) at1 0 16384).2.2.map (fun f => (f.code, k f)) = some (6, 48) ∧
      (sys.checkRange 1 .engRead (48 / 256 + 2) at1 0 48).2.2 = none) ∧
    (sys.checkRange 1 .engRead (16384 / 256 + 2) 0x2000_0010 0 16384).2.2.map (fun f => (f.code, f.eva)) = some (6, 0x2000_0010) := by
  decide +kernel

/-- CopyEvents: a command of one dimension of 8 bytes, in the queue, in the buffer, running, its beat, its end. -/
def copy0 : CopyCmd := { kind := .copy, age := 0, sess := 1, tid := 0, dst := 512, src := 64, shape := BitVec.ofNat 1024 (1 + 8 * 2 ^ 64), issueCyc := 0 }
def copies (f : Chan → Chan) : State := { sys.modChan 0 0 f with cyc := 100, now := 100, arg := { core := 0, chan := 0 } }

theorem wit_copies : AtChan (copies id) 0 0 ∧ Shape.ok copy0.shape.toNat true = true ∧ Shape.ok 0 true = false ∧
    (copies id).stopped 0 = false ∧ ((copies fun k => { k with queue := [copy0] }).chan 0 0).queue = [copy0] ∧
    (let r : CopyRun := { cmd := copy0, started := 1 }
     r.runs = 1 ∧ (r.runAt 0).len = 8 ∧ CopyRun.beatLen (r.runAt 0) 0 = 8 ∧ r.started + 8 ≤ (copies id).now) ∧
    (copies id).releasedFor 0 {} = true ∧ Shape.brep copy0.shape.toNat = false ∧
    ((copies id).checkPartsFor 1 .engRead false [(64, 0, 8)]).1 = [{ home := .here 64, off := 0, len := 8, va := 64 }] ∧
    ((copies id).checkPartsFor 1 .engWrite false [(512, 0, 8)]).1 = [{ home := .here 512, off := 0, len := 8, va := 512 }] ∧
    (copies id).foreignPiece 1 { home := .here 64, off := 0, len := 8, va := 64 } = false ∧
    (copies id).pieceWaits { home := .here 64, off := 0, len := 8, va := 64 } = false ∧
    (copies id).readsFirst 0 {} [{ home := .here 512, off := 0, len := 8, va := 512 }] = false ∧ (copies id).ctxOf? 0 0 = some 0 ∧
    ((copies id).ctx 0 0).doneXfers = [] ∧ (((copies id).ctx 0 0).sys.wmk0.toNat + 1) % 2 ^ 32 = 0 ∧ 0 ≠ (1 : DWord).toNat % 2 ^ 32 := by unfold AtChan; decide +kernel

/-- CopyEvents: a shape of two dimensions for COPYG; a handle for COPYX; a COPYT too far ahead. -/
theorem wit_copies_more : (let x := 2 + 8 * 2 ^ 64 + 1 * 2 ^ 224
      Shape.ndim x = 2 ∧ Shape.ok x true = true) ∧ (0 : DWord).toNat % 4 = 0 ∧ ¬ 0 + 2 ^ 32 < 5 ∧ 0 + 2 ^ 32 < 2 ^ 33 ∧
    (({ sys with handles := [(1, 5, 0)] } : State).handles.find? fun x => x.1 == 1 && x.2.1 == 5) = some (1, 5, 0) := by decide

/-! ### The step -/

/-- StepRunsTheDecoded, BundleTraps, NextBundle: a core that looks at its running context; what it fetches. -/
theorem wit_looks : ∃ s1, LooksAt (State.reset.placeBundle 0) s1 0 :=
  ⟨_, [], rfl, by decide +kernel, by decide +kernel, by decide +kernel, by decide +kernel, rfl⟩

/-- The word of the step's first bundle is in hand as `LooksAt` says: no crew, the registers of before it. -/

def word0 (w : BitVec 256) : State :=
  let a : State := { State.reset.placeBundle w with agenda := [] }
  { a with curCore := 0, curCtx := 0 }.modCur fun k =>
    let k := k.landDue a.now
    { k with out := .done, before := some { sys := k.sys, crew := none } }

theorem wit_bundle : ((word0 0x4028345).fetchBundle).1 = .got 0x4028345 ∧ (legal 0x40028345).isSome = true ∧
    ((legal 0x40028345).map fun l => ((word0 0x40028345).schedule 0x40028345 l, (word0 0x40028345).privilege 0x40028345 l,
      (word0 0x40028345).lateRoutine 0x40028345 l)) = some (none, none, false) ∧ legal 0xFFFFFFFF = none := by decide +kernel

/-- The bundle of ADDI performs, slot by slot. -/
theorem wit_slots : ∃ y, SlotsGo ((word0 0).inOrderOf 0x40028345 ((legal 0x40028345).getD []))
    (word0 0) y := by
  have h : (word0 0).inOrderOf 0x40028345 ((legal 0x40028345).getD []) =
      [{ idx := 0, op := .addi 0 0 5 1 0x145, ext := none }] := by decide +kernel
  rw [h]
  exact ⟨_, rfl, _, rfl, by decide +kernel, rfl⟩

/-- BundleTraps: a fetch that fails, a privileged bundle of a session without SYSTEM. -/
theorem wit_bundle_traps : (match ((word0 0).modCur fun c => { c with pc := 0x20000000 }).fetchBundle.1 with | .bad _ => true | _ => false) = true ∧
    ((legal 0xE6000000).map fun l => ({ word0 0 with sessions := user.sessions } : State).privilege 0xE6000000 l |>.isSome) = some true := by
  decide +kernel

/-- NextBundle: a taken transfer, a level that ends here outside one that goes on, none. -/
theorem wit_next : sys.cur.nextPc = none ∧ sys.cur.hnd = false ∧ sys.cur.wait = .none ∧ sys.cur.exits = false ∧ (at1 fun c => { c with wait := .exit }).cur.exits = true ∧
    (at1 fun c => { c with nextPc := some 64 }).cur.nextPc = some 64 ∧
    (let v : LoopLevel := { depth := 0, start := 0, last := 0 }
     let u : LoopLevel := { depth := 1, start := 0, last := 32 }
     (at1 fun c => { c with loops := [v, u] }).cur.loops = [] ++ v :: [u] ∧ v.last = sys.cur.pc ∧ u.last ≠ sys.cur.pc) := by decide

/-- StepRunsTheDecoded: a microword and a bank word whose turn it is; an event, and a message of each port. -/
theorem wit_turns : (let s := State.reset.placeMicro 0x1000000000000400
      s.agenda = [.micro 0] ∧ (s.core 0).unit.isSome = true ∧ s.unitReady 0 = true ∧
        ((s.core 0).unit.map fun r => (s.halting 0 r, r.entry.kind, r.last, s.cutShort r)) = some (false, .mcall, false, false)) ∧
    (let s := { State.reset.placeMicro 0x1000000000000400 with agenda := [] }
     (match s.microTurn 0 with | .next t => !State.passedWaith 0 s t | _ => false) = true) ∧
    (let s := State.reset.placeBank 0x2E100000
     s.agenda = [.bank 0] ∧ (s.unit 0).cur = some 0 ∧ s.ckpt = none ∧
       (State.slot? (s.unit 0) 0).map (fun b => decide (b.rc < b.len)) = some true) ∧
    encodeWord .checkpoint = none ∧ encodeMicro .checkpoint = none ∧ State.isMessage .checkpoint = true ∧
    State.isMessage .heatDecay = false ∧ ({ port := 2 } : EventArg).port ≠ 1 := by decide +kernel

/-- StepKeepsMemory: the machine after reset has its memory in form. -/
theorem wit_reset : MemOk State.reset :=
  ⟨by decide, by unfold Striped.Wf; decide, by unfold Striped.Wf; decide, by unfold Striped.Wf; decide, nofun, nofun⟩

/-- VectorFrame and the encodings: a vector instruction that completes, instructions of each class that are well formed. -/
theorem wit_frame : (Instr.vadd 0 1 4 5 6).slotKind = some .v ∧ (Instr.exp2 0 4 2 2).slotKind = some .x ∧
    (Instr.addi 0 0 5 1 0x145).slotKind = some .s ∧ (Instr.addi 0 0 5 1 0x145).wf = true ∧
    encodeWord (.addi 0 0 5 1 0x145) = some 0x40028345 ∧ (Instr.clr 0 16).wf = true ∧
    encodeMicro (.clr 0 16) = some 0x1000000000000400 := by decide

/-! ### One step -/

/-- What a step gives, where it goes on. -/
def after (s : State) : Option State := match step s with | .next t => some t | _ => none

/-- 16 R332, 06 R142: ADDI g5, g2, 0xD4 leaves 212 pending for g5 for the next cycle, and the PC is the next bundle's. -/
theorem test_step_addi : (after (State.reset.withFetchWord 32 0x400280D4)).map (fun t =>
    let c := t.ctx 0 0
    (c.pc, c.pend.map fun p => (p.dest, p.data.toNat, p.due))) = some (32, [(.g 5, 212, .cycle 1)]) := by decide +kernel

/-- 06 R150: BRK of a strand without a handler ends its session. -/
theorem test_step_trap : (after (State.reset.withFetchWord 32 0x92000000)).map (fun t =>
    (t.strands.map (·.st), t.sessions.map (·.killed))) = some ([.done], [true]) := by decide +kernel

/-- 06 R149: a word of no instruction is an illegal bundle, and ends the session in the same way. -/
theorem test_step_illegal : (after (State.reset.withFetchWord 32 0xFFFFFFFF)).map (fun t => t.strands.map (·.st)) =
    some [.done] := by decide +kernel

/-- 19 R407: the microword CLR 0, 16 keeps the unit busy for 2 + 8 cycles and goes to the next microword. -/
theorem test_step_micro : (after (State.reset.withFetchWord 64 0x1000000000000400)).map (fun t =>
    ((t.core 0).unit.map fun (r : MRun) => (r.entry.pc, r.busyUntil))) = some (some (1, 10)) := by decide +kernel

/-- 21 R443: BADD, in a word that no other class has, goes to the unit's next instruction. -/
theorem test_step_bank : (after (State.reset.withFetchWord 32 0x2E100000)).map (fun t =>
    (t.unit 0).slots.map fun q => q.2.rc) = some [1] := by decide +kernel

/-- 01 R28: with nothing to do, a step is a cycle. -/
theorem test_step_cycle : (after { State.reset with agenda := [] }).map (·.cyc) = some 1 := by decide +kernel

end Sys2Proof.Tests
end

section
/-! PROOFS. Every step goes on (O58), a step runs what it decodes (O54), the state after reset (O60). -/

namespace Sys2Proof.Machine

/-! ## No instruction, no turn and no cycle stops the machine -/

/-- The outcome is a next state. -/
def GoesOn (o : Out) : Prop := ∃ t, o = .next t

theorem goesOn_next (t : State) : GoesOn (.next t) := ⟨t, rfl⟩

theorem goesOn_ite {p : Prop} [Decidable p] {x y : Out} (hx : GoesOn x) (hy : GoesOn y) : GoesOn (if p then x else y) := by
  split
  · exact hx
  · exact hy

/-- What follows an outcome that goes on goes on, if it does so from every state. -/
theorem goesOn_bind {o : Out} {f : State → Out} :
    GoesOn o → (∀ z, GoesOn (f z)) → GoesOn (match o with | .next z => f z | o => o) := by
  rintro ⟨z, rfl⟩ hf
  exact hf z

theorem privileged_goesOn (pn : BitVec 1) (pk : BitVec 3) (s : State) (f : State → State) : GoesOn (privileged pn pk s f) :=
  goesOn_ite (goesOn_next _) (goesOn_next _)

theorem vcvt_goesOn (q : BitVec 3) (md : RMode) (d a : BitVec 6) (x y : BitVec 4) (s : State) :
    GoesOn (vcvt q md d a x y s) := by
  unfold vcvt
  split <;> exact goesOn_next _

theorem vcvtef_goesOn (q : BitVec 3) (md : RMode) (d a : BitVec 6) (x y : BitVec 4) (s : State) :
    GoesOn (vcvtef q md d a x y s) := by
  unfold vcvtef
  split
  · exact goesOn_ite (goesOn_next _) (goesOn_next _)
  · exact goesOn_next _

theorem execFence_goesOn (m : BitVec 16) (p : BitVec 2) (s : State) : GoesOn (execFence m p s) := by
  simp only [execFence]
  split <;> exact goesOn_next _

/-- Every arm of the dispatch goes on; most give their next state outright. -/
theorem exec_goesOn (i : Instr) (s : State) : GoesOn (exec i s) := by
  cases i with
  | mfs pn pk d i => exact goesOn_ite (goesOn_next _) (goesOn_next _)
  | mts pn pk m a i => exact goesOn_ite (goesOn_next _) (goesOn_next _)
  | tlbi pn pk a => exact privileged_goesOn ..
  | halt pn pk => exact privileged_goesOn ..
  | idle pn pk => exact privileged_goesOn ..
  | csave pn pk a => exact privileged_goesOn ..
  | cload pn pk a => exact privileged_goesOn ..
  | vcvt1 q r d a x y => exact vcvt_goesOn ..
  | vcvt2 q r d a x y => exact vcvt_goesOn ..
  | vcvtef1 q r d a x y => exact vcvtef_goesOn ..
  | vcvtef2 q r d a x y => exact vcvtef_goesOn ..
  | fence m p => exact execFence_goesOn ..
  | _ => exact ⟨_, rfl⟩

namespace State

theorem microTurn_goesOn (s : State) (c : Nat) : GoesOn (s.microTurn c) := by
  unfold microTurn
  split
  · exact goesOn_next _
  · refine goesOn_ite (goesOn_next _) (goesOn_ite (goesOn_next _) (goesOn_ite (goesOn_next _) ?_))
    split
    · split
      · exact exec_goesOn ..
      · exact goesOn_next _
    all_goals exact goesOn_next _

theorem unitTurns_goesOn (c n : Nat) (s : State) : GoesOn (unitTurns c n s) := by
  induction n generalizing s with
  | zero => exact goesOn_next _
  | succ n ih => exact goesOn_bind (microTurn_goesOn s c) fun z => goesOn_ite (ih z) (goesOn_next _)

theorem bankTurn_goesOn (s : State) (ch : Nat) : GoesOn (s.bankTurn ch) := by
  unfold bankTurn
  split
  · exact goesOn_next _
  · exact goesOn_ite (goesOn_next _) (exec_goesOn ..)

theorem rowTurn_goesOn (ch n : Nat) (s : State) : GoesOn (rowTurn ch n s) := by
  induction n generalizing s with
  | zero => exact goesOn_next _
  | succ n ih =>
    obtain ⟨y, hy⟩ := bankTurn_goesOn s ch
    simp only [rowTurn, hy]
    split
    · exact goesOn_next _
    · split
      · exact goesOn_ite (goesOn_next _) (goesOn_next _)
      · refine goesOn_ite (goesOn_next _) ?_
        split
        · exact goesOn_next _
        · exact goesOn_next _
        · exact goesOn_ite (goesOn_next _) (goesOn_next _)
      · exact goesOn_ite (ih _) (goesOn_ite (goesOn_next _) (ih y))

theorem ordinaryTurn_goesOn (s : State) (k : BankKey) : GoesOn (s.ordinaryTurn k) :=
  goesOn_ite (goesOn_next _) (goesOn_bind (exec_goesOn ..) fun _ => goesOn_next _)

theorem beatTurn_goesOn (s : State) (c h : Nat) : GoesOn (s.beatTurn c h) := by
  simp only [beatTurn]
  split
  · exact goesOn_ite (exec_goesOn ..) (ordinaryTurn_goesOn ..)
  · exact exec_goesOn ..

theorem doTurn_goesOn (s : State) (t : Turn) : GoesOn (s.doTurn t) := by
  cases t with
  | event i a => exact goesOn_ite (goesOn_next _) (goesOn_ite (goesOn_next _) (exec_goesOn ..))
  | micro c => exact microTurn_goesOn s c
  | unit c => exact unitTurns_goesOn c _ s
  | bank ch => exact bankTurn_goesOn s ch
  | row ch => exact rowTurn_goesOn ch _ s
  | ordinary k => exact ordinaryTurn_goesOn s k
  | beat c h => exact beatTurn_goesOn s c h
  | issue c => exact goesOn_next _
  | late => exact goesOn_next _
  | retried c u p n => exact goesOn_next _
  | lasting u x p a => exact goesOn_next _

theorem doTurns_goesOn (l : List Turn) (s : State) : GoesOn (s.doTurns l) := by
  induction l generalizing s with
  | nil => exact goesOn_next _
  | cons t r ih => exact goesOn_bind (doTurn_goesOn s t) fun z => ih z.after

theorem takeMessages_goesOn (l : List (Instr × EventArg)) (s : State) : GoesOn (s.takeMessages l) := by
  induction l generalizing s with
  | nil => exact goesOn_next _
  | cons t r ih => exact goesOn_bind (exec_goesOn t.1 _) fun z => ih z.after

theorem cycle_goesOn (s : State) : GoesOn s.cycle :=
  goesOn_bind (takeMessages_goesOn ..) fun y => goesOn_bind (doTurns_goesOn y.cycleTurns y) fun _ => goesOn_next _

end State

theorem step_goesOn (s : State) : GoesOn (step s) := by
  unfold step
  split
  · exact State.doTurns_goesOn ..
  · exact State.cycle_goesOn s

/-- Settles O58: no arm of the dispatch stops, and so neither a turn nor a cycle does. -/
theorem everyStepGoesOn : Obligations.EveryStepGoesOn := step_goesOn

/-! ## After reset -/

theorem State.core_reset (c : Nat) : State.reset.core c = {} := by
  by_cases h : c < 128 <;> simp [State.core, State.reset, h]

theorem State.ctx_reset (c x : Nat) : State.reset.ctx c x = {} := by
  rw [State.ctx, State.core_reset]
  by_cases h : x < 4 <;> simp [h]

theorem Ctx.rg_fresh (n : BitVec 6) : ({} : Ctx).rg n = 0 := by
  simp [Ctx.rg, n.isLt]

/-- Settles O60: the fields of the state after reset, and its contexts, which are all fresh. -/
theorem resetState : Obligations.ResetState := by
  have hctx (c x : Nat) : (State.reset.ctx c x).st = .free ∧ (State.reset.ctx c x).pc = 0 ∧
      (State.reset.ctx c x).sys.tvec = 0 ∧ (State.reset.ctx c x).hnd = false ∧ ∀ n, (State.reset.ctx c x).rg n = 0 := by
    rw [State.ctx_reset]
    exact ⟨rfl, rfl, rfl, rfl, Ctx.rg_fresh⟩
  have hmem : MemOk State.reset := by simp [MemOk, Striped.Wf, State.reset, Memory.wf]
  exact ⟨hmem, rfl, rfl, rfl, rfl, rfl, rfl, rfl, rfl, rfl, rfl, rfl, rfl, rfl, rfl, hctx⟩

end Sys2Proof.Machine
end

section
/-! PROOFS. A step runs the decoded instruction (O54). -/

namespace Sys2Proof.Machine

/-! ## The turn of an agenda -/

/-- A step of a state whose agenda names a turn runs that turn, and what follows it. -/
theorem step_of_turn {s z : State} {u : Turn} {r : List Turn} (ha : s.agenda = u :: r)
    (hu : State.doTurn { s with agenda := r } u = .next z) : step s = .next z.after := by
  simp [step, ha, State.doTurns, hu]

namespace State

/-- A unit that is ready runs the microword that its routine stands at. -/
theorem microTurn_of_decoded {a : State} {c : Nat} {e : MRun} {i : Instr} (hu : (a.core c).unit = some e)
    (hr : a.unitReady c = true) (hl : e.last = false) (hc : a.cutShort e = false) (hh : a.halting c e = false)
    (hk : e.entry.kind = .mcall) (hd : decodeMicro (a.microWord c e) = .ok i) :
    a.microTurn c = exec i { a with curCore := c } := by
  simp [microTurn, hu, hr, hl, hc, hh, hk, hd]

/-- A moment of a unit is over with a turn that took a cycle. -/
theorem unitTurns_of_turn {a t : State} {c n : Nat} (ht : a.microTurn c = .next t) (hp : passedWaith c a t = false) :
    unitTurns c (n + 1) a = .next t := by
  simp [unitTurns, ht, hp]

/-- A bank unit runs the word that its running slot stands at, unless a checkpoint keeps it outside a row operation. -/
theorem bankTurn_of_decoded {a : State} {ch k : Nat} {b : BankSlot} {i : Instr} (hk : (a.unit ch).cur = some k)
    (hb : slot? (a.unit ch) k = some b) (hq : a.ckpt = none ∨ (a.unit ch).rowOp.isSome = true) (hl : b.rc < b.len)
    (hd : decode .bank (a.bankWord ch b b.rc) = .ok i) : a.bankTurn ch = exec i { a with curChan := ch } := by
  have hnext : a.nextBank ch b = i := by
    rw [nextBank, if_neg (by omega), hd]
  have hfree : ¬ (a.ckpt.isSome ∧ (a.unit ch).rowOp.isNone ∧
      !((a.unit ch).guaranteed.any fun g => some g.1 == (a.unit ch).cur)) := by
    rintro ⟨h1, h2, -⟩
    rcases hq with h | h <;> simp_all
  simp only [bankTurn, hk, Option.bind_some, hb, hnext]
  rw [hk] at hfree
  exact if_neg hfree

/-- Of two messages that wait at the arbiter, that of port A goes first; then come the turns of the cycle, and time. -/
theorem cycle_of_two_messages {s y z t : State} {i j : Instr} {g h : EventArg} (hm : s.arrivals = [(i, g), (j, h)])
    (hg : g.port ≠ 1) (hh : h.port = 1) (hy : exec j (withArg { s with arrivals := [] } h) = .next y)
    (hz : exec i (y.after.withArg g) = .next z) (ht : z.after.doTurns z.after.cycleTurns = .next t) :
    s.cycle = .next t.queueBanks.tick := by
  have hall : s.arbitrate = .next z.after := by
    simp [arbitrate, hm, hg, hh, takeMessages, hy, hz]
  simp [cycle, hall, ht]

end State

theorem stepRunsTheTurn : StepRunsTheTurn := by
  intro s t i r a
  refine ⟨?_, ?_, ?_, ?_, ?_⟩
  · intro c e ha hu hr hl hc hh hk hd hi
    exact step_of_turn ha ((State.microTurn_of_decoded hu hr hl hc hh hk hd).trans hi)
  · intro c ha ht hp
    exact step_of_turn ha (State.unitTurns_of_turn ht hp)
  · intro ch k b ha hk hb hq hl hd hi
    exact step_of_turn ha ((State.bankTurn_of_decoded hk hb hq hl hd).trans hi)
  · intro g ha he hm
    have hev : State.isEvent i = true := by simp [State.isEvent, he, hm]
    refine ⟨fun hmsg => step_of_turn ha ?_, fun hmsg hi => step_of_turn ha ?_⟩
    · simp only [State.doTurn, hev, hmsg]
      rfl
    · simp only [State.doTurn, hev, hmsg]
      exact hi
  · intro j g h y z ha hm hg hh hy hz ht
    rw [step, ha]
    exact State.cycle_of_two_messages hm hg hh hy hz ht

/-! ## The issue of a bundle -/

namespace State

/-- Putting a context back changes nothing. -/
theorem modCtx_of_fixed (s : State) (c x : Nat) (f : Ctx → Ctx) (hf : f (s.ctx c x) = s.ctx c x) : s.modCtx c x f = s := by
  have hctxs : (s.core c).ctxs.setIfInBounds x (s.ctx c x) = (s.core c).ctxs := by
    ext i hi
    by_cases h : x = i
    · subst h
      simp [ctx, hi]
    · simp [h]
  have hcores : s.cores.setIfInBounds c (s.core c) = s.cores := by
    ext1 i hi
    by_cases h : c = i
    · subst h
      simp [core, hi]
    · simp [h]
  simp only [modCtx, hf, setCtx, modCore, hctxs, setCore, hcores]

/-- A context that waits for nothing has no stall of a wait to count. -/
theorem waitStall_of_wait_none {s : State} {c x : Nat} (h : (s.ctx c x).wait = .none) : s.waitStall c x = s :=
  modCtx_of_fixed s c x _ (by simp [h])

theorem lookAt_of_not_attemptable {s : State} {c x : Nat} {run : Bool} (h : s.attemptable c x = false) :
    s.lookAt c x run = s := by
  simp [lookAt, h]

/-- No context but the running one is looked at, where each other one is issuable or cannot be looked at. -/
theorem foldl_lookAt_of_idle {s : State} {c run : Nat} (l : List Nat)
    (h : ∀ x ∈ l, x ≠ run → (s.ctx c x).st = .issuable ∨ s.attemptable c x = false) :
    l.foldl (fun s x => if (x != run && (s.ctx c x).st != .issuable) = true then s.lookAt c x false else s) s = s := by
  induction l with
  | nil => rfl
  | cons x l ih =>
    have hx : (if (x != run && (s.ctx c x).st != .issuable) = true then s.lookAt c x false else s) = s := by
      by_cases hr : x = run
      · simp [hr]
      · rcases h x (by simp) hr with h | h
        · simp [h]
        · rw [lookAt_of_not_attemptable h, ite_self]
    rw [List.foldl_cons, hx]
    exact ih fun y hy => h y (by simp [hy])

/-- A slot that a bundle remembers as found satisfied: a wait, a SEND, a RECV or a HALT. -/
def remembered (t : Slot) : Bool := isWait t.op || isCount t.op || isHalt t

/-- Slots that all perform leave no trap, no wait and no hold. -/
theorem doSlots_of_go {l : List Slot} {z y : State} {sat : List Slot} (h : SlotsGo l z y) :
    doSlots l { st := z, sat := sat } = { st := y, sat := sat ++ l.filter remembered } := by
  induction l generalizing z sat with
  | nil =>
    cases h
    simp [doSlots]
  | cons t r ih =>
    obtain ⟨-, m, hm, hout, hr⟩ := h
    have hdo : z.doSlot t = m := by simp only [doSlot, hm]
    have hstep : doSlots (t :: r) { st := z, sat := sat } =
        doSlots r { st := m, sat := if remembered t then sat ++ [t] else sat } := by
      simp only [doSlots, hdo, hout]
      rfl
    rw [hstep, ih hr, List.filter_cons]
    split <;> simp

theorem isHalt_false_of_go {l : List Slot} {z y : State} (h : SlotsGo l z y) : ∀ t ∈ l, isHalt t = false := by
  induction l generalizing z with
  | nil => simp
  | cons t r ih =>
    obtain ⟨ht, m, -, -, hr⟩ := h
    intro u hu
    rcases List.mem_cons.1 hu with rfl | hu
    · exact ht
    · exact ih hr u hu

theorem remembered_of_isCbar {t : Slot} (h : isCbar t.op = true) : remembered t = true := by
  obtain ⟨i, op, e⟩ := t
  cases op with
  | cbar pn pk => rfl
  | _ => exact absurd h Bool.false_ne_true

/-- The CBARs of a bundle are all among the slots that it remembers. -/
theorem any_isCbar_remembered (l : List Slot) : (l.filter remembered).any (isCbar ·.op) = l.any (isCbar ·.op) := by
  rw [Bool.eq_iff_iff]
  simp only [List.any_eq_true, List.mem_filter]
  constructor
  · rintro ⟨t, ⟨ht, -⟩, hc⟩
    exact ⟨t, ht, hc⟩
  · rintro ⟨t, ht, hc⟩
    exact ⟨t, ⟨ht, remembered_of_isCbar hc⟩, hc⟩

/-- The context in hand before an attempt: its due results land, and its slots' view of before the bundle is taken. -/
def poised (b : State) : State :=
  b.modCur fun k =>
    let k := k.landDue b.now
    { k with out := .done, before := some { sys := k.sys, crew := (b.crewOf? b.curAge).map fun w => (w.id, w.episode) } }

/-- An attempt issues a bundle that nothing keeps and whose slots all perform. -/
theorem attempt_of_go {b z y : State} {w : BitVec 256} {l : List Slot} (hf : b.poised.fetchBundle = (.got w, z))
    (hw : legal w = some l) (hs : b.poised.schedule w l = none) (hp : b.poised.privilege w l = none)
    (hr : b.poised.lateRoutine w l = false) (hgo : SlotsGo (b.poised.inOrderOf w l) z y) :
    ∃ sat, b.attempt =
      (y.issueBundle b.poised.cur.pend.length ((b.poised.inOrderOf w l).any (isCbar ·.op)), .issued sat) := by
  have hpass := doSlots_of_go (sat := []) hgo
  have hhalt : (b.poised.inOrderOf w l |>.filter remembered).find? isHalt = none := by
    rw [List.find?_eq_none]
    intro t ht
    simp [isHalt_false_of_go hgo t (List.mem_filter.1 ht).1]
  have hbar := any_isCbar_remembered (b.poised.inOrderOf w l)
  rw [List.nil_append] at hpass
  refine ⟨((b.poised.inOrderOf w l).filter remembered).filter (!isHalt ·), ?_⟩
  rw [← hbar]
  unfold attempt
  dsimp only
  generalize hq : b.modCur _ = q
  obtain rfl : q = b.poised := hq.symm
  simp [hf, hw, hs, hp, hr, hpass, hhalt]
  rfl

/-- Looking at an issuable context whose bundle issues is that issue. -/
theorem lookAt_of_issued {a z : State} {c x : Nat} {sat : List Slot} (ha : a.attemptable c x = true)
    (hst : (a.ctx c x).st = .issuable) (h : State.attempt { a with curCore := c, curCtx := x } = (z, .issued sat)) :
    a.lookAt c x true = z.modCore c fun k => { k with thawTo := none } := by
  have hcur : (State.cur { a with curCore := c, curCtx := x }).st = .issuable := hst
  simp only [lookAt, ha, h, hcur]
  rfl

/-- A cycle of issue in which only the running context can be looked at. -/
theorem issueCore_of_idle {a : State} {c : Nat} (hsw : (a.core c).switching = 0)
    (hwait : (a.ctx c (a.core c).running).wait = .none)
    (hidle : ∀ x < 4, x ≠ (a.core c).running → (a.ctx c x).st = .issuable ∨ a.attemptable c x = false) :
    a.issueCore c = a.lookAt c (a.core c).running true := by
  have hfold := foldl_lookAt_of_idle (List.range 4) fun x hx => hidle x (List.mem_range.1 hx)
  simp only [issueCore, hfold, hsw, waitStall_of_wait_none hwait, if_true]

end State

theorem stepRunsTheBundle : StepRunsTheBundle := by
  rintro s s1 z y c w l ⟨r, ha, hidle, hsw, hatt, hst, rfl⟩ hf hw hs hp hr hgo
  refine step_of_turn ha (congrArg Host.Outcome.next ?_)
  have hwait : (State.ctx { s with agenda := r } c (State.core { s with agenda := r } c).running).wait = .none := by
    simp only [State.attemptable, Bool.and_eq_true, beq_iff_eq] at hatt
    exact hatt.1.1.1.2
  obtain ⟨sat, hissue⟩ := State.attempt_of_go hf hw hs hp hr hgo
  exact (State.issueCore_of_idle hsw hwait hidle).trans (State.lookAt_of_issued hatt hst hissue)

/-- Settles O54: the bundle's slots one after another, and the turns of the other agents. -/
theorem stepRunsTheDecoded : Obligations.StepRunsTheDecoded := ⟨stepRunsTheBundle, stepRunsTheTurn⟩

end Sys2Proof.Machine
end

section
/-! PROOFS. What leaves the module leaves the rest of the state as it was; the bytes of messages and flits (01 R14 to R23,
02 R33, R34). -/

namespace Sys2Proof

/-! ## Bytes of numbers -/

@[simp] theorem length_toBytes (n x : Nat) : (toBytes n x).length = n := by
  induction n generalizing x with
  | zero => rfl
  | succ n ih => simp [toBytes, ih]

theorem ofBytes_toBytes (n x : Nat) : ofBytes (toBytes n x) = x % 256 ^ n := by
  induction n generalizing x with
  | zero => simp [toBytes, ofBytes, Nat.mod_one]
  | succ n ih =>
    have hpow : 256 ^ (n + 1) = 256 * 256 ^ n := pow_succ' ..
    rw [toBytes, ofBytes, ih, BitVec.toNat_ofNat, hpow, Nat.mod_mul]

namespace Machine

/-! ## Sending touches the links and what has left the module, and draws free values -/

/-- `t` differs from `s` in its links, in what has left the module and in the free values drawn, at most. -/
def SendsOnly (s t : State) : Prop := t = { s with links := t.links, sent := t.sent, drawn := t.drawn }

namespace SendsOnly

theorem refl (s : State) : SendsOnly s s := rfl

theorem trans {s t u : State} (h : SendsOnly s t) (g : SendsOnly t u) : SendsOnly s u :=
  Eq.trans g (congrArg (fun x : State => { x with links := u.links, sent := u.sent, drawn := u.drawn }) h)

/-- What a field, or any reading of the state, gives apart from the links. -/
theorem same {α : Sort _} {s t : State} (h : SendsOnly s t) (f : State → α)
    (hf : ∀ l n d, f { s with links := l, sent := n, drawn := d } = f s) : f t = f s := by
  rw [h, hf]

variable {s t : State}

theorem mem (h : SendsOnly s t) : t.mem = s.mem := h.same _ fun _ _ _ => rfl
theorem port (h : SendsOnly s t) (p : Nat) : t.port p = s.port p := h.same (State.port · p) fun _ _ _ => rfl
theorem ports (h : SendsOnly s t) : t.ports = s.ports := h.same _ fun _ _ _ => rfl
theorem burgee (h : SendsOnly s t) : t.burgee = s.burgee := h.same _ fun _ _ _ => rfl
theorem sameBytes (h : SendsOnly s t) : SameBytes s t := fun a => congrArg (memGet · a) h.mem

end SendsOnly

namespace State

theorem modLink_sendsOnly (s : State) (l : Nat) (f : Link → Link) : SendsOnly s (s.modLink l f) := rfl

theorem sendIdle_sendsOnly (s : State) (l : Nat) : SendsOnly s (s.sendIdle l) := by
  unfold sendIdle
  split <;> rfl

theorem emit_sendsOnly (s : State) (f : Sent) : SendsOnly s (s.emit f) := by
  unfold emit
  dsimp only
  split
  · exact SendsOnly.trans (t := State.modLink { s with sent := s.sent ++ [f] } f.link _) rfl (sendIdle_sendsOnly ..)
  · rfl

theorem sendFlit_sendsOnly (s : State) (l : Nat) (r : BitVec 16) (f : Nat × List Byte) : SendsOnly s (s.sendFlit l r f) :=
  SendsOnly.trans (t := State.modLink { s with drawn := s.drawn + 1 } l _) rfl (emit_sendsOnly ..)

theorem sendNow_sendsOnly (s : State) (l : Nat) (r : BitVec 16) (m : List Byte) : SendsOnly s (s.sendNow l r m).1 :=
  Laws.Memory.foldl_keeps (SendsOnly s) _ (fun _ _ h => h.trans (sendFlit_sendsOnly ..)) _ (.refl s)

theorem sendMsg_sendsOnly (s : State) (l : Nat) (r : BitVec 16) (m : List Byte) : SendsOnly s (s.sendMsg l r m) := by
  unfold sendMsg
  split
  · exact sendNow_sendsOnly ..
  · rfl

theorem toHost_sendsOnly (s : State) (p c : Nat) (m : List Byte) : SendsOnly s (s.toHost p c m) := sendMsg_sendsOnly ..

theorem respond_sendsOnly (s : State) (p : Nat) (m : List Byte) (q st fl : Nat) : SendsOnly s (s.respond p m q st fl) :=
  toHost_sendsOnly ..

theorem hostWrite_sendsOnly (s : State) (p a : Nat) (b : List Byte) : SendsOnly s (s.hostWrite p a b) :=
  Laws.Memory.foldl_keeps (SendsOnly s) _ (fun _ _ h => h.trans (toHost_sendsOnly ..)) _ (.refl s)

/-! ## Ports and links after an update -/

theorem port_modPort (s : State) {p : Nat} (hp : p = 1 ∨ p = 2) (f : Port → Port) : (s.modPort p f).port p = f (s.port p) := by
  rcases hp with rfl | rfl <;> simp [port, modPort]

theorem link_modLink (s : State) {l : Nat} (hl : l < 18) (f : Link → Link) : (s.modLink l f).link l = f (s.link l) := by
  simp [link, modLink, hl]

theorem sendIdle_link (s : State) {l : Nat} (hl : l < 18) :
    ∃ a b, (s.sendIdle l).link l = { s.link l with sinceIdle := a, lastIdle := b } := by
  unfold sendIdle
  split
  · exact ⟨0, s.now, link_modLink _ hl _⟩
  · exact ⟨_, _, rfl⟩

theorem emit_link (s : State) {l : Nat} (hl : l < 18) (b : List Byte) :
    ∃ x y, (s.emit ⟨l, b⟩).link l = { s.link l with sinceIdle := x, lastIdle := y } := by
  have h1 := link_modLink { s with sent := s.sent ++ [⟨l, b⟩] } hl fun k => { k with sinceIdle := k.sinceIdle + 1 }
  unfold emit
  dsimp only
  split
  · obtain ⟨x, y, h⟩ := sendIdle_link (State.modLink { s with sent := s.sent ++ [⟨l, b⟩] } l
      fun k => { k with sinceIdle := k.sinceIdle + 1 }) hl
    exact ⟨x, y, by rw [h, h1]; rfl⟩
  · exact ⟨_, _, h1⟩

/-- A flit that leaves stands at the end of the replay buffer, with the SEQ that was next. -/
theorem sendFlit_link (s : State) {l : Nat} (hl : l < 18) (r : BitVec 16) (f : Nat × List Byte) :
    ∃ x y c, (s.sendFlit l r f).link l = { s.link l with
      sinceIdle := x, lastIdle := y, nextSeq := (s.link l).nextSeq + 1
      replay := (s.link l).replay ++ [((s.link l).nextSeq, flitBytes (s.link l).nextSeq f.1 r (s.link l).ack c f.2)] } := by
  obtain ⟨x, y, h⟩ := emit_link (State.modLink { s with drawn := s.drawn + 1 } l fun k => { k with
    replay := k.replay ++ [((s.link l).nextSeq, flitBytes (s.link l).nextSeq f.1 r (s.link l).ack
      ((Config.freeWord s.drawn).toNat % 65536) f.2)]
    nextSeq := (s.link l).nextSeq + 1 }) hl
    (flitBytes (s.link l).nextSeq f.1 r (s.link l).ack ((Config.freeWord s.drawn).toNat % 65536) f.2)
  rw [link_modLink _ hl] at h
  exact ⟨x, y, _, h⟩

end State

/-! ## Messages of one flit -/

theorem fragmentsOf_short {m : List Byte} (h : m.length ≤ 232) : fragmentsOf m = [(4, m)] := by
  simp [fragmentsOf, fragments, h]

/-- The payload of a flit follows its 16 bytes of header. -/
theorem flitBytes_payload (q : BitVec 32) (k : Nat) (r : BitVec 16) (a : BitVec 32) (c : Nat) {m : List Byte}
    (h : m.length = 48) : ((flitBytes q k r a c m).drop 16).take 48 = m := by
  have hpad : padTo 232 m = m ++ List.replicate 184 0 := by
    rw [padTo, h, List.take_of_length_le]
    rw [List.length_append, h, List.length_replicate]
  simp only [flitBytes, hpad]
  rw [← List.append_assoc, List.append_assoc _ (List.replicate 184 (0 : Byte)), List.append_assoc _ m,
    List.drop_left' (by simp), List.take_left' h]

/-- A message of 48 bytes leaves as one flit. -/
theorem sendNow_short (s : State) {l : Nat} (hl : l < 18) (r : BitVec 16) {m : List Byte} (hm : m.length = 48) :
    (s.sendNow l r m).2 = (s.link l).nextSeq ∧
      ((((s.sendNow l r m).1.link l).replay.getLast?).map fun f => (f.2.drop 16).take 48) = some m := by
  obtain ⟨x, y, c, h⟩ := s.sendFlit_link hl r (4, m)
  have hs : s.sendNow l r m = (s.sendFlit l r (4, m), ((s.sendFlit l r (4, m)).link l).nextSeq - 1) := by
    simp [State.sendNow, fragmentsOf_short (hm.trans_le (by decide))]
  rw [hs]
  dsimp only
  rw [h]
  simp [flitBytes_payload _ _ _ _ _ hm]

theorem linkFits_short {s : State} {l : Nat} {m : List Byte} (hm : m.length ≤ 232) (hb : (s.link l).backlog = [])
    (hr : 1 ≤ (s.link l).room) : s.linkFits l m = true := by
  simp [State.linkFits, hb, fragmentsOf_short hm, hr]

end Machine
end Sys2Proof
end

section
/-! PROOFS. The management registers and the completion ring (02 R34 to R38, R55, R56): O38. -/

namespace Sys2Proof.Machine

/-! ## The fields of a register message (02 R34) -/

section
variable (op off : Nat) (v : DWord)

/-- The message by its parts: operation, offset, value. -/
theorem regMsg_eq : regMsg op off v = BitVec.ofNat 8 op :: List.replicate 7 0 ++
    [BitVec.ofNat 8 off, BitVec.ofNat 8 (off / 256)] ++ List.replicate 6 0 ++ toBytes 8 v.toNat := rfl

theorem field_regMsg_value : field (regMsg op off v) 16 8 = v.toNat := by
  rw [field, regMsg_eq, List.drop_left' (by simp), List.take_of_length_le (by simp), ofBytes_toBytes]
  exact Nat.mod_eq_of_lt v.isLt

theorem field_regMsg_op (h : op ≤ 1) : field (regMsg op off v) 0 1 = op := by
  simp only [field, regMsg_eq]
  simp [ofBytes]
  omega

theorem field_regMsg_off (h : off < 65536) : field (regMsg op off v) 8 2 = off := by
  simp only [field, regMsg_eq]
  simp [ofBytes, List.replicate_succ]
  omega

theorem registerOk_regMsg (h : op ≤ 1) : State.registerOk (regMsg op off v) = true := by
  have h1 : field (regMsg op off v) 1 7 = 0 := by
    simp only [field, regMsg_eq]
    simp [ofBytes, List.replicate_succ]
  have h2 : field (regMsg op off v) 10 6 = 0 := by
    simp only [field, regMsg_eq]
    simp [ofBytes, List.replicate_succ]
  have h3 : (regMsg op off v).length = 24 := by simp [regMsg]
  simp [State.registerOk, field_regMsg_op op off v h, h, h1, h2, h3]

end

/-! ## What a register message does (02 R34 to R38) -/

namespace State

/-- The reply to a message: its first 16 bytes and a value. -/
def regReply (s : State) (p : Nat) (m : List Byte) (v : Nat) : State := s.toHost p 3 (m.take 16 ++ toBytes 8 v)

variable {s : State} {p off : Nat} {v : DWord}

/-- A read outside Pennant state: the register's value after what the read takes. -/
theorem registerEvent_read {k : Nat} (h : Heard s p (regMsg 0 off v)) (hoff : off < 65536)
    (hk : registerKind (regMsg 0 off v) = k) :
    s.registerEvent k = (s.regRead p off).regReply p (regMsg 0 off v) ((s.regRead p off).regValue p off) := by
  obtain ⟨rfl, hp, hm, hmode⟩ := h
  rw [registerEvent, hm, if_pos ⟨hk, hp⟩]
  simp [registerAccess, registerOk_regMsg, field_regMsg_op, field_regMsg_off, hoff, hmode, regReply]

/-- A write outside Pennant state: what it writes, and a reply. -/
theorem registerEvent_write {k : Nat} (h : Heard s p (regMsg 1 off v)) (hoff : off < 65536)
    (hk : registerKind (regMsg 1 off v) = k) :
    s.registerEvent k = (s.regWrite p off v.toNat).regReply p (regMsg 1 off v) ((s.regWrite p off v.toNat).regValue p off) := by
  obtain ⟨rfl, hp, hm, hmode⟩ := h
  rw [registerEvent, hm, if_pos ⟨hk, hp⟩]
  simp [registerAccess, registerOk_regMsg, field_regMsg_op, field_regMsg_off, field_regMsg_value, hoff, hmode, regReply]

theorem registerKind_regMsg {op : Nat} : op ≤ 1 → off < 65536 → registerKind (regMsg op off v) =
      match off, op with
      | 0, 0 => 0
      | 0, _ => 1
      | 0x20, 1 => 2
      | 0x28, 1 => 3
      | _, _ => 4 := by
  intro hop hoff
  simp only [registerKind, registerOk_regMsg _ _ _ hop, field_regMsg_op _ _ _ hop, field_regMsg_off _ _ _ hoff]
  rfl

theorem regReply_sendsOnly (s : State) (p : Nat) (m : List Byte) (v : Nat) : SendsOnly s (s.regReply p m v) :=
  toHost_sendsOnly ..

/-- The powers of two that CRSIZE admits (02 R38). -/
theorem crsize_admits (x : Nat) : (¬ (x < 64 ∨ 65536 < x ∨ (!powerOfTwo x) = true)) ↔ ∃ k, 6 ≤ k ∧ k ≤ 16 ∧ x = 2 ^ k := by
  simp only [powerOfTwo, not_or, Nat.not_lt, Bool.not_eq_true', Bool.not_eq_false, List.any_eq_true, List.mem_range, beq_iff_eq]
  constructor
  · rintro ⟨hlo, -, k, hk, rfl⟩
    refine ⟨k, ?_, by omega, rfl⟩
    by_contra h
    have := Nat.pow_le_pow_right (n := 2) (by omega) (show k ≤ 5 by omega)
    omega
  · rintro ⟨k, hlo, hhi, rfl⟩
    exact ⟨Nat.pow_le_pow_right (n := 2) (by omega) hlo, Nat.pow_le_pow_right (n := 2) (by omega) hhi, k, by omega, rfl⟩

/-- A write of CRBASE: only where every position is done, and to a multiple of 64. -/
theorem regWrite_crbase (hp : p = 1 ∨ p = 2) : ((s.regWrite p 0x20 v.toNat).port p) =
    if (s.port p).notDone = [] ∧ v.toNat % 64 = 0 then { s.port p with crbase := v, nextPos := 0 } else s.port p := by
  by_cases h : (s.port p).notDone = [] ∧ v.toNat % 64 = 0
  · simp [regWrite, h, port_modPort _ hp]
  · have h' : (s.port p).notDone ≠ [] ∨ v.toNat % 64 ≠ 0 := by tauto
    simp only [regWrite, if_neg h, if_pos h']

/-- A write of CRSIZE: only where every position is done, and to a power of two from 64 to 65,536. -/
theorem regWrite_crsize (hp : p = 1 ∨ p = 2) :
    ((s.port p).notDone = [] → (∃ k, 6 ≤ k ∧ k ≤ 16 ∧ v.toNat = 2 ^ k) →
      (s.regWrite p 0x28 v.toNat).port p = { s.port p with crsize := v, nextPos := 0 }) ∧
    ((s.port p).notDone ≠ [] ∨ (¬ ∃ k, 6 ≤ k ∧ k ≤ 16 ∧ v.toNat = 2 ^ k) → (s.regWrite p 0x28 v.toNat).port p = s.port p) := by
  rw [← crsize_admits]
  constructor
  · intro hd hk
    have h : ¬ ((s.port p).notDone ≠ [] ∨ v.toNat < 64 ∨ 65536 < v.toNat ∨ (!powerOfTwo v.toNat) = true) := by tauto
    simp only [regWrite, if_neg h, port_modPort _ hp, BitVec.ofNat_toNat, BitVec.setWidth_eq]
  · intro hd
    have h : (s.port p).notDone ≠ [] ∨ v.toNat < 64 ∨ 65536 < v.toNat ∨ (!powerOfTwo v.toNat) = true := by tauto
    simp only [regWrite, if_pos h]

/-- A write of BURGEE gives it up where the port holds it and the value's low bits are 0 (02 R35). -/
theorem regWrite_burgee : (s.regWrite p 0 v.toNat).burgee = (if s.burgee.toNat = p ∧ v.toNat % 4 = 0 then 0 else s.burgee) ∧
    SameBytes s (s.regWrite p 0 v.toNat) := by
  have hbits : bits v.toNat 1 0 = v.toNat % 4 := by simp [bits]
  simp only [regWrite, hbits]
  by_cases h : s.burgee.toNat = p ∧ v.toNat % 4 = 0
  · rw [if_pos h, if_pos ⟨h.2, h.1⟩]
    exact ⟨rfl, fun _ => rfl⟩
  · rw [if_neg h, if_neg fun h' => h ⟨h'.2, h'.1⟩]
    exact ⟨rfl, fun _ => rfl⟩

/-- The registers that only give their value. -/
theorem regValue_cases (s : State) (p : Nat) : ∀ r ∈ [(0x08, p), (0x10, (match s.mode with
      | .bringUp => 0 | .ready => 1 | .pennant => 2 | .restarting => 3) + (if s.timeOk then 4 else 0)),
      (0x18, s.epoch.toNat), (0x20, (s.port p).crbase.toNat), (0x28, (s.port p).crsize.toNat), (0x30, (s.port p).crcons.toNat)],
    s.regValue p r.1 = r.2 ∧ s.regRead p r.1 = s ∧ r.1 < 65536 ∧ r.1 ≠ 0 := by
  have hstate : s.stateReg = (match s.mode with
      | .bringUp => 0 | .ready => 1 | .pennant => 2 | .restarting => 3) + (if s.timeOk then 4 else 0) := by
    unfold stateReg
    cases s.timeOk <;> rfl
  simp [regValue, regRead, hstate]

end State

/-! ## The completion ring (02 R55, R56) -/

namespace State

/-- A position that is not done, after position `x` has been written with the SEQ `f`. -/
def written (x : Nat) (f : BitVec 32) (y : Nat × List Byte × Option (BitVec 32)) : Nat × List Byte × Option (BitVec 32) :=
  if y.1 = x then (y.1, y.2.1, some f) else y

@[simp] theorem written_self (x : Nat) (f : BitVec 32) (w : List Byte) (o : Option (BitVec 32)) :
    written x f (x, w, o) = (x, w, some f) := if_pos rfl

theorem map_written_of_ne {x : Nat} {l : List (Nat × List Byte × Option (BitVec 32))} (f : BitVec 32)
    (h : ∀ y ∈ l, y.1 ≠ x) : l.map (written x f) = l :=
  (List.map_congr_left fun y hy => if_neg (h y hy)).trans (List.map_id _)

/-- A ring position's write leaves as one flit, and its SEQ stands with the position. -/
theorem sendRecord_short (s : State) {p : Nat} (hp : p = 1 ∨ p = 2) (x : Nat) {m : List Byte} (hm : m.length = 48) :
    (s.sendRecord p x m).port p = { s.port p with notDone := (s.port p).notDone.map (written x (s.link (15 + p)).nextSeq) } ∧
    (((s.sendRecord p x m).link (15 + p)).replay.getLast?.map fun f => (f.2.drop 16).take 48) = some m := by
  obtain ⟨hq, hl⟩ := sendNow_short s (l := 15 + p) (by omega) 2 hm
  have hport := (sendNow_sendsOnly s (15 + p) 2 m).port p
  constructor
  · simp only [sendRecord, portLink, port_modPort _ hp, hport, hq]
    rfl
  · exact hl

theorem length_ringMsg (t : Port) (x : Nat) {w : List Byte} (h : w.length = 32) : (ringMsg t x w).length = 48 := by
  simp [ringMsg, h]

/-- PHASE changes byte 18 of a record alone. -/
theorem phased_parts (t : Port) (x : Nat) {r : List Byte} (h : r.length = 32) :
    (phased t x r).length = 32 ∧ (phased t x r).take 18 = r.take 18 ∧ (phased t x r).drop 19 = r.drop 19 := by
  have h18 : (r.take 18).length = 18 := by simp [h]
  refine ⟨by simp [phased, h], ?_, ?_⟩
  · rw [phased, List.append_assoc, List.take_left' h18]
  · rw [phased, List.drop_left' (by simp [h])]

/-- The lowest open position: the first that is not done, or the next one. -/
theorem firstOpen_full (t : Port) (hn : t.crsize.toNat ≠ 0) :
    firstOpen t + t.crsize.toNat ≤ t.nextPos ↔ ∃ y ∈ t.notDone.head?, y.1 + t.crsize.toNat ≤ t.nextPos := by
  unfold firstOpen
  cases t.notDone with
  | nil => simp [hn]
  | cons y r => simp

section
variable {s : State} {p : Nat}

/-- A position that has still to be written again goes first. -/
theorem post_again {x : Nat} {w : List Byte} {l r : List (Nat × List Byte × Option (BitVec 32))}
    (hmode : s.mode ≠ .pennant) (hd : (s.port p).notDone = l ++ (x, w, none) :: r) (hl : ∀ y ∈ l, y.2.2 ≠ none)
    (hb : (s.link (15 + p)).backlog = []) (hr : 1 ≤ (s.link (15 + p)).room) (hw : w.length = 32) :
    s.post p = s.sendRecord p x (ringMsg (s.port p) x w) := by
  have hfind : (s.port p).notDone.find? (fun x => x.2.2.isNone) = some (x, w, none) := by
    rw [hd, List.find?_append, List.find?_eq_none.2 (by simpa using hl)]
    rfl
  have hfits : s.linkFits (portLink p) (ringMsg (s.port p) x w) = true :=
    linkFits_short ((length_ringMsg _ x hw).trans_le (by decide)) hb hr
  simp [post, hmode, hfind, hfits]

/-- Nothing leaves where there is no ring, or no room in it. -/
theorem post_full {q : Nat} {r : List Byte} {rest : List (Nat × List Byte)} (hwait : (s.port p).waiting = (q, r) :: rest)
    (hd : ∀ y ∈ (s.port p).notDone, y.2.2 ≠ none)
    (hfull : (s.port p).crsize.toNat = 0 ∨ (s.port p).crcons.toNat + (s.port p).crsize.toNat ≤ (s.port p).nextPos ∨
      ∃ y ∈ (s.port p).notDone.head?, y.1 + (s.port p).crsize.toNat ≤ (s.port p).nextPos) : s.post p = s := by
  have hfind : (s.port p).notDone.find? (fun x => x.2.2.isNone) = none :=
    List.find?_eq_none.2 (by simpa using hd)
  simp only [post, hfind, hwait]
  split
  · rfl
  · refine if_pos ?_
    by_cases hn : (s.port p).crsize.toNat = 0
    · exact .inl hn
    · rw [firstOpen_full _ hn]
      rcases hfull with h | h | h
      · exact .inl h
      · exact .inr (.inl h)
      · exact .inr (.inr (.inl h))

/-- With every position written and room in the ring, the first waiting record gets the next position and leaves. -/
theorem post_next (hp : p = 1 ∨ p = 2) {q : Nat} {r : List Byte} {rest : List (Nat × List Byte)}
    (hwait : (s.port p).waiting = (q, r) :: rest)
    (hd : ∀ y ∈ (s.port p).notDone, y.2.2 ≠ none ∧ y.1 < (s.port p).nextPos) (hmode : s.mode ≠ .pennant)
    (hn : (s.port p).crsize.toNat ≠ 0)
    (hfull : ¬ ((s.port p).crcons.toNat + (s.port p).crsize.toNat ≤ (s.port p).nextPos ∨
      ∃ y ∈ (s.port p).notDone.head?, y.1 + (s.port p).crsize.toNat ≤ (s.port p).nextPos))
    (hb : (s.link (15 + p)).backlog = []) (hroom : 1 ≤ (s.link (15 + p)).room) (hr : r.length = 32) :
    let x := (s.port p).nextPos
    let w := phased (s.port p) x r
    (s.post p).port p = { s.port p with
      waiting := rest, nextPos := x + 1, notDone := (s.port p).notDone ++ [(x, w, some (s.link (15 + p)).nextSeq)] } ∧
    ((((s.post p).link (15 + p)).replay.getLast?).map fun f => (f.2.drop 16).take 48) = some (ringMsg (s.port p) x w) := by
  intro x w
  have hlen : (ringMsg (s.port p) x w).length = 48 := length_ringMsg _ _ (phased_parts (s.port p) x hr).1
  have hfits : s.linkFits (portLink p) (ringMsg (s.port p) x w) = true :=
    linkFits_short (hlen.trans_le (by decide)) hb hroom
  have hfind : (s.port p).notDone.find? (fun x => x.2.2.isNone) = none :=
    List.find?_eq_none.2 (by simpa using fun a b c h => (hd (a, b, c) h).1)
  have hopen : ¬ ((s.port p).crsize.toNat = 0 ∨ (s.port p).crcons.toNat + (s.port p).crsize.toNat ≤ x ∨
      firstOpen (s.port p) + (s.port p).crsize.toNat ≤ x ∨ (!s.linkFits (portLink p) (ringMsg (s.port p) x w)) = true) := by
    rw [firstOpen_full _ hn, hfits]
    rintro (h | h | h | h)
    · exact hn h
    · exact hfull (.inl h)
    · exact hfull (.inr h)
    · exact Bool.false_ne_true h
  have hpost : s.post p = (State.modEntry (s.modPort p fun t => { t with
      waiting := rest, nextPos := x + 1, notDone := t.notDone ++ [(x, w, none)] }) p q
        fun j => { j with posted := some x }).sendRecord p x (ringMsg (s.port p) x w) := by
    simp only [post, if_neg hmode, hfind, hwait]
    exact if_neg hopen
  have hmid (f : Journal → Journal) (g : Port → Port) : (State.modEntry (s.modPort p g) p q f).port p = g (s.port p) :=
    port_modPort s hp g
  obtain ⟨hz, hflit⟩ := sendRecord_short (State.modEntry (s.modPort p fun t => { t with
      waiting := rest, nextPos := x + 1, notDone := t.notDone ++ [(x, w, none)] }) p q
        fun j => { j with posted := some x }) hp x hlen
  refine ⟨?_, hpost ▸ hflit⟩
  have hall : ((s.port p).notDone ++ [(x, w, none)]).map (written x (s.link (15 + p)).nextSeq) =
      (s.port p).notDone ++ [(x, w, some (s.link (15 + p)).nextSeq)] := by
    rw [List.map_append, map_written_of_ne _ fun y hy => (hd y hy).2.ne, List.map_singleton, written_self]
  rw [hpost, hz, hmid]
  exact congrArg (fun l => ({ s.port p with waiting := rest, nextPos := x + 1, notDone := l } : Port)) hall

end

end State

theorem exec_completionPost {s : State} {p : Nat} (hport : s.arg.port = p) (hp : p = 1 ∨ p = 2) :
    exec .completionPost s = .next (s.post p) := by
  subst hport
  exact congrArg Host.Outcome.next (if_pos hp)

/-- Settles O38: each register's reads and writes, the first waiting record, and a position that is written again. -/
theorem hostRegisters : Obligations.HostRegisters := by
  refine ⟨?_, ?_, ?_, ?_, ?_, ?_, ?_, ?_⟩
  · intro s p v h
    have hev := State.registerEvent_read h (by decide) (State.registerKind_regMsg (by decide) (by decide))
    obtain ⟨rfl, hp, -, -⟩ := h
    constructor
    · intro hb t
      have hread : s.regRead s.arg.port 0 = t := by simp [State.regRead, hb, t]
      rw [hread] at hev
      refine congrArg Host.Outcome.next (hev.trans ?_)
      rcases hp with hp | hp <;> simp [State.regReply, State.regValue, t, hp]
    · intro hb
      have hread : s.regRead s.arg.port 0 = s := if_neg fun h => hb h.2
      rw [hread] at hev
      exact congrArg Host.Outcome.next hev
  · intro s p v h
    have hev := State.registerEvent_write h (by decide) (State.registerKind_regMsg (by decide) (by decide))
    obtain ⟨hburgee, hbytes⟩ := State.regWrite_burgee (s := s) (p := p) (v := v)
    have hsend := State.regReply_sendsOnly (s.regWrite p 0 v.toNat) p (regMsg 1 0 v) ((s.regWrite p 0 v.toNat).regValue p 0)
    exact ⟨_, congrArg Host.Outcome.next hev, fun a => (hsend.sameBytes a).trans (hbytes a), hsend.burgee.trans hburgee⟩
  · intro s p v h
    have hev := State.registerEvent_write h (by decide) (State.registerKind_regMsg (by decide) (by decide))
    exact ⟨_, congrArg Host.Outcome.next hev, ((State.regReply_sendsOnly ..).port p).trans (State.regWrite_crbase h.2.1)⟩
  · intro s p v h
    have hev := State.registerEvent_write h (by decide) (State.registerKind_regMsg (by decide) (by decide))
    obtain ⟨hyes, hno⟩ := State.regWrite_crsize (s := s) (v := v) h.2.1
    exact ⟨_, congrArg Host.Outcome.next hev, fun hd hk => ((State.regReply_sendsOnly ..).port p).trans (hyes hd hk),
      fun hd => ((State.regReply_sendsOnly ..).port p).trans (hno hd)⟩
  · intro s p v h
    have hev := State.registerEvent_write h (by decide) (State.registerKind_regMsg (by decide) (by decide))
    refine ⟨_, congrArg Host.Outcome.next hev, ((State.regReply_sendsOnly ..).port p).trans ?_⟩
    simp [State.regWrite, State.port_modPort _ h.2.1]
  · intro s p v r hr h
    obtain ⟨hval, hread, hoff, hne⟩ := s.regValue_cases p r hr
    have hkind : State.registerKind (regMsg 0 r.1 v) = 4 := by
      rw [State.registerKind_regMsg (by decide) hoff]
      split <;> simp_all
    have hev := State.registerEvent_read h hoff hkind
    rw [hread, hval] at hev
    obtain ⟨rfl, -, -, -⟩ := h
    exact congrArg Host.Outcome.next hev
  · intro s p q r rest hport hp hwait hd
    dsimp only
    rw [exec_completionPost hport hp]
    refine ⟨fun hfull => congrArg _ (State.post_full hwait (fun y hy => (hd y hy).1) hfull), ?_⟩
    intro hn hmode hfull hb hroom hr
    obtain ⟨hz, hflit⟩ := State.post_next hp hwait hd hmode hn hfull hb hroom hr
    obtain ⟨-, htake, hdrop⟩ := State.phased_parts (s.port p) (s.port p).nextPos hr
    exact ⟨_, _, rfl, by rw [hz], by rw [hz], by rw [hz], htake, hdrop, hflit⟩
  · intro s p x w l r hport hp hmode hd hl hr hb hroom hw
    rw [exec_completionPost hport hp, State.post_again hmode hd (fun y hy => (hl y hy).1) hb hroom hw]
    obtain ⟨hz, hflit⟩ := s.sendRecord_short hp x (State.length_ringMsg (s.port p) x hw)
    refine ⟨_, rfl, by rw [hz], ?_, hflit⟩
    rw [hz, hd]
    dsimp only
    rw [List.map_append, List.map_cons, State.written_self, State.map_written_of_ne _ fun y hy => (hl y hy).2,
      State.map_written_of_ne _ hr]

end Sys2Proof.Machine
end

section
/-! PROOFS. The commands that are not taken (02 R48, R49, R52, R58, R482): O39. -/

namespace Sys2Proof.Machine

/-! ## The event of a command message runs the command -/

theorem Cmd.kind_le (m : List Byte) : Cmd.kind m ≤ 18 := by
  have hmin : Nat.min (Cmd.arg m 0 1) 4 ≤ 4 := Nat.min_le_right ..
  unfold Cmd.kind
  split
  case h_1 | h_4 => split <;> omega
  all_goals omega

/-- The event of a kind of command. -/
def Cmd.eventOf (k : Nat) : Instr :=
  match k with
  | 1 => .sessionCreate | 2 => .sessionDestroy | 3 => .map | 4 => .unmap | 5 => .handleRegister | 6 => .handleRelease
  | 7 => .checkpoint | 8 => .restore | 9 => .queryIdentity | 10 => .querySequence | 11 => .queryFaultLog
  | 12 => .queryHeatMap | 13 => .queryAttestation | 14 => .mgmtReset | 15 => .mgmtFirmwareUpdate
  | 16 => .mgmtCoreMapChange | 17 => .mgmtPowerCap | 18 => .mgmtTimeRoot | _ => .launch

theorem Cmd.event_eq (m : List Byte) : Cmd.event m = Cmd.eventOf (Cmd.kind m) := rfl

theorem exec_eventOf (s : State) {k : Nat} (hk : k ≤ 18) : exec (Cmd.eventOf k) s = .next (s.commandEvent k) := by
  interval_cases k <;> rfl

/-- Whatever its kind, a command message that stands at a port runs as that port's command. -/
theorem exec_event {s : State} {p : Nat} {m : List Byte} (hport : s.arg.port = p) (hp : p = 1 ∨ p = 2) (hm : s.arg.msg = m) :
    exec (Cmd.event m) s = .next (s.command p m) := by
  subst hport hm
  rw [Cmd.event_eq, exec_eventOf s (Cmd.kind_le _), State.commandEvent, if_pos ⟨rfl, hp⟩]

/-! ## What the checks of a command find (02 R482) -/

namespace State

/-- A TAG that no accepted command of the port has had. -/
theorem sameTag_of_new {s : State} {p : Nat} {m : List Byte} (h : ∀ t ∈ (s.port p).tags, t.1 ≠ Cmd.tag m) :
    s.sameTag p m = none := by
  rw [sameTag, List.find?_eq_none.2]
  · rfl
  · intro t ht
    simp [h t ht]

/-- A TAG that one of the last 2^20 commands of the port has had. -/
theorem sameTag_of_repeated {s : State} {p : Nat} {m : List Byte} {t : DWord × Nat} (ht : t ∈ (s.port p).tags)
    (htag : t.1 = Cmd.tag m) (hrecent : (s.port p).highest < t.2 + 2 ^ 20)
    (hone : ∀ u ∈ (s.port p).tags, u.1 = Cmd.tag m → u = t) : s.sameTag p m = some t.2 := by
  have hfound : ((s.port p).tags.find? fun u => u.1 == Cmd.tag m && decide ((s.port p).highest < u.2 + 2 ^ 20)) = some t := by
    cases hf : (s.port p).tags.find? fun u => u.1 == Cmd.tag m && decide ((s.port p).highest < u.2 + 2 ^ 20) with
    | none =>
      have := List.find?_eq_none.1 hf t ht
      simp [htag] at this
      omega
    | some u =>
      have hu := List.find?_some hf
      simp only [Bool.and_eq_true, beq_iff_eq] at hu
      rw [hone u (List.mem_of_find?_eq_some hf) hu.1]
  rw [sameTag, hfound]
  rfl

section
variable {s : State} {p : Nat} {m : List Byte}

/-- In Pennant state only a QUERY of the identity or the fault log is taken (02 R58). -/
theorem command_pennant (hmode : s.mode = .pennant) (h : Cmd.headerOk m = false ∨ Cmd.type m ≠ 8) :
    s.command p m = s.respond p m 0 0x19 0 := by
  rw [command, if_pos hmode, pennantCommand, if_neg]
  rintro ⟨hok, htype, -⟩
  rcases h with h | h
  · exact Bool.false_ne_true (h.symm.trans hok)
  · exact h htype

/-- In Pennant state a QUERY within 100 µs of the last is refused (02 R58). -/
theorem command_pennant_soon (hmode : s.mode = .pennant) (hok : Cmd.headerOk m = true) (htype : Cmd.type m = 8)
    (hbody : s.badBody m = false) {t : Nat} (hlast : (s.port p).lastQuery = some t) (hsoon : s.now < t + 110000)
    (hwhat : Cmd.arg m 0 1 = 0 ∨ Cmd.arg m 0 1 = 2) : s.command p m = s.respond p m 0 0x18 0 := by
  have hlate : s.tooSoon (s.port p).lastQuery = true := by simp [tooSoon, hlast, hsoon]
  rw [command, if_pos hmode, pennantCommand, if_pos ⟨hok, htype, hwhat, by simp [hbody]⟩, if_pos hlate]

theorem command_badHeader (hmode : s.mode ≠ .pennant) (hok : Cmd.headerOk m = false) :
    s.command p m = s.respond p m 0 0x10 0 := by
  rw [command, if_neg hmode, hok]
  rfl

theorem command_sameTag (hmode : s.mode ≠ .pennant) (hok : Cmd.headerOk m = true) {q : Nat} (htag : s.sameTag p m = some q) :
    s.command p m = s.respond p m q 0x01 1 := by
  rw [command, if_neg hmode, hok]
  simp only [htag]
  rfl

theorem command_rejected (hmode : s.mode ≠ .pennant) (hok : Cmd.headerOk m = true) (htag : s.sameTag p m = none) {c : Nat}
    (hc : s.rejects p m = some c) : s.command p m = s.respond p m 0 c 0 := by
  rw [command, if_neg hmode, hok]
  simp only [htag, hc]
  rfl

theorem command_accepted (hmode : s.mode ≠ .pennant) (hok : Cmd.headerOk m = true) (htag : s.sameTag p m = none)
    (hc : s.rejects p m = none) : s.command p m = (s.accept p m).runJournal := by
  rw [command, if_neg hmode, hok]
  simp only [htag, hc]
  rfl

/-! The status that rejects a command is that of the first of the steps 4 to 7 that it fails. -/

theorem rejects_of_badBody (h : s.badBody m = true) : s.rejects p m = some 0x10 := by
  simp [rejects, h]

theorem rejects_of_noBurgee (hb : s.badBody m = false) (hn : needsBurgee m = true) (hburgee : s.burgee.toNat ≠ p) :
    s.rejects p m = some 0x11 := by
  simp [rejects, hb, hn, hburgee]

theorem rejects_of_badTarget (hb : s.badBody m = false) (hn : needsBurgee m = false ∨ s.burgee.toNat = p) {c : Nat}
    (hc : s.badTarget m = some c) : s.rejects p m = some c := by
  rcases hn with hn | hn <;> simp [rejects, hb, hn, hc]

theorem rejects_of_journalFull (hb : s.badBody m = false) (hn : needsBurgee m = false ∨ s.burgee.toNat = p)
    (hc : s.badTarget m = none) (hfull : 4194304 ≤ s.journalUsed) : s.rejects p m = some 0x18 := by
  rcases hn with hn | hn <;> simp [rejects, hb, hn, hc, journalMax, hfull]

end

end State

/-- Settles O39: the checks in their order, each with the answer that it gives. -/
theorem commandsTurnedAway : Obligations.CommandsTurnedAway := by
  intro s p m hport hp hm
  dsimp only
  rw [exec_event hport hp hm]
  refine ⟨fun hmode h => congrArg _ (State.command_pennant hmode h),
    fun hmode hok htype hbody t hlast hsoon hwhat =>
      congrArg _ (State.command_pennant_soon hmode hok htype hbody hlast hsoon hwhat), fun hmode => ⟨?_, ?_, ?_⟩⟩
  · exact fun hok => congrArg _ (State.command_badHeader hmode hok)
  · exact fun hok t ht htag hrecent hone =>
      congrArg _ (State.command_sameTag hmode hok (State.sameTag_of_repeated ht htag hrecent hone))
  · intro hok hnew
    have hreject {c : Nat} (hc : s.rejects p m = some c) :
        Host.Outcome.next (s.command p m) = (.next (s.respond p m 0 c 0) : Out) :=
      congrArg _ (State.command_rejected hmode hok (State.sameTag_of_new hnew) hc)
    refine ⟨fun hb => hreject (State.rejects_of_badBody hb),
      fun hb hn hburgee => hreject (State.rejects_of_noBurgee hb hn hburgee),
      fun hb hn => ⟨fun c hc => hreject (State.rejects_of_badTarget hb hn hc), fun hc hfull => ?_⟩⟩
    exact hreject (State.rejects_of_journalFull hb hn hc hfull)

end Sys2Proof.Machine
end

section
/-! PROOFS. The journal order (02 R49 to R52, R61): the acceptance of a command, its completion, and what the entries of the
journal bring about. -/

namespace Sys2Proof.Machine

/-! ## Acceptance and completion touch the ports, the journal and the links -/

/-- `t` differs from `s` in its ports, its journal, its links, what has left the module and the free values drawn, at most. -/
def BooksOnly (s t : State) : Prop :=
  t = { s with ports := t.ports, journal := t.journal, links := t.links, sent := t.sent, drawn := t.drawn }

namespace BooksOnly

theorem refl (s : State) : BooksOnly s s := rfl

theorem trans {s t u : State} (h : BooksOnly s t) (g : BooksOnly t u) : BooksOnly s u :=
  Eq.trans g (congrArg (fun x : State =>
    { x with ports := u.ports, journal := u.journal, links := u.links, sent := u.sent, drawn := u.drawn }) h)

/-- What a reading of the state gives apart from those fields. -/
theorem same {α : Sort _} {s t : State} (h : BooksOnly s t) (f : State → α)
    (hf : ∀ p j l n d, f { s with ports := p, journal := j, links := l, sent := n, drawn := d } = f s) : f t = f s := by
  rw [h, hf]

variable {s t : State}

theorem mem (h : BooksOnly s t) : t.mem = s.mem := h.same _ fun _ _ _ _ _ => rfl
theorem mode (h : BooksOnly s t) : t.mode = s.mode := h.same _ fun _ _ _ _ _ => rfl
theorem ckpt (h : BooksOnly s t) : t.ckpt = s.ckpt := h.same _ fun _ _ _ _ _ => rfl
theorem folding (h : BooksOnly s t) : t.folding = s.folding := h.same _ fun _ _ _ _ _ => rfl
theorem sessions (h : BooksOnly s t) : t.sessions = s.sessions := h.same _ fun _ _ _ _ _ => rfl
theorem strands (h : BooksOnly s t) : t.strands = s.strands := h.same _ fun _ _ _ _ _ => rfl
theorem launches (h : BooksOnly s t) : t.launches = s.launches := h.same _ fun _ _ _ _ _ => rfl
theorem handles (h : BooksOnly s t) : t.handles = s.handles := h.same _ fun _ _ _ _ _ => rfl
theorem cores (h : BooksOnly s t) : t.cores = s.cores := h.same _ fun _ _ _ _ _ => rfl
theorem arr (h : BooksOnly s t) (c i : Nat) : t.arr c i = s.arr c i := h.same (State.arr · c i) fun _ _ _ _ _ => rfl
theorem exchanges (h : BooksOnly s t) : t.exchanges = s.exchanges := h.same _ fun _ _ _ _ _ => rfl
theorem sameBytes (h : BooksOnly s t) : SameBytes s t := fun a => congrArg (memGet · a) h.mem
theorem sameRegs (h : BooksOnly s t) : SameRegs s t := fun c x => by
  have hctx : t.ctx c x = s.ctx c x := h.same (State.ctx · c x) fun _ _ _ _ _ => rfl
  rw [hctx]
  exact ⟨rfl, rfl⟩

end BooksOnly

theorem SendsOnly.booksOnly {s t : State} (h : SendsOnly s t) : BooksOnly s t :=
  Eq.trans h (congrArg (fun x : State => { x with links := t.links, sent := t.sent, drawn := t.drawn })
    (show s = { s with ports := t.ports, journal := t.journal } by
      have hp : t.ports = s.ports := h.ports
      have hj : t.journal = s.journal := h.same _ fun _ _ _ => rfl
      rw [hp, hj]))

namespace State

/-- The journal entry of a command that port `p` accepts now. -/
def newEntry (s : State) (p : Nat) (m : List Byte) : Journal :=
  { port := p, sq := (s.port p).highest + 1, tag := Cmd.tag m, cmd := m }

theorem accept_booksOnly (s : State) (p : Nat) (m : List Byte) : BooksOnly s (s.accept p m) :=
  BooksOnly.trans (t := { s.modPort p (fun t => { t with
      highest := (s.port p).highest + 1, tags := (Cmd.tag m, (s.port p).highest + 1) :: t.tags }) with
    journal := s.journal ++ [s.newEntry p m] }) rfl (respond_sendsOnly ..).booksOnly

theorem accept_journal (s : State) (p : Nat) (m : List Byte) : (s.accept p m).journal = s.journal ++ [s.newEntry p m] :=
  (respond_sendsOnly ..).same _ fun _ _ _ => rfl

theorem accept_highest (s : State) {p : Nat} (hp : p = 1 ∨ p = 2) (m : List Byte) :
    ((s.accept p m).port p).highest = (s.port p).highest + 1 := by
  have hport : (s.accept p m).port p = (s.modPort p fun t => { t with
      highest := (s.port p).highest + 1, tags := (Cmd.tag m, (s.port p).highest + 1) :: t.tags }).port p :=
    (respond_sendsOnly ..).port p
  rw [hport, port_modPort s hp]

/-- The entry of a command after its completion. -/
def doneEntry (s : State) (j : Journal) (st d : Nat) : Journal :=
  { j with effected := true, final := some (BitVec.ofNat 8 st), cyc := s.cyc, detail := Nat.min d 0xFFFFFFFF }

section
variable (s : State) (p q st d : Nat)

theorem complete_booksOnly : BooksOnly s (s.complete p q st d) := by
  unfold complete
  split
  · rfl
  · dsimp only
    split
    · rfl
    · split <;> rfl

/-- A completion raises no port's highest sequence number. -/
theorem complete_highest (p' : Nat) : ((s.complete p q st d).port p').highest = (s.port p').highest := by
  have hmod (t : State) (f : Port → Port) (hf : ∀ x, (f x).highest = x.highest) :
      ((t.modPort p f).port p').highest = (t.port p').highest := by
    by_cases h : p - 1 = p' - 1
    · by_cases hlt : p' - 1 < 2 <;> simp [port, modPort, h, hlt, hf]
    · simp [port, modPort, h]
  unfold complete
  split
  · rfl
  · dsimp only
    split
    · rfl
    · split
      · rfl
      · exact hmod _ _ fun _ => rfl

end

/-- The completion of the journal's one entry. -/
theorem complete_journal {s : State} {j : Journal} (hj : s.journal = [j]) (hf : j.final = none) (st d : Nat) :
    (s.complete j.port j.sq st d).journal = [s.doneEntry j st d] := by
  have he : s.entry? j.port j.sq = some j := by simp [entry?, hj]
  have hmod : ({ s with journal := s.journal.map fun k => if k.port = j.port ∧ k.sq = j.sq then s.doneEntry j st d else k }
      : State).journal = [s.doneEntry j st d] := by simp [hj]
  simp only [complete, he, hf, Option.isSome_none, Bool.false_eq_true, if_false]
  split
  · exact hmod
  · exact hmod

/-! ## The entries that try to take effect (02 R61) -/

/-- The entries bring nothing about while a checkpoint is in progress, or where each one has completed or is a launch that has
been listed. -/
theorem effects_of_settled {s : State} (h : s.ckpt.isSome = true ∨
    ∀ j ∈ s.journal, j.final.isSome = true ∨ (j.effected = true ∧ Cmd.type j.cmd = 1)) : s.effects = s := by
  have hstep (l : List Nat) : l.foldl (fun (a : Waiting × State) n =>
      match a.2.journal[n]? with
      | none => a
      | some j =>
        if j.final.isSome ∨ a.2.ckpt.isSome then a
        else if a.1.holds j.cmd then (a.1.add j.cmd, a.2)
        else
          let (waits, t) := a.2.effect n j
          (if waits then a.1.add j.cmd else a.1, t)) ({}, s) = ({}, s) := by
    induction l with
    | nil => rfl
    | cons n l ih =>
      rw [List.foldl_cons]
      convert ih using 2
      cases hn : s.journal[n]? with
      | none => rfl
      | some j =>
        by_cases hdone : j.final.isSome = true ∨ s.ckpt.isSome = true
        · simp only [if_pos hdone]
        · obtain ⟨hfinal, hck⟩ := not_or.1 hdone
          have ⟨heff, hty⟩ : j.effected = true ∧ Cmd.type j.cmd = 1 := by
            rcases h with h | h
            · exact absurd h hck
            · exact (h j (List.mem_of_getElem? hn)).resolve_left hfinal
          simp [hdone, Waiting.holds, hty, effect, heff]
  unfold effects
  split
  · rfl
  · exact congrArg Prod.snd (hstep _)

/-- The one entry of a journal tries to take effect. -/
theorem effects_of_one {s : State} {j : Journal} (hm : s.mode ≠ .pennant) (hj : s.journal = [j]) (hf : j.final = none)
    (hc : s.ckpt = none) : s.effects = (s.effect 0 j).2 := by
  have hhold : Waiting.holds {} j.cmd = false := by simp [Waiting.holds]
  have hrange : List.range s.journal.length = [0] := by rw [hj]; rfl
  have hget : s.journal[0]? = some j := by rw [hj]; rfl
  simp only [effects, if_neg hm, hrange, List.foldl_cons, List.foldl_nil, hget, hf, hc, hhold]
  rfl

theorem ckptStep_of_none {s : State} (h : s.ckpt = none) : s.ckptStep = s := by
  simp only [ckptStep, h]

/-- What follows a change of a machine in which no command waits for its turn. -/
theorem runJournal_of_settled {s : State} (h : Settled s) : s.runJournal = s := by
  have he := effects_of_settled (s := s) (.inr h.2)
  unfold runJournal
  split
  · rfl
  · rw [he, he, ckptStep_of_none h.1, he]

/-- The one entry of a journal takes effect, and nothing is left to do. -/
theorem runJournal_of_one {s t : State} {j : Journal} (hm : s.mode ≠ .pennant) (hj : s.journal = [j]) (hf : j.final = none)
    (hc : s.ckpt = none) (ht : (s.effect 0 j).2 = t) (hs : Settled t) : s.runJournal = t := by
  have hone : s.effects = t := (effects_of_one hm hj hf hc).trans ht
  have he := effects_of_settled (s := t) (.inr hs.2)
  unfold runJournal
  rw [if_neg (by simp [hj, hf]), hone, he, ckptStep_of_none hs.1, he]

end State

/-! ## A command that arrives at a quiet journal -/

section
variable {s : State} {p : Nat} {m : List Byte} {i : Instr}

theorem Arrives.port (h : Arrives s p m i) : p = 1 ∨ p = 2 := h.2.1
theorem Arrives.headerOk (h : Arrives s p m i) : Cmd.headerOk m = true := by
  obtain ⟨-, -, -, -, -, -, -, h, -⟩ := h
  exact h
theorem Arrives.event (h : Arrives s p m i) : Cmd.event m = i := by
  obtain ⟨-, -, -, -, -, -, -, -, h, -⟩ := h
  exact h
theorem Arrives.rejects (h : Arrives s p m i) : s.rejects p m = none := by
  obtain ⟨-, -, -, -, -, -, -, -, -, -, h⟩ := h
  exact h

/-- It is accepted, and the journal's order goes on from there. -/
theorem Arrives.exec_eq (h : Arrives s p m i) : exec i s = .next (s.accept p m).runJournal := by
  obtain ⟨hport, hp, hm, hmode, -, -, -, hok, rfl, htag, hrej⟩ := h
  rw [exec_event hport hp hm, State.command_accepted (by rw [hmode]; decide) hok htag hrej]

/-- What stands after its acceptance. -/
theorem Arrives.accepted (h : Arrives s p m i) : (s.accept p m).mode = .ready ∧ (s.accept p m).ckpt = none ∧
    (s.accept p m).folding = false ∧ (s.accept p m).journal = [s.newEntry p m] := by
  obtain ⟨-, -, -, hmode, hck, hfold, hj, -⟩ := h
  have hb := s.accept_booksOnly p m
  exact ⟨hb.mode.trans hmode, hb.ckpt.trans hck, hb.folding.trans hfold, by rw [s.accept_journal, hj]; rfl⟩

/-- A command whose effect leaves the machine settled has brought about that effect. -/
theorem Arrives.exec_effect (h : Arrives s p m i) {t : State} (ht : ((s.accept p m).effect 0 (s.newEntry p m)).2 = t)
    (hs : Settled t) : exec i s = .next t := by
  obtain ⟨hmode, hck, -, hj⟩ := h.accepted
  rw [h.exec_eq, State.runJournal_of_one (by rw [hmode]; decide) hj rfl hck ht hs]

/-- A command whose effect completes it: what the effect brings about, and the entry with its status and DETAIL. -/
theorem Arrives.exec_completes (h : Arrives s p m i) {y : State} {st d : Nat}
    (heff : ((s.accept p m).effect 0 (s.newEntry p m)).2 = y.complete p ((s.port p).highest + 1) st d)
    (hj : y.journal = (s.accept p m).journal) (hports : y.ports = (s.accept p m).ports) (hc : y.ckpt = none)
    (hd : d ≤ 0xFFFFFFFF) :
    ∃ z, exec i s = .next z ∧ BooksOnly y z ∧ Entered s z p m (some (BitVec.ofNat 8 st)) d := by
  have hj1 : y.journal = [s.newEntry p m] := by rw [hj, h.accepted.2.2.2]
  have hdone : (y.complete p ((s.port p).highest + 1) st d).journal = [y.doneEntry (s.newEntry p m) st d] :=
    State.complete_journal (j := s.newEntry p m) hj1 rfl st d
  have hbooks := y.complete_booksOnly p ((s.port p).highest + 1) st d
  have hhigh : ((y.complete p ((s.port p).highest + 1) st d).port p).highest = (s.port p).highest + 1 := by
    rw [State.complete_highest, State.port, hports]
    exact s.accept_highest h.port m
  refine ⟨_, h.exec_effect heff ⟨hbooks.ckpt.trans hc, ?_⟩, hbooks, _, hdone, rfl, rfl, rfl, rfl, Nat.min_eq_left hd, hhigh⟩
  intro j hj
  rw [hdone, List.mem_singleton] at hj
  exact .inl (hj ▸ rfl)

end

/-! ## Which command an event carries (02 R40, R46 to R48) -/

namespace Cmd

/-- The kind of the command that an event carries. -/
def kindOf : Instr → Nat
  | .sessionCreate => 1 | .sessionDestroy => 2 | .map => 3 | .unmap => 4 | .handleRegister => 5 | .handleRelease => 6
  | .checkpoint => 7 | .restore => 8 | .queryIdentity => 9 | .querySequence => 10 | .queryFaultLog => 11
  | .queryHeatMap => 12 | .queryAttestation => 13 | .mgmtReset => 14 | .mgmtFirmwareUpdate => 15
  | .mgmtCoreMapChange => 16 | .mgmtPowerCap => 17 | .mgmtTimeRoot => 18 | _ => 0

theorem kindOf_event (m : List Byte) : kindOf (event m) = kind m := by
  have hle := kind_le m
  rw [event_eq]
  interval_cases kind m <;> rfl

/-- TYPE and OP of a command by its kind. -/
theorem type_of_kind {m : List Byte} (h : headerOk m = true) :
    (kind m = 0 ∧ type m = 1) ∨ (kind m = 1 ∧ type m = 2 ∧ arg m 0 1 = 0) ∨ (kind m = 2 ∧ type m = 2 ∧ arg m 0 1 ≠ 0) ∨
    (kind m = 3 ∧ type m = 3) ∨ (kind m = 4 ∧ type m = 4) ∨ (kind m = 5 ∧ type m = 5 ∧ arg m 1 1 ≠ 1) ∨
    (kind m = 6 ∧ type m = 5 ∧ arg m 1 1 = 1) ∨ (kind m = 7 ∧ type m = 6) ∨ (kind m = 8 ∧ type m = 7) ∨
    (kind m = 9 + min (arg m 0 1) 4 ∧ type m = 8) ∨ (kind m = 14 + min (arg m 0 1) 4 ∧ type m = 9) := by
  have hlen : len (type m) ≠ 0 := by
    simp only [headerOk, Bool.and_eq_true, bne_iff_ne] at h
    exact h.1.1.1.1.1
  unfold kind
  unfold len at hlen
  split at hlen
  case h_2 ht => by_cases h0 : arg m 0 1 = 0 <;> simp [ht, h0]
  case h_5 ht => by_cases h1 : arg m 1 1 = 1 <;> simp [ht, h1]
  case h_8 ht => simp [ht]
  case h_9 ht => simp [ht]
  case h_10 => exact absurd rfl hlen
  case h_1 ht | h_3 ht | h_4 ht | h_6 ht | h_7 ht => simp [ht]

end Cmd

theorem Arrives.kind {s : State} {p : Nat} {m : List Byte} {i : Instr} (h : Arrives s p m i) : Cmd.kind m = Cmd.kindOf i := by
  rw [← h.event, Cmd.kindOf_event]

/-! ## What an accepted command has passed (02 R482) -/

namespace State

theorem badBody_of_rejects {s : State} {p : Nat} {m : List Byte} (h : s.rejects p m = none) : s.badBody m = false := by
  unfold rejects at h
  split at h
  · exact absurd h (by simp)
  · simpa using ‹¬ s.badBody m = true›

theorem badTarget_of_rejects {s : State} {p : Nat} {m : List Byte} (h : s.rejects p m = none) : s.badTarget m = none := by
  unfold rejects at h
  split at h
  · exact absurd h (by simp)
  · split at h
    · exact absurd h (by simp)
    · split at h
      · exact absurd h (by simp)
      · assumption

/-- The fields of a body are within their widths (02 R41, R46). -/
theorem field_lt_of_rejects {s : State} {p : Nat} {m : List Byte} (h : s.rejects p m = none) :
    ∀ f ∈ Cmd.fields (Cmd.type m), Cmd.arg m f.1 f.2.1 < 2 ^ f.2.2 := by
  have hb := badBody_of_rejects h
  simp only [badBody, Bool.or_eq_false_iff, Bool.not_eq_false', Cmd.bodyClean, Bool.and_eq_true, List.all_eq_true,
    decide_eq_true_eq] at hb
  exact hb.1.1

end State

end Sys2Proof.Machine
end

section
/-! PROOFS. LAUNCH, SESSION, MAP, UNMAP and HANDLE (02 R41, R46, 04 R89, R96 to R98, R110): O40. -/

namespace Sys2Proof.Machine

/-! ## Writes of memory and of the cores -/

/-- `t` differs from `s` in its memory with the records of what is dirty or logged, in its cores, and in what the
translation tables take with them, at most. -/
def DataOnly (s t : State) : Prop :=
  t = { s with
    mem := t.mem, dirty := t.dirty, logged := t.logged, logArea := t.logArea, cores := t.cores, tables := t.tables
    regionTier := t.regionTier, swapped := t.swapped }

namespace DataOnly

theorem refl (s : State) : DataOnly s s := rfl

theorem trans {s t u : State} (h : DataOnly s t) (g : DataOnly t u) : DataOnly s u :=
  Eq.trans g (congrArg (fun x : State => { x with
    mem := u.mem, dirty := u.dirty, logged := u.logged, logArea := u.logArea, cores := u.cores, tables := u.tables
    regionTier := u.regionTier, swapped := u.swapped }) h)

theorem same {α : Sort _} {s t : State} (h : DataOnly s t) (f : State → α)
    (hf : ∀ m d l a c b r w, f { s with
      mem := m, dirty := d, logged := l, logArea := a, cores := c, tables := b, regionTier := r, swapped := w } = f s) :
    f t = f s := by
  rw [h, hf]

variable {s t : State}

theorem journal (h : DataOnly s t) : t.journal = s.journal := h.same _ fun _ _ _ _ _ _ _ _ => rfl
theorem ports (h : DataOnly s t) : t.ports = s.ports := h.same _ fun _ _ _ _ _ _ _ _ => rfl
theorem ckpt (h : DataOnly s t) : t.ckpt = s.ckpt := h.same _ fun _ _ _ _ _ _ _ _ => rfl
theorem sessions (h : DataOnly s t) : t.sessions = s.sessions := h.same _ fun _ _ _ _ _ _ _ _ => rfl
theorem handles (h : DataOnly s t) : t.handles = s.handles := h.same _ fun _ _ _ _ _ _ _ _ => rfl

end DataOnly

namespace State

theorem logGranule_dataOnly (s : State) (g : Nat) : DataOnly s (s.logGranule g) := by
  unfold logGranule
  split <;> rfl

theorem touch_dataOnly (s : State) (a n : Nat) : DataOnly s (s.touch a n) := by
  unfold touch
  split
  · rfl
  · split
    · exact Laws.Memory.foldl_keeps (DataOnly s) _ (fun _ _ h => h.trans (logGranule_dataOnly ..)) _ (.refl s)
    · rfl

theorem write_dataOnly (s : State) (a : Nat) (b : List Byte) : DataOnly s (s.write a b) :=
  (touch_dataOnly s a _).trans rfl

theorem setPte_dataOnly (s : State) (a e : Nat) : DataOnly s (s.setPte a e) := write_dataOnly ..

theorem zero_dataOnly (s : State) (a n : Nat) : DataOnly s (s.zero a n) := (touch_dataOnly s a n).trans rfl

theorem dropTable_dataOnly (s : State) (a : Nat) : DataOnly s (s.dropTable a) :=
  DataOnly.trans (t := { s with tables := s.tables.filter (· != a) }) rfl (zero_dataOnly ..)

theorem zero_mem (s : State) (a n : Nat) :
    (s.zero a n).mem = s.mem.filter fun c => decide (c.1 < a) || decide (a + n ≤ c.1) := by
  simp only [zero, Laws.Memory.touch_mem]

/-- What a byte reads as after a run has been zeroed. -/
theorem zero_get {s : State} (h : Memory.wf s.mem = true) (a n x : Nat) :
    (s.zero a n).byteAt x = if a ≤ x ∧ x < a + n then 0 else s.byteAt x := by
  have hwf := Laws.Memory.zero_wf h a n
  rw [Laws.Memory.wf_iff] at h hwf
  simp only [byteAt, zero_mem] at hwf ⊢
  split
  · next hx =>
    refine Laws.Memory.memGet_of_not_mem fun v hv => ?_
    have hcell := (List.mem_filter.1 hv).2
    simp only [Bool.or_eq_true, decide_eq_true_eq] at hcell
    omega
  · next hx =>
    refine Laws.Memory.memGet_congr hwf.1 h.1 fun v => ?_
    simp only [List.mem_filter, Bool.or_eq_true, decide_eq_true_eq]
    constructor
    · exact And.left
    · exact fun hv => ⟨hv, by omega⟩

end State

/-! ## The journal's view of a machine with an empty journal -/

namespace State

theorem journalSessions_of_empty {s : State} (h : s.journal = []) :
    s.journalSessions = s.sessions.map fun t => (t.id, t.system, t.table) := by
  simp [journalSessions, h]

/-- A LAUNCH that is not rejected names a session. -/
theorem session?_of_launch {s : State} {m : List Byte} (hj : s.journal = []) (ht : Cmd.type m = 1)
    (h : s.badTarget m = none) : ∃ t, s.session? (Cmd.sess m) = some t := by
  simp only [badTarget, ht, journalSessions_of_empty hj, List.find?_map] at h
  cases hs : s.sessions.find? (fun t => t.id == Cmd.sess m) with
  | none => simp [hs] at h
  | some t => exact ⟨t, hs⟩

end State

/-! ## LAUNCH (02 R41) -/

theorem Arrives.journal {s : State} {p : Nat} {m : List Byte} {i : Instr} (h : Arrives s p m i) : s.journal = [] := by
  obtain ⟨-, -, -, -, -, -, hj, -⟩ := h
  exact hj

theorem Arrives.type_launch {s : State} {p : Nat} {m : List Byte} (h : Arrives s p m .launch) : Cmd.type m = 1 := by
  have hk : Cmd.kind m = 0 := h.kind
  have ht := Cmd.type_of_kind h.headerOk
  omega

/-- The launch that a LAUNCH puts into the list. -/
def newLaunch (s : State) (p : Nat) (m : List Byte) : Launch :=
  { id := 0, port := p, sq := (s.port p).highest + 1, sess := Cmd.sess m, body := m.drop 32, deps := Cmd.deps m }

theorem launch_listed {s : State} {p : Nat} {m : List Byte} (h : Arrives s p m .launch)
    (hroom : ∀ t, s.session? (Cmd.sess m) = some t → t.noRoom = false) :
    ∃ z l, exec .launch s = .next z ∧ z.launches = s.launches ++ [l] ∧ l.sess = Cmd.sess m ∧ l.body = m.drop 32 ∧
      l.deps = Cmd.deps m ∧ l.entered = false ∧ l.port = p ∧ l.sq = (s.port p).highest + 1 ∧ Entered s z p m none 0 ∧
      SameBytes s z ∧ SameRegs s z := by
  have hb := s.accept_booksOnly p m
  obtain ⟨-, hck, -, hj⟩ := h.accepted
  have hty := h.type_launch
  obtain ⟨t, ht⟩ := State.session?_of_launch h.journal hty (State.badTarget_of_rejects h.rejects)
  have hsess : (s.accept p m).session? (Cmd.sess m) = some t := by
    rw [State.session?, hb.sessions]
    exact ht
  have heff : ((s.accept p m).effect 0 (s.newEntry p m)).2 =
      ({ s.accept p m with launches := (s.accept p m).launches ++ [newLaunch s p m] }).modEntry p ((s.port p).highest + 1)
        fun j => { j with effected := true } := by
    simp [State.effect, State.newEntry, hty, hsess, hroom t ht, newLaunch]
  refine ⟨_, newLaunch s p m, h.exec_effect heff ⟨hck, ?_⟩, congrArg (· ++ _) hb.launches, rfl, rfl, rfl, rfl, rfl, rfl,
    ⟨{ s.newEntry p m with effected := true }, ?_, rfl, rfl, rfl, rfl, rfl, s.accept_highest h.port m⟩, hb.sameBytes,
    hb.sameRegs⟩
  · simp [State.modEntry, hj, State.newEntry, hty]
  · simp [State.modEntry, hj, State.newEntry]

/-! ## SESSION (02 R46, 04 R89, R97) -/

/-- The session that a SESSION create makes. -/
def newSession (p : Nat) (m : List Byte) : Session :=
  { id := Cmd.sess m, system := Cmd.system m, peer := Cmd.arg m 3 1 == 1, port := p, table := Cmd.arg m 8 8
    pool := BitVec.ofNat 64 (Cmd.arg m 16 8), poolSize := Cmd.arg m 24 8 }

theorem session_created {s : State} {p : Nat} {m : List Byte} (h : Arrives s p m .sessionCreate)
    (hfree : s.tables.contains (Cmd.arg m 8 8) = false) :
    ∃ z t, exec .sessionCreate s = .next z ∧ z.sessions = s.sessions ++ [t] ∧ t.id = Cmd.sess m ∧
      t.system = decide (Cmd.arg m 2 1 = 1) ∧ t.peer = decide (Cmd.arg m 3 1 = 1) ∧ t.port = p ∧ t.table = Cmd.arg m 8 8 ∧
      t.killed = false ∧ t.noRoom = false ∧ t.pool = BitVec.ofNat 64 (Cmd.arg m 16 8) ∧ t.poolSize = Cmd.arg m 24 8 ∧
      Entered s z p m (some 0) 0 ∧
      (MemOk s → ∀ y, z.byteAt y = if t.table ≤ y ∧ y < t.table + 65536 then 0 else s.byteAt y) := by
  have hb := s.accept_booksOnly p m
  have hk : Cmd.kind m = 1 := h.kind
  have ⟨hty, hop⟩ : Cmd.type m = 2 ∧ Cmd.arg m 0 1 = 0 := by
    have := Cmd.type_of_kind h.headerOk
    omega
  have htables : (s.accept p m).tables = s.tables := hb.same _ fun _ _ _ _ _ => rfl
  let y : State := { (s.accept p m).zero (Cmd.arg m 8 8) 65536 with
    sessions := (s.accept p m).sessions ++ [newSession p m] }
  have heff : ((s.accept p m).effect 0 (s.newEntry p m)).2 = y.complete p ((s.port p).highest + 1) 0 0 := by
    simp only [State.effect, State.newEntry, hty, hop, if_true, State.createSession, State.moveTable, htables, hfree,
      Bool.not_false]
    rfl
  have hd := State.zero_dataOnly (s.accept p m) (Cmd.arg m 8 8) 65536
  obtain ⟨z, hz, hbooks, hent⟩ := h.exec_completes heff hd.journal hd.ports (hd.ckpt.trans h.accepted.2.1) (by decide)
  refine ⟨z, newSession p m, hz, ?_, rfl, rfl, rfl, rfl, rfl, rfl, rfl, rfl, rfl, hent, fun hok x => ?_⟩
  · rw [hbooks.sessions]
    exact congrArg (· ++ _) hb.sessions
  · rw [hbooks.sameBytes x, ← hb.sameBytes x]
    exact State.zero_get (by rw [hb.mem]; exact hok.1) ..

end Sys2Proof.Machine
end

section
/-! PROOFS. SESSION destroy (02 R46, 04 R89). -/

namespace Sys2Proof.Machine

/-! ## A kill that finds no strand changes nothing -/

namespace State

theorem unswitch_nil (k : Core) : unswitch [] k = k := by
  have h :
      k.arrs.mapFinIdx (fun _ a _ => { a with next := a.next.filter fun e => !([] : List Nat).contains e.1 }) = k.arrs := by
    ext1 i hi
    simp
  rw [unswitch, h]

theorem killEngines_nil (sess now : Nat) (away : Nat → List CopyCmd) (k : Core) : killEngines sess now [] away k = k := by
  have hchans : ∀ i (h : Chan), ({ h with
      queue := h.queue.filter (!([] : List Nat).contains ·.age)
      buffer := h.buffer.filter (!([] : List Nat).contains ·.age)
      finishing := h.finishing.map (fun p => (p.1, p.2 || ([] : List Nat).contains p.1.age)) ++
        (((h.running.toList.map (·.cmd) ++ h.buffer ++ h.queue ++
          (k.ctxs.toList.flatMap fun t => if i = 1 then t.repush1 else t.repush0) ++ away i).filter
            (([] : List Nat).contains ·.age)).map fun c => (c, true))
      running := h.running.filter (!([] : List Nat).contains ·.cmd.age) } : Chan) = h := by
    intro i h
    obtain ⟨queue, buffer, running, beats, finishing⟩ := h
    cases running <;> simp
  have h1 : (killEngines sess now [] away k).chans = k.chans := by
    ext1 i hi
    simp only [killEngines, Vector.getElem_mapFinIdx]
    exact hchans i k.chans[i]
  have h2 : (killEngines sess now [] away k).reloads = k.reloads := by simp [killEngines]
  have h3 : (killEngines sess now [] away k).tslots = k.tslots := by
    simp only [killEngines]
    split <;> simp
  have h4 : (killEngines sess now [] away k).tload = k.tload := by
    simp only [killEngines]
    cases k.tload <;> simp
  have h5 : (killEngines sess now [] away k).ctxs = k.ctxs := by
    ext1 i hi
    simp only [killEngines, Vector.getElem_mapFinIdx]
    cases k.ctxs[i].strand <;> simp
  calc killEngines sess now [] away k
      = { k with
          chans := (killEngines sess now [] away k).chans, reloads := (killEngines sess now [] away k).reloads
          tslots := (killEngines sess now [] away k).tslots, tload := (killEngines sess now [] away k).tload
          ctxs := (killEngines sess now [] away k).ctxs } := rfl
    _ = k := by rw [h1, h2, h3, h4, h5]

/-- Where no strand is the session's, ending its strands changes nothing. -/
theorem endStrands_of_none {s : State} {sess : Nat} (h : s.strands.filter (·.sess == sess) = []) : s.endStrands sess = s := by
  have hcores : s.cores.mapFinIdx (fun c k _ => killEngines sess s.now [] (fun _ => []) (unswitch [] k)) = s.cores := by
    ext1 i hi
    simp [killEngines_nil, unswitch_nil]
  have hholds : ((s.cores.toList.flatMap (·.ctxs.toList)).filter fun t : Ctx =>
      (t.strand.map ([] : List Nat).contains).getD false) = [] := by
    rw [List.filter_eq_nil_iff]
    intro t _
    cases t.strand <;> simp
  simp only [endStrands, h, List.filter_nil, List.map_nil, hholds, List.append_nil, List.flatMap_nil, List.foldl_nil]
  simp only [hcores]
  simp

end State

/-! ## A fold that comes to something -/

/-- Where every step keeps `Q` and `R`, and the step at `a` makes `R` of `Q`, a fold over a list that holds `a` ends in `R`. -/
theorem foldl_reaches {α β : Type} {f : β → α → β} (Q R : β → Prop) {a : α} {l : List α} (ha : a ∈ l)
    (hQ : ∀ b x, Q b → Q (f b x)) (hR : ∀ b x, R b → R (f b x)) (hstep : ∀ b, Q b → R (f b a)) {b : β} (hb : Q b) :
    R (l.foldl f b) := by
  induction l generalizing b with
  | nil => exact absurd ha List.not_mem_nil
  | cons x l ih =>
    rcases List.mem_cons.1 ha with rfl | ha
    · exact Laws.Memory.foldl_keeps R f hR l (hstep b hb)
    · exact ih ha (hQ b x hb)

/-! ## The zeroing of a session's macros (04 R89) -/

namespace State

/-- Macro `i` of rank `c` is zeroed where the session owns it. -/
def zeroMacro (id c : Nat) (s : State) (i : Nat) : State :=
  if (s.arr c i).owner = some (BitVec.ofNat 6 id) then
    (((s.zero (sliceHome c (i * 0x2_0000)) 0x2_0000).zero (scaleHome c (i / 16) (i % 16) false) 16384).zero
      (markHome c (i / 16) (i % 16) false) 16384).modCore c fun k => { k with arrs := k.arrs.setIfInBounds i {} }
  else s

theorem zeroMacros_eq (s : State) (id : Nat) :
    s.zeroMacros id = (List.range 128).foldl (fun s c => (List.range 128).foldl (zeroMacro id c) s) s := rfl

theorem modCore_dataOnly (s : State) (c : Nat) (f : Core → Core) : DataOnly s (s.modCore c f) := rfl

theorem zeroMacro_dataOnly (id c i : Nat) (s : State) : DataOnly s (s.zeroMacro id c i) := by
  unfold zeroMacro
  split
  · exact (((zero_dataOnly ..).trans (zero_dataOnly ..)).trans (zero_dataOnly ..)).trans (modCore_dataOnly ..)
  · rfl

theorem zeroMacros_dataOnly (s : State) (id : Nat) : DataOnly s (s.zeroMacros id) :=
  Laws.Memory.foldl_keeps (DataOnly s) _ (fun _ _ h => Laws.Memory.foldl_keeps (DataOnly s) _
    (fun _ _ h => h.trans (zeroMacro_dataOnly ..)) _ h) _ (.refl s)

/-- No cell that was not there comes to be there. -/
theorem zero_cells {s : State} {a n : Nat} {x : Host.Cell} (h : x ∈ (s.zero a n).mem) : x ∈ s.mem := by
  rw [zero_mem] at h
  exact (List.mem_filter.1 h).1

theorem zeroMacro_mem (id c i : Nat) (s : State) : (s.zeroMacro id c i).mem =
    if (s.arr c i).owner = some (BitVec.ofNat 6 id) then
      (((s.zero (sliceHome c (i * 0x2_0000)) 0x2_0000).zero (scaleHome c (i / 16) (i % 16) false) 16384).zero
        (markHome c (i / 16) (i % 16) false) 16384).mem
    else s.mem := by
  unfold zeroMacro
  split <;> rfl

theorem zero_core (s : State) (a n c : Nat) : (s.zero a n).core c = s.core c := by
  have hlog (t : State) (g : Nat) : (t.logGranule g).cores = t.cores := by
    unfold logGranule
    split <;> rfl
  have htouch : (s.touch a n).cores = s.cores := by
    unfold touch
    split
    · rfl
    · split
      · exact Laws.Memory.foldl_keeps (fun t : State => t.cores = s.cores) _ (fun t g h => (hlog t g).trans h) _ rfl
      · rfl
  exact congrArg (fun v : Vector Core 128 => v[c]?.getD {}) htouch

/-- An array after one that is zeroed: as it was, or owned by nobody. -/
theorem zeroMacro_arr (id c i d j : Nat) (s : State) :
    (s.zeroMacro id c i).arr d j = s.arr d j ∨ (s.zeroMacro id c i).arr d j = {} := by
  unfold zeroMacro
  split
  · by_cases hd : c = d
    · subst hd
      by_cases hc : c < 128
      · simp only [arr, modCore, core_setCore _ _ _ hc, zero_core]
        by_cases hi : i = j
        · subst hi
          by_cases h : i < 128 <;> simp [h]
        · simp [hi]
      · have hsame (t : State) (k : Core) : (t.setCore c k).core c = t.core c := by
          simp [core, setCore, hc]
        left
        simp only [arr, modCore, hsame, zero_core]
    · left
      simp only [arr, modCore, core_setCore_ne _ _ _ _ hd, zero_core]
  · exact .inl rfl

/-- The array's bytes have no cell, and it is nobody's. -/
def Zeroed (c i : Nat) (s : State) : Prop :=
  (∀ k v, k < 131072 → (sliceHome c (i * 131072) + k, v) ∉ s.mem) ∧ s.arr c i = {}

theorem zeroed_zeroMacro {c i : Nat} {s : State} (h : s.Zeroed c i) (id d j : Nat) : (s.zeroMacro id d j).Zeroed c i := by
  refine ⟨fun k v hk hmem => h.1 k v hk ?_, ?_⟩
  · rw [zeroMacro_mem] at hmem
    split at hmem
    · exact zero_cells (zero_cells (zero_cells hmem))
    · exact hmem
  · rcases zeroMacro_arr id d j c i s with e | e
    · exact e.trans h.2
    · exact e

theorem zeroed_of_owner {c i id : Nat} {s : State} (hc : c < 128) (hi : i < 128)
    (h : (s.arr c i).owner = some (BitVec.ofNat 6 id)) : (s.zeroMacro id c i).Zeroed c i := by
  constructor
  · intro k v hk hmem
    rw [zeroMacro_mem, if_pos h] at hmem
    have hfirst := zero_cells (zero_cells hmem)
    rw [zero_mem] at hfirst
    have hcell := (List.mem_filter.1 hfirst).2
    simp only [Bool.or_eq_true, decide_eq_true_eq] at hcell
    omega
  · rw [zeroMacro, if_pos h]
    simp [arr, modCore, hc, hi]

/-- Every array that the session owns is zeroed, and nobody's after that. -/
theorem zeroMacros_zeroed {s : State} {c i id : Nat} (hc : c < 128) (hi : i < 128)
    (h : (s.arr c i).owner = some (BitVec.ofNat 6 id)) : (s.zeroMacros id).Zeroed c i := by
  have hkeep (d j : Nat) (t : State) (ht : t.Zeroed c i ∨ (t.arr c i).owner = some (BitVec.ofNat 6 id)) :
      (t.zeroMacro id d j).Zeroed c i ∨ ((t.zeroMacro id d j).arr c i).owner = some (BitVec.ofNat 6 id) := by
    rcases ht with ht | ht
    · exact .inl (zeroed_zeroMacro ht ..)
    · by_cases hsame : d = c ∧ j = i
      · obtain ⟨rfl, rfl⟩ := hsame
        exact .inl (zeroed_of_owner hc hi ht)
      · right
        rwa [show (t.zeroMacro id d j).arr c i = t.arr c i from ?_]
        unfold zeroMacro
        split
        · by_cases hd : d = c
          · subst hd
            have hj : j ≠ i := fun e => hsame ⟨rfl, e⟩
            simp [arr, modCore, hc, zero_core, hj]
          · simp only [arr, modCore, core_setCore_ne _ _ _ _ hd, zero_core]
        · rfl
  have hmake (t : State) (ht : t.Zeroed c i ∨ (t.arr c i).owner = some (BitVec.ofNat 6 id)) :
      (t.zeroMacro id c i).Zeroed c i := by
    rcases ht with ht | ht
    · exact zeroed_zeroMacro ht ..
    · exact zeroed_of_owner hc hi ht
  rw [zeroMacros_eq]
  refine foldl_reaches (fun t => t.Zeroed c i ∨ (t.arr c i).owner = some (BitVec.ofNat 6 id)) (Zeroed c i) (a := c)
    (List.mem_range.2 hc) (fun t d ht => ?_) (fun t d ht => ?_) (fun t ht => ?_) (.inr h)
  · exact Laws.Memory.foldl_keeps (fun t => t.Zeroed c i ∨ (t.arr c i).owner = some (BitVec.ofNat 6 id)) _
      (fun t j => hkeep d j t) _ ht
  · exact Laws.Memory.foldl_keeps (Zeroed c i) _ (fun t j ht => zeroed_zeroMacro ht id d j) _ ht
  · exact foldl_reaches (fun t => t.Zeroed c i ∨ (t.arr c i).owner = some (BitVec.ofNat 6 id)) (Zeroed c i) (a := i)
      (List.mem_range.2 hi) (fun t j => hkeep c j t) (fun t j ht => zeroed_zeroMacro ht id c j) hmake ht

/-- Memory is canonical and reads as `m` does below the slices. -/
def SameBelow (m : List Host.Cell) (s : State) : Prop :=
  Memory.wf s.mem = true ∧ ∀ y, y < sliceBase → s.byteAt y = memGet m y

theorem sameBelow_zero {m : List Host.Cell} {s : State} (h : SameBelow m s) {a : Nat} (ha : sliceBase ≤ a) (n : Nat) :
    SameBelow m (s.zero a n) := by
  refine ⟨Laws.Memory.zero_wf h.1 a n, fun y hy => ?_⟩
  rw [zero_get h.1, if_neg (by omega), h.2 y hy]

theorem sameBelow_zeroMacro {m : List Host.Cell} {s : State} (h : SameBelow m s) (id c i : Nat) :
    SameBelow m (s.zeroMacro id c i) := by
  have h3 : SameBelow m (((s.zero (sliceHome c (i * 0x2_0000)) 0x2_0000).zero (scaleHome c (i / 16) (i % 16) false) 16384).zero
      (markHome c (i / 16) (i % 16) false) 16384) := by
    refine sameBelow_zero (sameBelow_zero (sameBelow_zero h ?_ _) ?_ _) ?_ _
    · unfold sliceHome
      omega
    · unfold scaleHome scaleBase sliceBase
      omega
    · unfold markHome markBase sliceBase
      omega
  unfold zeroMacro
  split
  · exact h3
  · exact h

/-- Zeroing a session's macros leaves every byte below the slices as it was. -/
theorem zeroMacros_below {s : State} (h : Memory.wf s.mem = true) (id : Nat) : SameBelow s.mem (s.zeroMacros id) := by
  rw [zeroMacros_eq]
  exact Laws.Memory.foldl_keeps (SameBelow s.mem) _ (fun t c ht => Laws.Memory.foldl_keeps (SameBelow s.mem) _
    (fun t i ht => sameBelow_zeroMacro ht id c i) _ ht) _ ⟨h, fun _ _ => rfl⟩

end State

end Sys2Proof.Machine
end

section
/-! PROOFS. SESSION destroy, MAP, UNMAP and HANDLE of a session (02 R46, 04 R89, R96 to R98, R110): the rest of O40. -/

namespace Sys2Proof.Machine

/-! ## What an effect reads of the accepted state -/

section
variable {s : State} {p : Nat} {m : List Byte} {t : Session}

theorem Names.accepted (h : Names s m t) : (s.accept p m).session? (Cmd.sess m) = some t ∧ t.noRoom = false := by
  rw [State.session?, (s.accept_booksOnly p m).sessions]
  exact h

theorem Names.id (h : Names s m t) : Cmd.sess m = t.id := by
  have hid : t.id = Cmd.sess m := by simpa using List.find?_some h.1
  exact hid.symm

end

namespace State

/-- No launch comes before the first entry of the journal. -/
theorem launchesOver_zero (s : State) (id : Nat) : s.launchesOver 0 id = true := rfl

theorem exchanging_of_none {s : State} (h : s.exchanges = []) (m : List Byte) : s.exchanging m = false := by
  simp [exchanging, h]

/-! ## SESSION destroy -/

/-- The state in which a SESSION destroy finds its session ended, where it had no strands. -/
def destroying (s : State) (t : Session) : State :=
  if t.destroying then s
  else { (s.modSession t.id fun t => { t with destroying := true }) with
    launches := s.launches.map fun l => if l.sess = t.id ∧ l.status = 0 then { l with status := 0x22 } else l }

theorem destroying_cases (s : State) (t : Session) : s.destroying t = s ∨ s.destroying t =
    { (s.modSession t.id fun t => { t with destroying := true }) with
      launches := s.launches.map fun l => if l.sess = t.id ∧ l.status = 0 then { l with status := 0x22 } else l } := by
  unfold destroying
  split
  · exact .inl rfl
  · exact .inr rfl

/-- The destroy of a session without strands, on which no engine works, releases it. -/
theorem effect_destroy {s : State} {j : Journal} {t : Session} (hty : Cmd.type j.cmd = 2) (hop : Cmd.arg j.cmd 0 1 ≠ 0)
    (ht : s.session? (Cmd.sess j.cmd) = some t) (hroom : t.noRoom = false) (hs : s.strands = [])
    (hq : s.sessionQuiet t.id = true) :
    (s.effect 0 j).2 = ((s.destroying t).releaseSession t).complete j.port j.sq 0 0 := by
  have hend (z : State) (hz : z.strands = s.strands) : z.endStrands t.id = z :=
    endStrands_of_none (by rw [hz, hs]; rfl)
  have hquiet : (s.destroying t).sessionQuiet t.id = true := by
    rcases s.destroying_cases t with h | h
    · rw [h]; exact hq
    · rw [h]; exact hq
  have hfold : (if t.destroying = true then s else
      ({ (s.modSession t.id fun t => { t with destroying := true }) with
        launches := s.launches.map fun l => if l.sess = t.id ∧ l.status = 0 then { l with status := 0x22 } else l
        } : State).endStrands t.id) = s.destroying t := by
    unfold destroying
    split
    · rfl
    · exact hend _ rfl
  simp only [effect, hty, hop, if_false, ht, Option.map_some, Option.getD_some, hroom, launchesOver_zero, Bool.not_true,
    Bool.false_eq_true, hfold, hquiet, if_true]

/-- The release of a session whose macros have been zeroed. -/
def handedBack (w : State) (t : Session) : State :=
  let s := w.freeTables t.table
  let owned (d : TSlot) : Bool := d.desc.getLsbD 14 && bits d.desc.toNat 13 8 == t.id
  let clean (k : Core) : Core := { k with
    dir := k.dir.filter (·.sess != BitVec.ofNat 6 t.id)
    tslots := k.tslots.mapFinIdx fun _ d _ => if owned d then {} else d }
  { s with
    cores := s.cores.mapFinIdx fun _ k _ => clean k
    sessions := s.sessions.filter (·.id != t.id)
    handles := s.handles.filter (·.1 != t.id)
    recvQueues := s.recvQueues.filter (·.owner != t.id)
    pageHeat := s.pageHeat.filter (·.1 != t.id)
    regionHeat := s.regionHeat.filter (·.1 != t.id)
    regionTier := s.regionTier.filter (·.1 != t.id)
    exchanges := s.exchanges.filter (·.sess != t.id)
    swapped := s.swapped.filter (·.1 != t.id) }

theorem releaseSession_eq (s : State) (t : Session) : s.releaseSession t = (s.zeroMacros t.id).handedBack t := rfl

theorem handedBack_arr (w : State) (t : Session) (c i : Nat) : (w.handedBack t).arr c i = w.arr c i := by
  by_cases hc : c < 128
  · simp [handedBack, arr, core, hc]
    rfl
  · simp [handedBack, arr, core, hc]

/-- What the release of a session leaves of the sessions, the handles and the books. -/
theorem handedBack_facts {s w : State} (hd : DataOnly s w) (t : Session) :
    (w.handedBack t).journal = s.journal ∧ (w.handedBack t).ports = s.ports ∧ (w.handedBack t).ckpt = s.ckpt ∧
    (w.handedBack t).sessions = s.sessions.filter (·.id != t.id) ∧
    (w.handedBack t).handles = s.handles.filter (·.1 != t.id) ∧ (w.handedBack t).mem = w.mem :=
  ⟨hd.journal, hd.ports, hd.ckpt, congrArg (List.filter _) hd.sessions, congrArg (List.filter _) hd.handles, rfl⟩

end State

theorem session_destroyed {s : State} {p : Nat} {m : List Byte} {t : Session} (h : Arrives s p m .sessionDestroy)
    (hn : Names s m t) (hs : s.strands = []) (hq : s.sessionQuiet t.id = true) :
    ∃ z, exec .sessionDestroy s = .next z ∧ Entered s z p m (some 0) 0 ∧
      z.sessions = s.sessions.filter (·.id != t.id) ∧ z.handles = s.handles.filter (·.1 != t.id) ∧
      (∀ c i k, c < 128 → i < 128 → (s.arr c i).owner = some (BitVec.ofNat 6 t.id) → k < 131072 →
        z.byteAt (sliceHome c (i * 131072) + k) = 0 ∧ z.arr c i = {}) ∧
      (MemOk s → ∀ y, y < sliceBase → z.byteAt y = s.byteAt y) := by
  have hb := s.accept_booksOnly p m
  have hk : Cmd.kind m = 2 := h.kind
  have ⟨hty, hop⟩ : Cmd.type m = 2 ∧ Cmd.arg m 0 1 ≠ 0 := by
    have := Cmd.type_of_kind h.headerOk
    omega
  obtain ⟨ht, hroom⟩ := hn.accepted (p := p)
  have hquiet : (s.accept p m).sessionQuiet t.id = true :=
    (hb.same (State.sessionQuiet · t.id) fun _ _ _ _ _ => rfl).trans hq
  have heff := State.effect_destroy (j := s.newEntry p m) hty hop ht hroom (hb.strands.trans hs) hquiet
  obtain ⟨y, hy⟩ : ∃ y, y = (s.accept p m).destroying t := ⟨_, rfl⟩
  rw [← hy] at heff
  have ⟨hyj, hyp, hyc, hym, hyh, hycores⟩ : y.journal = (s.accept p m).journal ∧ y.ports = (s.accept p m).ports ∧
      y.ckpt = (s.accept p m).ckpt ∧ y.mem = (s.accept p m).mem ∧ y.handles = (s.accept p m).handles ∧
      y.cores = (s.accept p m).cores := by
    rcases State.destroying_cases (s.accept p m) t with e | e
    all_goals rw [hy, e]; exact ⟨rfl, rfl, rfl, rfl, rfl, rfl⟩
  have hys : y.sessions.filter (·.id != t.id) = (s.accept p m).sessions.filter (·.id != t.id) := by
    rcases State.destroying_cases (s.accept p m) t with e | e
    · rw [hy, e]
    · rw [hy, e]
      simp only [State.modSession, List.filter_map]
      have hkeep : ∀ u ∈ ((s.accept p m).sessions.filter ((fun u : Session => u.id != t.id) ∘
          fun u => if u.id = t.id then { u with destroying := true } else u)),
          (if u.id = t.id then { u with destroying := true } else u) = u := by
        intro u hu
        refine if_neg fun e => ?_
        simpa [e] using (List.mem_filter.1 hu).2
      rw [List.map_congr_left hkeep, List.map_id']
      refine List.filter_congr fun u _ => ?_
      by_cases hid : u.id = t.id <;> simp [hid]
  rw [State.releaseSession_eq] at heff
  obtain ⟨hrj, hrp, hrc, hrs, hrh, hrm⟩ := State.handedBack_facts (y.zeroMacros_dataOnly t.id) t
  obtain ⟨z, hz, hbooks, hent⟩ := h.exec_completes heff (hrj.trans hyj) (hrp.trans hyp)
    ((hrc.trans hyc).trans h.accepted.2.1) (by decide)
  have hzmem : z.mem = (y.zeroMacros t.id).mem := hbooks.mem.trans hrm
  have hzarr (c i : Nat) : z.arr c i = (y.zeroMacros t.id).arr c i := by
    rw [hbooks.arr, State.handedBack_arr]
  have hyarr (c i : Nat) : y.arr c i = s.arr c i :=
    congrArg (fun v : Vector Core 128 => (v[c]?.getD {}).arrs[i]?.getD {}) (hycores.trans hb.cores)
  refine ⟨z, hz, hent, ?_, ?_, fun c i k hc hi hown hk => ?_, fun hok x hx => ?_⟩
  · rw [hbooks.sessions, hrs, hys, hb.sessions]
  · rw [hbooks.handles, hrh, hyh, hb.handles]
  · obtain ⟨hbytes, harr⟩ := State.zeroMacros_zeroed (s := y) hc hi ((hyarr c i).symm ▸ hown)
    refine ⟨?_, (hzarr c i).trans harr⟩
    rw [State.byteAt, hzmem]
    exact Laws.Memory.memGet_of_not_mem fun v => hbytes k v hk
  · have hwf : Memory.wf y.mem = true := by
      rw [hym, hb.mem]
      exact hok.1
    have hbelow := (State.zeroMacros_below hwf t.id).2 x hx
    rw [State.byteAt] at hbelow
    rw [State.byteAt, hzmem, hbelow, hym, hb.mem, State.byteAt]

/-! ## HANDLE (02 R46, 04 R110) -/

theorem handle_registered {s : State} {p : Nat} {m : List Byte} {t : Session} (h : Arrives s p m .handleRegister)
    (hn : Names s m t) : ∃ z, exec .handleRegister s = .next z ∧ Entered s z p m (some 0) 0 ∧
      z.handles = (s.handles.filter fun h => !(h.1 == Cmd.sess m && h.2.1 == Cmd.arg m 2 2)) ++
        [(Cmd.sess m, Cmd.arg m 2 2, BitVec.ofNat 1024 (Cmd.arg m 8 128))] := by
  have hb := s.accept_booksOnly p m
  have hk : Cmd.kind m = 5 := h.kind
  have ⟨hty, hop⟩ : Cmd.type m = 5 ∧ Cmd.arg m 1 1 ≠ 1 := by
    have := Cmd.type_of_kind h.headerOk
    omega
  have hop : Cmd.arg m 1 1 = 0 := by
    have hlt : Cmd.arg m 1 1 < 2 ^ 1 := State.field_lt_of_rejects h.rejects (1, 1, 1) (by rw [hty]; decide)
    omega
  obtain ⟨ht, hroom⟩ := hn.accepted (p := p)
  let y : State := { s.accept p m with
    handles := ((s.accept p m).handles.filter fun h => !(h.1 == Cmd.sess m && h.2.1 == Cmd.arg m 2 2)) ++
      [(Cmd.sess m, Cmd.arg m 2 2, BitVec.ofNat 1024 (Cmd.arg m 8 128))] }
  have heff : ((s.accept p m).effect 0 (s.newEntry p m)).2 = y.complete p ((s.port p).highest + 1) 0 0 := by
    simp only [State.effect, State.newEntry, hty, ht, hop, Option.map_some, Option.getD_some, hroom, if_true]
    rfl
  obtain ⟨z, hz, hbooks, hent⟩ := h.exec_completes heff rfl rfl h.accepted.2.1 (by decide)
  exact ⟨z, hz, hent, by rw [hbooks.handles, ← hb.handles]⟩

theorem handle_released {s : State} {p : Nat} {m : List Byte} {t : Session} (h : Arrives s p m .handleRelease)
    (hn : Names s m t) : ∃ z, exec .handleRelease s = .next z ∧ Entered s z p m (some 0) 0 ∧
      z.handles = s.handles.filter fun h => !(h.1 == Cmd.sess m && h.2.1 == Cmd.arg m 2 2) := by
  have hb := s.accept_booksOnly p m
  have hk : Cmd.kind m = 6 := h.kind
  have ⟨hty, hop⟩ : Cmd.type m = 5 ∧ Cmd.arg m 1 1 = 1 := by
    have := Cmd.type_of_kind h.headerOk
    omega
  obtain ⟨ht, hroom⟩ := hn.accepted (p := p)
  let y : State := { s.accept p m with
    handles := (s.accept p m).handles.filter fun h => !(h.1 == Cmd.sess m && h.2.1 == Cmd.arg m 2 2) }
  have heff : ((s.accept p m).effect 0 (s.newEntry p m)).2 = y.complete p ((s.port p).highest + 1) 0 0 := by
    simp only [State.effect, State.newEntry, hty, ht, hop, Option.map_some, Option.getD_some, hroom, State.launchesOver_zero]
    rfl
  obtain ⟨z, hz, hbooks, hent⟩ := h.exec_completes heff rfl rfl h.accepted.2.1 (by decide)
  exact ⟨z, hz, hent, by rw [hbooks.handles, ← hb.handles]⟩

end Sys2Proof.Machine
end

section
/-! PROOFS. MAP and UNMAP of a 512 MiB page (04 R95 to R98), and O40 as a whole. -/

namespace Sys2Proof.Machine

/-! ## What a MAP or an UNMAP resolves touches the cores alone -/

/-- `t` differs from `s` in its cores at most. -/
def CoresOnly (s t : State) : Prop := t = { s with cores := t.cores }

namespace CoresOnly

theorem trans {s t u : State} (h : CoresOnly s t) (g : CoresOnly t u) : CoresOnly s u :=
  Eq.trans g (congrArg (fun x : State => { x with cores := u.cores }) h)

theorem mem {s t : State} (h : CoresOnly s t) : t.mem = s.mem := by rw [h]

theorem dataOnly {s t : State} (h : CoresOnly s t) : DataOnly s t := by
  rw [h]
  rfl

end CoresOnly

namespace State

theorem failLoad_coresOnly (s : State) (c : Nat) (r : TLoadRun) : CoresOnly s (s.failLoad c r) := by
  unfold failLoad
  dsimp only
  split <;> rfl

theorem resolveCopies_coresOnly (s : State) (sess : Nat) (f : DWord → Option Bool) : CoresOnly s (s.resolveCopies sess f) := by
  refine Laws.Memory.foldl_keeps (CoresOnly s) _ (fun t c h => ?_) _ rfl
  refine Laws.Memory.foldl_keeps (CoresOnly s) _ (fun t i h => h.trans ?_) _ h
  split
  · split
    · split
      · split <;> rfl
      · rfl
    · rfl
  · rfl

theorem resolveLoads_coresOnly (s : State) (sess : Nat) (f : DWord → Option Bool) : CoresOnly s (s.resolveLoads sess f) := by
  refine Laws.Memory.foldl_keeps (CoresOnly s) _ (fun t c h => h.trans ?_) _ rfl
  split
  · split
    · split
      · split
        · rfl
        · exact failLoad_coresOnly ..
        · rfl
      · rfl
    · rfl
  · rfl

/-! ## Entries of a table -/

theorem setPte_wf {s : State} (h : Memory.wf s.mem = true) (a e : Nat) : Memory.wf (s.setPte a e).mem = true :=
  Laws.Memory.write_wf h a _

theorem readNat_setPte {s : State} (h : Memory.wf s.mem = true) (a e : Nat) : (s.setPte a e).readNat a 8 = e % 2 ^ 64 := by
  have hread : (s.write a (toBytes 8 e)).read a 8 = toBytes 8 e := by
    have := Laws.Memory.read_write h a (toBytes 8 e)
    rwa [length_toBytes] at this
  rw [readNat, setPte, writeNat, hread, ofBytes_toBytes]
  rfl

theorem readNat_setPte_of_apart {s : State} (h : Memory.wf s.mem = true) {a b : Nat} (e : Nat) (hab : a + 8 ≤ b ∨ b + 8 ≤ a) :
    (s.setPte a e).readNat b 8 = s.readNat b 8 := by
  rw [readNat, setPte, writeNat, Laws.Memory.read_frame h a (toBytes 8 e) b 8 (by rw [length_toBytes]; omega), readNat]

theorem byteAt_setPte_of_apart {s : State} (h : Memory.wf s.mem = true) {a x : Nat} (e : Nat) (hx : x < a ∨ a + 8 ≤ x) :
    (s.setPte a e).byteAt x = s.byteAt x := by
  rw [setPte, writeNat, Laws.Memory.write_get h, if_neg (by rw [length_toBytes]; omega)]

theorem readNat_congr {s t : State} (h : t.mem = s.mem) (a n : Nat) : t.readNat a n = s.readNat a n := by
  rw [readNat, readNat, read, read, h]

theorem walk_congr {s t : State} (h : t.mem = s.mem) (table va : Nat) : t.walk table va = s.walk table va := by
  unfold walk pte
  simp only [readNat_congr h]

theorem readNat_eq_zero {s : State} (h : Memory.wf s.mem = true) {a : Nat} (hb : ∀ i, i < 8 → s.byteAt (a + i) = 0) :
    s.readNat a 8 = 0 := by
  have hread : s.read a 8 = toBytes 8 0 := by
    rw [read, Laws.Memory.memRead_get h]
    exact (List.map_congr_left fun i hi => hb i (List.mem_range.1 hi)).trans (by decide)
  rw [readNat, hread, ofBytes_toBytes]
  rfl

theorem byteAt_setPte_zero {s : State} (h : Memory.wf s.mem = true) (a : Nat) {i : Nat} (hi : i < 8) :
    (s.setPte a 0).byteAt (a + i) = 0 := by
  rw [setPte, writeNat, Laws.Memory.write_get h, if_pos (by rw [length_toBytes]; omega), Nat.add_sub_cancel_left]
  interval_cases i <;> rfl

theorem dropTable_get {s : State} (h : Memory.wf s.mem = true) (a x : Nat) :
    (s.dropTable a).byteAt x = if a ≤ x ∧ x < a + 65536 then 0 else s.byteAt x :=
  zero_get (s := { s with tables := s.tables.filter (· != a) }) h a 65536 x

theorem dropTable_wf {s : State} (h : Memory.wf s.mem = true) (a : Nat) : Memory.wf (s.dropTable a).mem = true :=
  Laws.Memory.zero_wf (s := { s with tables := s.tables.filter (· != a) }) h a 65536

/-- The records that go with a page that is mapped or unmapped. -/
theorem unswap_dataOnly (s : State) (sess va n : Nat) (r : List (Nat × Nat × Nat)) :
    DataOnly s (State.unswap { s with regionTier := r } sess va n) ∧
      (State.unswap { s with regionTier := r } sess va n).mem = s.mem := ⟨rfl, rfl⟩

/-- The leaf that a MAP writes is valid and fits its eight bytes (04 R96). -/
theorem leafOf_ok {x tier link : Nat} (hx : x < 16) (ht : tier < 4) (hl : link < 16) (pa : Nat) :
    Pte.ok (leafOf x tier link pa) true = true ∧ leafOf x tier link pa < 2 ^ 64 := by
  have hpa : bits pa 51 16 < 2 ^ 36 := Nat.mod_lt _ (by decide)
  simp only [leafOf, Pte.ok, Pte.v, Pte.leaf, bit, bits] at hpa ⊢
  simp only [Bool.and_eq_true, beq_iff_eq]
  omega

theorem ok_zero (b : Bool) : Pte.ok 0 b = false := by
  cases b <;> decide

section
variable {s : State} {table va t2 : Nat}

theorem level2_eq_some : s.level2 table va = some t2 ↔
    Pte.ok (s.pte table (bits va 51 42)) false = true ∧ Pte.ppn (s.pte table (bits va 51 42)) * 65536 = t2 := by
  simp only [level2, Option.ite_none_right_eq_some, Option.some.injEq]

theorem level2_eq_none : s.level2 table va = none ↔ Pte.ok (s.pte table (bits va 51 42)) false = false := by
  simp [level2]

theorem walk_of_big (h2 : s.level2 table va = some t2) (h : Pte.ok (s.readNat (t2 + 8 * bits va 41 29) 8) true = true) :
    s.walk table va = some ⟨t2 + 8 * bits va 41 29, s.readNat (t2 + 8 * bits va 41 29) 8, true⟩ := by
  obtain ⟨hok, ht2⟩ := level2_eq_some.1 h2
  simp only [walk, hok, ht2, h]
  rfl

theorem walk_of_no_level2 (h2 : s.level2 table va = none) : s.walk table va = none := by
  simp only [walk, level2_eq_none.1 h2]
  rfl

theorem walk_of_empty (h2 : s.level2 table va = some t2) (h : s.readNat (t2 + 8 * bits va 41 29) 8 = 0) :
    s.walk table va = none := by
  obtain ⟨hok, ht2⟩ := level2_eq_some.1 h2
  simp only [walk, hok, ht2, h, ok_zero]
  rfl

theorem level2_of_ok (h : Pte.ok (s.readNat (table + 8 * bits va 51 42) 8) false = true) :
    s.level2 table va = some (Pte.ppn (s.readNat (table + 8 * bits va 51 42) 8) * 65536) := if_pos h

theorem level2_congr {t : State} (h : t.readNat (table + 8 * bits va 51 42) 8 = s.readNat (table + 8 * bits va 51 42) 8) :
    t.level2 table va = s.level2 table va := by
  unfold level2 pte
  rw [h]

/-! ## MAP of one 512 MiB page (04 R98) -/

theorem mapPages_one_big {sess x tier link pa : Nat} (h2 : s.level2 table va = some t2)
    (hno : Pte.ok (s.readNat (t2 + 8 * bits va 41 29) 8) false = false)
    (hr : s.isRetired tier pa Config.bigPageBytes = false) :
    ∃ y, s.mapPages sess table x tier link true 1 va pa 0 = (1, y) ∧
      y.mem = (s.setPte (t2 + 8 * bits va 41 29) (leafOf x tier link pa)).mem ∧ DataOnly s y := by
  have hpage : s.mapPage table va (leafOf x tier link pa) true =
      some (s.setPte (t2 + 8 * bits va 41 29) (leafOf x tier link pa)) := by
    simp [mapPage, h2, hno]
  have hsize : s.isRetired tier pa (pageSize true) = false := hr
  have hd := s.setPte_dataOnly (t2 + 8 * bits va 41 29) (leafOf x tier link pa)
  simp only [mapPages, hsize, hpage]
  generalize s.setPte (t2 + 8 * bits va 41 29) (leafOf x tier link pa) = w at hd
  obtain ⟨hu, hmem⟩ := unswap_dataOnly w sess va (pageSize true)
    ((sess, va / Config.bigPageBytes, tier) :: w.regionTier.filter fun r => !(r.1 == sess && r.2.1 == va / Config.bigPageBytes))
  exact ⟨_, rfl, hmem, hd.trans hu⟩

/-! ## UNMAP of one 512 MiB page (04 R98) -/

theorem prune2_dataOnly (s : State) (table va : Nat) : DataOnly s (s.prune2 table va) := by
  unfold prune2
  split
  · split
    · exact (setPte_dataOnly ..).trans (dropTable_dataOnly ..)
    · rfl
  · rfl

/-- After an entry of the level-2 table has gone, the address reaches nothing, whether the table goes too or not. -/
theorem walk_prune2 (hwf : Memory.wf s.mem = true) (h2 : s.level2 table va = some t2)
    (h : s.readNat (t2 + 8 * bits va 41 29) 8 = 0) : (s.prune2 table va).walk table va = none := by
  unfold prune2
  simp only [h2]
  split
  · refine walk_of_no_level2 ?_
    have hset := setPte_wf hwf (table + 8 * bits va 51 42) 0
    have hzero : ((s.setPte (table + 8 * bits va 51 42) 0).dropTable t2).readNat (table + 8 * bits va 51 42) 8 = 0 := by
      refine readNat_eq_zero (dropTable_wf hset t2) fun i hi => ?_
      rw [dropTable_get hset, byteAt_setPte_zero hwf _ hi, ite_self]
    exact level2_eq_none.2 ((congrArg (Pte.ok · false) hzero).trans (ok_zero false))
  · exact walk_of_empty h2 h

theorem unmapPages_one_big {sess : Nat} (hwf : Memory.wf s.mem = true) (h2 : s.level2 table va = some t2)
    (hapart : table + 8 * bits va 51 42 + 8 ≤ t2 + 8 * bits va 41 29 ∨ t2 + 8 * bits va 41 29 + 8 ≤ table + 8 * bits va 51 42)
    (hleaf : Pte.ok (s.readNat (t2 + 8 * bits va 41 29) 8) true = true) :
    ∃ y, s.unmapPages sess table true 1 va 0 = (1, y) ∧ y.walk table va = none ∧ DataOnly s y := by
  have hpage : s.unmapPage table va true = some (true, (s.setPte (t2 + 8 * bits va 41 29) 0).prune2 table va) := by
    simp [unmapPage, h2, hleaf]
  have hnone : ((s.setPte (t2 + 8 * bits va 41 29) 0).prune2 table va).walk table va = none := by
    refine walk_prune2 (setPte_wf hwf ..) ((level2_congr (readNat_setPte_of_apart hwf 0 ?_)).trans h2) ?_
    · omega
    · rw [readNat_setPte hwf]
      rfl
  have hd := (s.setPte_dataOnly (t2 + 8 * bits va 41 29) 0).trans (prune2_dataOnly _ table va)
  simp only [unmapPages, hpage]
  generalize (s.setPte (t2 + 8 * bits va 41 29) 0).prune2 table va = w at hd hnone
  obtain ⟨hu, hmem⟩ := unswap_dataOnly w sess va (pageSize true) w.regionTier
  exact ⟨_, rfl, (walk_congr hmem ..).trans hnone, hd.trans hu⟩

end

/-- What a MAP of `n` pages from `va` on decides of a pointer that something waits on: whether it is mapped now. -/
def mapDecides (y : State) (table va n : Nat) (big : Bool) (p : DWord) : Option Bool :=
  if bits p.toNat 63 52 = 0 ∧ va ≤ p.toNat ∧ p.toNat < va + n * pageSize big then some (y.walk table p.toNat).isSome else none

/-- What an UNMAP decides of a pointer. -/
def unmapDecides (va n : Nat) (big : Bool) (p : DWord) : Option Bool :=
  if bits p.toNat 63 52 = 0 ∧ va ≤ p.toNat ∧ p.toNat < va + n * pageSize big then some false else none

theorem doMap_eq {s y : State} {j : Journal} {t : Session} {k : Nat}
    (h : s.mapPages t.id t.table (Cmd.arg j.cmd 29 1) (Cmd.arg j.cmd 28 1) (Cmd.arg j.cmd 30 1) (Cmd.arg j.cmd 1 1 == 1)
      (Cmd.arg j.cmd 24 4) (Cmd.arg j.cmd 8 8) (Cmd.arg j.cmd 16 8) 0 = (k, y)) :
    let f := y.mapDecides t.table (Cmd.arg j.cmd 8 8) (Cmd.arg j.cmd 24 4) (Cmd.arg j.cmd 1 1 == 1)
    s.doMap j t = ((y.resolveCopies t.id f).resolveLoads t.id f).complete j.port j.sq 0 k := by
  simp only [doMap, h]
  rfl

theorem doUnmap_eq {s y : State} {j : Journal} {t : Session} {k : Nat}
    (h : s.unmapPages t.id t.table (Cmd.arg j.cmd 1 1 == 1) (Cmd.arg j.cmd 16 4) (Cmd.arg j.cmd 8 8) 0 = (k, y)) :
    let f := unmapDecides (Cmd.arg j.cmd 8 8) (Cmd.arg j.cmd 16 4) (Cmd.arg j.cmd 1 1 == 1)
    s.doUnmap j t = ((y.resolveCopies t.id f).resolveLoads t.id f).complete j.port j.sq 0 k := by
  simp only [doUnmap, h]
  rfl

/-- What follows a MAP or an UNMAP of pages keeps its memory and its books. -/
theorem resolve_facts (y : State) (sess : Nat) (f : DWord → Option Bool) :
    ((y.resolveCopies sess f).resolveLoads sess f).mem = y.mem ∧ DataOnly y ((y.resolveCopies sess f).resolveLoads sess f) := by
  have h := (y.resolveCopies_coresOnly sess f).trans (resolveLoads_coresOnly _ sess f)
  exact ⟨h.mem, h.dataOnly⟩

end State

/-! ## The commands -/

section
variable {s : State} {p : Nat} {m : List Byte} {t : Session}

/-- A MAP's effect resolves what waited for its page, and completes with the count of pages. -/
theorem page_mapped (hn : Names s m t) (hx : s.exchanges = []) (hok : MemOk s) (hbig : Cmd.arg m 1 1 = 1)
    (h : Arrives s p m .map) (hcount : Cmd.arg m 24 4 = 1) {t2 : Nat}
    (h2 : s.level2 t.table (Cmd.arg m 8 8) = some t2)
    (hapart : t.table + 8 * bits (Cmd.arg m 8 8) 51 42 + 8 ≤ t2 + 8 * bits (Cmd.arg m 8 8) 41 29 ∨
      t2 + 8 * bits (Cmd.arg m 8 8) 41 29 + 8 ≤ t.table + 8 * bits (Cmd.arg m 8 8) 51 42)
    (hno : Pte.ok (s.readNat (t2 + 8 * bits (Cmd.arg m 8 8) 41 29) 8) false = false)
    (hr : s.isRetired (Cmd.arg m 28 1) (Cmd.arg m 16 8) Config.bigPageBytes = false) :
    let leaf := State.leafOf (Cmd.arg m 29 1) (Cmd.arg m 28 1) (Cmd.arg m 30 1) (Cmd.arg m 16 8)
    ∃ z, exec .map s = .next z ∧ Entered s z p m (some 0) 1 ∧
      z.walk t.table (Cmd.arg m 8 8) = some ⟨t2 + 8 * bits (Cmd.arg m 8 8) 41 29, leaf, true⟩ ∧
      ∀ y, y < t2 + 8 * bits (Cmd.arg m 8 8) 41 29 ∨ t2 + 8 * bits (Cmd.arg m 8 8) 41 29 + 8 ≤ y → z.byteAt y = s.byteAt y := by
  intro leaf
  have hb := s.accept_booksOnly p m
  have hty : Cmd.type m = 3 := by
    have hk : Cmd.kind m = 3 := h.kind
    have := Cmd.type_of_kind h.headerOk
    omega
  have hfields := State.field_lt_of_rejects h.rejects
  rw [hty] at hfields
  obtain ⟨hleaf, hlt⟩ := State.leafOf_ok (hfields (29, 1, 4) (by decide)) (hfields (28, 1, 2) (by decide))
    (hfields (30, 1, 4) (by decide)) (Cmd.arg m 16 8)
  obtain ⟨ht, hroom⟩ := hn.accepted (p := p)
  have hwf : Memory.wf (s.accept p m).mem = true := by
    rw [hb.mem]
    exact hok.1
  have h2' : (s.accept p m).level2 t.table (Cmd.arg m 8 8) = some t2 :=
    (State.level2_congr (State.readNat_congr hb.mem ..)).trans h2
  obtain ⟨y, hy, hymem, hyd⟩ := State.mapPages_one_big (sess := t.id) (x := Cmd.arg m 29 1) (link := Cmd.arg m 30 1) h2'
    (by rw [State.readNat_congr hb.mem]; exact hno)
    ((hb.same (State.isRetired · (Cmd.arg m 28 1) (Cmd.arg m 16 8) Config.bigPageBytes) fun _ _ _ _ _ => rfl).trans hr)
  have hmap := State.doMap_eq (j := s.newEntry p m) (t := t)
    (by simpa only [State.newEntry, hbig, hcount, beq_self_eq_true] using hy)
  dsimp only at hmap
  generalize y.mapDecides _ _ _ _ = f at hmap
  have heff : ((s.accept p m).effect 0 (s.newEntry p m)).2 = (s.accept p m).doMap (s.newEntry p m) t := by
    simp only [State.effect, State.newEntry, hty, ht, Option.map_some, Option.getD_some, hroom,
      State.exchanging_of_none (hb.exchanges.trans hx), Bool.false_eq_true, if_false]
  obtain ⟨hresmem, hres⟩ := y.resolve_facts t.id f
  have hd := hyd.trans hres
  obtain ⟨z, hz, hbooks, hent⟩ := h.exec_completes (heff.trans hmap) hd.journal hd.ports (hd.ckpt.trans h.accepted.2.1)
    (by decide)
  have hmem : z.mem = (s.setPte (t2 + 8 * bits (Cmd.arg m 8 8) 41 29) leaf).mem := by
    rw [hbooks.mem, hresmem, hymem, State.setPte, State.writeNat, State.write, Laws.Memory.writeMasked_mem, hb.mem,
      State.setPte, State.writeNat, State.write, Laws.Memory.writeMasked_mem]
  have hread := State.readNat_setPte hok.1 (t2 + 8 * bits (Cmd.arg m 8 8) 41 29) leaf
  rw [Nat.mod_eq_of_lt hlt] at hread
  refine ⟨z, hz, hent, ?_, fun x hx => ?_⟩
  · rw [State.walk_congr hmem, State.walk_of_big
      ((State.level2_congr (State.readNat_setPte_of_apart hok.1 leaf (by omega))).trans h2) (by rw [hread]; exact hleaf), hread]
  · rw [State.byteAt, hmem]
    exact State.byteAt_setPte_of_apart hok.1 leaf hx

/-- An UNMAP of a mapped page. -/
theorem page_unmapped (hn : Names s m t) (hx : s.exchanges = []) (hok : MemOk s) (hbig : Cmd.arg m 1 1 = 1)
    (h : Arrives s p m .unmap) (hcount : Cmd.arg m 16 4 = 1) {t2 : Nat}
    (h2 : s.level2 t.table (Cmd.arg m 8 8) = some t2)
    (hapart : t.table + 8 * bits (Cmd.arg m 8 8) 51 42 + 8 ≤ t2 + 8 * bits (Cmd.arg m 8 8) 41 29 ∨
      t2 + 8 * bits (Cmd.arg m 8 8) 41 29 + 8 ≤ t.table + 8 * bits (Cmd.arg m 8 8) 51 42)
    (hleaf : Pte.ok (s.readNat (t2 + 8 * bits (Cmd.arg m 8 8) 41 29) 8) true = true) :
    ∃ z, exec .unmap s = .next z ∧ Entered s z p m (some 0) 1 ∧ z.walk t.table (Cmd.arg m 8 8) = none := by
  have hb := s.accept_booksOnly p m
  have hty : Cmd.type m = 4 := by
    have hk : Cmd.kind m = 4 := h.kind
    have := Cmd.type_of_kind h.headerOk
    omega
  obtain ⟨ht, hroom⟩ := hn.accepted (p := p)
  have hwf : Memory.wf (s.accept p m).mem = true := by
    rw [hb.mem]
    exact hok.1
  have h2' : (s.accept p m).level2 t.table (Cmd.arg m 8 8) = some t2 :=
    (State.level2_congr (State.readNat_congr hb.mem ..)).trans h2
  obtain ⟨y, hy, hywalk, hyd⟩ := State.unmapPages_one_big (sess := t.id) hwf h2' hapart
    (by rw [State.readNat_congr hb.mem]; exact hleaf)
  have hunmap := State.doUnmap_eq (j := s.newEntry p m) (t := t)
    (by simpa only [State.newEntry, hbig, hcount, beq_self_eq_true] using hy)
  dsimp only at hunmap
  generalize State.unmapDecides _ _ _ = f at hunmap
  have heff : ((s.accept p m).effect 0 (s.newEntry p m)).2 = (s.accept p m).doUnmap (s.newEntry p m) t := by
    simp only [State.effect, State.newEntry, hty, ht, Option.map_some, Option.getD_some, hroom,
      State.exchanging_of_none (hb.exchanges.trans hx), State.launchesOver_zero, Bool.not_true, Bool.false_eq_true, or_self,
      if_false]
  obtain ⟨hresmem, hres⟩ := y.resolve_facts t.id f
  have hd := hyd.trans hres
  obtain ⟨z, hz, hbooks, hent⟩ := h.exec_completes (heff.trans hunmap) hd.journal hd.ports (hd.ckpt.trans h.accepted.2.1)
    (by decide)
  exact ⟨z, hz, hent, (State.walk_congr (hbooks.mem.trans hresmem) ..).trans hywalk⟩

end

/-- Settles O40: each of the commands takes effect at once where nothing stands before it. -/
theorem sessionCommands : Obligations.SessionCommands := by
  refine ⟨fun s p m h hroom => launch_listed h hroom, fun s p m h hfree => session_created h hfree,
    fun s p m t h hn hs hq _ => session_destroyed h hn hs hq, ?_, ?_⟩
  · intro s p m t hn hx hok hbig
    dsimp only
    intro h1 hapart
    have h2 := State.level2_of_ok h1
    exact ⟨fun h hcount hno hr => page_mapped hn hx hok hbig h hcount h2 hapart hno hr,
      fun h hcount hleaf => page_unmapped hn hx hok hbig h hcount h2 hapart hleaf⟩
  · exact fun s p m t hn => ⟨fun h => handle_registered h hn, fun h => handle_released h hn⟩

end Sys2Proof.Machine
end

section
/-! PROOFS. The life of a launch (02 R44, R45, R61, 05 R114 to R116). -/

namespace Sys2Proof.Machine
namespace State

/-! ## The completion of an entry of the journal -/

section
variable {s : State} {p q : Nat} {j : Journal}

/-- A completion changes its own entries alone. -/
theorem complete_entries (h : s.entry? p q = some j) (hf : j.final = none) (st d : Nat) :
    (s.complete p q st d).journal =
      s.journal.map fun k => if k.port = p ∧ k.sq = q then s.doneEntry j st d else k := by
  simp only [complete, h, hf, Option.isSome_none, Bool.false_eq_true, if_false]
  split <;> rfl

theorem entry?_complete (h : s.entry? p q = some j) (hf : j.final = none) (st d : Nat) :
    (s.complete p q st d).entry? p q = some (s.doneEntry j st d) := by
  have hj : j.port = p ∧ j.sq = q := by simpa using List.find?_some h
  have hsame : ((fun k : Journal => k.port == p && k.sq == q) ∘
      fun k => if k.port = p ∧ k.sq = q then s.doneEntry j st d else k) = fun k => k.port == p && k.sq == q := by
    funext k
    by_cases hk : k.port = p ∧ k.sq = q <;> simp [hk, hj, doneEntry]
  have hfind : s.journal.find? (fun k => k.port == p && k.sq == q) = some j := h
  rw [entry?, complete_entries h hf, List.find?_map, hsame, hfind, Option.map_some, if_pos hj]

theorem complete_settled (h : Settled s) (p q st d : Nat) : Settled (s.complete p q st d) := by
  refine ⟨(s.complete_booksOnly p q st d).ckpt.trans h.1, ?_⟩
  cases he : s.entry? p q with
  | none => simpa only [complete, he] using h.2
  | some j =>
    cases hf : j.final with
    | some st => simpa only [complete, he, hf, Option.isSome_some, if_true] using h.2
    | none =>
      rw [complete_entries he hf]
      intro k hk
      obtain ⟨i, hi, rfl⟩ := List.mem_map.1 hk
      split
      · exact .inl rfl
      · exact h.2 i hi

end

/-! ## The end of a launch -/

/-- A launch that ends leaves the lists of launches and strands, and its command completes. -/
theorem endLaunch_facts {s : State} (hs : Settled s) (l : Launch) (st d : Nat) : Settled (s.endLaunch l st d) ∧
    (s.endLaunch l st d).launches = s.launches.filter (·.id != l.id) ∧
    (s.endLaunch l st d).strands = s.strands.filter (·.launch != l.id) ∧ SameBytes s (s.endLaunch l st d) ∧
    ∀ j, s.entry? l.port l.sq = some j → j.final = none →
      (s.endLaunch l st d).entry? l.port l.sq = some (s.doneEntry j st d) := by
  let y : State :=
    { s with launches := s.launches.filter (·.id != l.id), strands := s.strands.filter (·.launch != l.id) }
  have hy : s.endLaunch l st d = y.complete l.port l.sq st d := rfl
  have hb := y.complete_booksOnly l.port l.sq st d
  rw [hy]
  exact ⟨complete_settled (s := y) hs .., hb.launches, hb.strands, hb.sameBytes,
    fun j he hf => entry?_complete (s := y) he hf st d⟩

/-! ## A crew id that is free (05 R129) -/

/-- `n` consecutive numbers have different residues. -/
theorem rotation_injective {r n i j : Nat} (hi : i < n) (hj : j < n) (h : (r + i) % n = (r + j) % n) : i = j :=
  Nat.ModEq.eq_of_lt_of_lt (Nat.ModEq.add_left_cancel' r h) hi hj

/-- `n` consecutive numbers meet every residue below `n`. -/
theorem mem_rotation {r n k : Nat} (hk : k < n) : ∃ i, i < n ∧ (r + i) % n = k := by
  have hsurj := (Finset.range n).surj_on_of_inj_on_of_card_le (t := Finset.range n) (fun i _ => (r + i) % n)
    (fun i hi => Finset.mem_range.2 (Nat.mod_lt _ (by omega)))
    (fun i j hi hj h => rotation_injective (Finset.mem_range.1 hi) (Finset.mem_range.1 hj) h) le_rfl
  obtain ⟨i, hi, h⟩ := hsurj k (Finset.mem_range.2 hk)
  exact ⟨i, Finset.mem_range.1 hi, h.symm⟩

theorem firstFree_eq_none {r n tries : Nat} {used : Nat → Bool} :
    firstFree r n tries used = none ↔ ∀ i, i < tries → used ((r + i) % n) = true := by
  simp [firstFree]

theorem firstFree_spec {r n tries k : Nat} {used : Nat → Bool} (hn : 0 < n) (h : firstFree r n tries used = some k) :
    k < n ∧ used k = false := by
  obtain ⟨i, -, rfl⟩ := List.mem_map.1 (List.mem_of_find?_eq_some h)
  exact ⟨Nat.mod_lt _ hn, by simpa using List.find?_some h⟩

/-- Among 65,535 ids, one more look than there are crews finds a free one where one is. -/
theorem freeCrew_eq_none {s : State} {what n : Nat} :
    s.freeCrew what n = none ↔ ∀ k, 1 ≤ k → k ≤ 65535 → ∃ j ∈ s.crews, j.id = k := by
  have hused (k : Nat) : (s.crews.any fun c => c.id == k + 1) = true ↔ ∃ j ∈ s.crews, j.id = k + 1 := by simp
  simp only [freeCrew, Option.map_eq_none_iff, firstFree_eq_none, hused]
  generalize Config.freeChoice what n s.now = r
  constructor
  · intro h
    by_cases hall : 65535 ≤ s.crews.length + 1
    · intro k h1 hk
      obtain ⟨i, hi, hik⟩ := mem_rotation (r := r) (show k - 1 < 65535 by omega)
      obtain ⟨j, hj, hjk⟩ := h i (by omega)
      exact ⟨j, hj, by omega⟩
    · have hsub : (Finset.range (s.crews.length + 1)).image (fun i => (r + i) % 65535 + 1) ⊆
          (s.crews.map (·.id)).toFinset := by
        intro x hx
        obtain ⟨i, hi, rfl⟩ := Finset.mem_image.1 hx
        obtain ⟨j, hj, hjk⟩ := h i (Finset.mem_range.1 hi)
        exact List.mem_toFinset.2 (hjk ▸ List.mem_map_of_mem hj)
      have hcard : (Finset.range (s.crews.length + 1)).card ≤ (s.crews.map (·.id)).toFinset.card := by
        rw [← Finset.card_image_of_injOn (f := fun i => (r + i) % 65535 + 1)]
        · exact Finset.card_le_card hsub
        · intro i hi j hj hij
          have hi := Finset.mem_range.1 (Finset.mem_coe.1 hi)
          have hj := Finset.mem_range.1 (Finset.mem_coe.1 hj)
          exact rotation_injective (n := 65535) (by omega) (by omega) (Nat.succ.inj hij)
      have hlen := List.toFinset_card_le (s.crews.map (·.id))
      rw [Finset.card_range] at hcard
      rw [List.length_map] at hlen
      omega
  · intro h i _
    have hlt := Nat.mod_lt (r + i) (show 0 < 65535 by decide)
    exact h _ (by omega) (by omega)

theorem freeCrew_spec {s : State} {what n k : Nat} (h : s.freeCrew what n = some k) :
    1 ≤ k ∧ k ≤ 65535 ∧ ∀ j ∈ s.crews, j.id ≠ k := by
  obtain ⟨i, hi, rfl⟩ := Option.map_eq_some_iff.1 h
  obtain ⟨hlt, hfree⟩ := firstFree_spec (by decide) hi
  exact ⟨by omega, by omega, by simpa using hfree⟩

/-! ## The strands of a launch enter the pool (05 R114 to R116) -/

/-- Strand `i` of those that enter, with its home core. -/
def newcomer (s : State) (l : Launch) (prio : Nat) (home : Nat → Nat) (img : Ctx) (i : Nat) : Strand :=
  { age := s.ageCounter + i, launch := l.id, sess := l.sess, index := BitVec.ofNat 32 i, core := home i, prio := prio,
    readyAt := s.now, image := img }

theorem foldl_newStrand (s : State) (l : Launch) (prio : Nat) (home : Nat → Nat) (img : Ctx) (n : Nat) :
    (List.range n).foldl (fun s i => s.newStrand l.id l.sess (home i) prio (BitVec.ofNat 32 i) img) s =
      { s with strands := s.strands ++ (List.range n).map (s.newcomer l prio home img), ageCounter := s.ageCounter + n } := by
  induction n with
  | zero => simp
  | succ n ih =>
    rw [List.range_succ, List.foldl_append, ih]
    simp [newStrand, newcomer, Nat.add_assoc]

/-- The cores that a launch's mask selects. -/
def maskCores (s : State) (l : Launch) : List Nat :=
  (List.range s.ncores).filter fun c => field l.body 64 16 = 0 ∨ bit (field l.body 64 16) c = 1

/-- The first registers of a launch's strands (02 R44). -/
def firstImage (l : Launch) (crew : Option Nat) : Ctx :=
  startCtx (bit (field l.body 20 4) 0 == 1) (BitVec.ofNat 64 (field l.body 0 8)) (BitVec.ofNat 64 (field l.body 8 8))
    (BitVec.ofNat 64 (field l.body 16 2 + 1)) (BitVec.ofNat 64 (crew.getD 0))

theorem firstImage_regs (l : Launch) (crew : Option Nat) :
    (firstImage l crew).fixed = decide (bit (field l.body 20 4) 0 = 1) ∧
    (firstImage l crew).pc = BitVec.ofNat 64 (field l.body 0 8) ∧
    (firstImage l crew).rg 1 = BitVec.ofNat 64 (field l.body 8 8) ∧
    (firstImage l crew).rg 2 = BitVec.ofNat 64 (field l.body 16 2 + 1) ∧
    (firstImage l crew).rg 3 = BitVec.ofNat 64 (crew.getD 0) := by
  refine ⟨?_, rfl, rfl, rfl, rfl⟩
  by_cases h : bit (field l.body 20 4) 0 = 1 <;> simp [firstImage, startCtx, Ctx.fixed, h]

/-- The strands that a launch brings into the pool. -/
def newcomers (s : State) (l : Launch) (cores : List Nat) (crew : Option Nat) : List Strand :=
  (List.range (field l.body 16 2 + 1)).map
    (s.newcomer l (field l.body 19 1) (homeCore cores (bit (field l.body 20 4) 1 == 1)) (firstImage l crew))

theorem enterStrands_eq (s : State) (l : Launch) (cores : List Nat) (crew : Option Nat) :
    s.enterStrands l cores crew = { s with
      strands := s.strands ++ s.newcomers l cores crew, ageCounter := s.ageCounter + (field l.body 16 2 + 1)
      crews := s.crews ++ crew.toList.map fun k =>
        { id := k, sess := l.sess, members := (List.range (field l.body 16 2 + 1)).map (s.ageCounter + ·) }
      launches := s.launches.map fun k => if k.id = l.id then
        { k with entered := true, nextIndex := field l.body 16 2 + 1, created := field l.body 16 2 + 1 } else k } := by
  unfold enterStrands
  dsimp only
  rw [foldl_newStrand]
  cases crew <;> simp [modLaunch, newcomers, firstImage]

/-! ## LAUNCH_ENTRY -/

theorem exec_launchEntry {s z : State} (h : s.launchEntry = z) (hz : Settled z) : exec .launchEntry s = .next z := by
  have he : exec .launchEntry s = .next s.launchEntry.runJournal := rfl
  rw [he, h, runJournal_of_settled hz]

/-- What becomes of the next launch, in the order of the checks. -/
theorem launchEntry_cases {s : State} {l : Launch} (hs : Settled s) (hn : s.nextLaunchable = some l) : s.launchEntry =
    if s.depsOf l = some false then s.endLaunch l 0x20 0
    else if ((s.session? l.sess).map (·.killed)).getD true then s.endLaunch l 0x21 0
    else if s.maskCores l = [] then s.endLaunch l 0x26 0
    else if poolMax < s.pooled + field l.body 16 2 + 1 then s
    else if bit (field l.body 20 4) 2 = 1 then
      match s.freeCrew 3 l.id with
      | none => s
      | some k => s.enterStrands l (s.maskCores l) (some k)
    else s.enterStrands l (s.maskCores l) none := by
  simp only [launchEntry, hs.1, hn, Option.isSome_none, Bool.false_eq_true, if_false]
  rfl

/-- A launch that ends at LAUNCH_ENTRY: its command completes with the status. -/
theorem exec_launchEntry_ends {s : State} {l : Launch} (hs : Settled s) {st : Nat} (h : s.launchEntry = s.endLaunch l st 0) :
    ∃ z, exec .launchEntry s = .next z ∧ z.launches = s.launches.filter (·.id != l.id) ∧
      ∀ j, s.entry? l.port l.sq = some j → j.final = none →
        (z.entry? l.port l.sq).map (·.final) = some (some (BitVec.ofNat 8 st)) := by
  obtain ⟨hset, hl, -, -, hentry⟩ := endLaunch_facts hs l st 0
  exact ⟨_, exec_launchEntry h hset, hl, fun j he hf => congrArg (Option.map _) (hentry j he hf)⟩

theorem enterStrands_settled {s : State} (hs : Settled s) (l : Launch) (cores : List Nat) (crew : Option Nat) :
    Settled (s.enterStrands l cores crew) := by
  rw [enterStrands_eq]
  exact hs

/-- Strand `i` of a launch, as it enters. -/
theorem newcomers_getElem? (s : State) (l : Launch) (cores : List Nat) (crew : Option Nat) {i : Nat}
    (hi : i < field l.body 16 2 + 1) : (s.newcomers l cores crew)[i]? = some
      (s.newcomer l (field l.body 19 1) (homeCore cores (bit (field l.body 20 4) 1 == 1)) (firstImage l crew) i) := by
  simp [newcomers, List.getElem?_range hi]

theorem launchEntry_outcomes {s : State} {l : Launch} (hs : Settled s) (hn : s.nextLaunchable = some l) :
    (s.depsOf l = some false → s.launchEntry = s.endLaunch l 0x20 0) ∧
    (s.depsOf l = some true →
      ((¬ ∃ t, s.session? l.sess = some t ∧ t.killed = false) → s.launchEntry = s.endLaunch l 0x21 0) ∧
      ((∃ t, s.session? l.sess = some t ∧ t.killed = false) →
        (s.maskCores l = [] → s.launchEntry = s.endLaunch l 0x26 0) ∧
        (s.maskCores l ≠ [] →
          (1048576 < s.pooled + (field l.body 16 2 + 1) → s.launchEntry = s) ∧
          (s.pooled + (field l.body 16 2 + 1) ≤ 1048576 →
            (bit (field l.body 20 4) 2 = 0 → s.launchEntry = s.enterStrands l (s.maskCores l) none) ∧
            (bit (field l.body 20 4) 2 = 1 →
              (s.freeCrew 3 l.id = none → s.launchEntry = s) ∧
              ∀ k, s.freeCrew 3 l.id = some k → s.launchEntry = s.enterStrands l (s.maskCores l) (some k)))))) := by
  have hc := launchEntry_cases hs hn
  have halive : (((s.session? l.sess).map (·.killed)).getD true = true) ↔
      ¬ ∃ t, s.session? l.sess = some t ∧ t.killed = false := by
    cases s.session? l.sess <;> simp
  have hmax : poolMax = 1048576 := rfl
  rw [hc]
  refine ⟨fun hd => by rw [if_pos hd], fun hd => ⟨fun ha => ?_, fun ha => ⟨fun hm => ?_, fun hm => ⟨fun hp => ?_, fun hp =>
    ⟨fun hb => ?_, fun hb => ⟨fun hf => ?_, fun k hf => ?_⟩⟩⟩⟩⟩⟩
  · rw [if_neg (by simp [hd]), if_pos (halive.2 ha)]
  all_goals rw [if_neg (by simp [hd]), if_neg (by rw [halive]; exact not_not.2 ha)]
  · rw [if_pos hm]
  all_goals rw [if_neg hm]
  · rw [if_pos (by omega)]
  all_goals rw [if_neg (by omega)]
  · rw [if_neg (by omega)]
  all_goals rw [if_pos hb, hf]

/-! ## LAUNCH_COMPLETE (02 R45) -/

theorem exec_launchComplete {s z : State} (h : s.launchDone s.arg.n = z) (hz : Settled z) :
    exec .launchComplete s = .next z := by
  have he : exec .launchComplete s = .next (s.launchDone s.arg.n).runJournal := rfl
  rw [he, h, runJournal_of_settled hz]

/-- The status with which a launch ends: PEERLOST where the event says so of a launch of a session with peers. -/
def endStatus (s : State) (l : Launch) : Nat :=
  if s.arg.outcome = 0x25 ∧ l.status = 0 ∧ ((s.session? l.sess).map (·.peer)).getD false then 0x25 else l.status.toNat

theorem endStatus_cases (s : State) (l : Launch) :
    (s.arg.outcome = 0x25 ∧ l.status = 0 ∧ (∃ t, s.session? l.sess = some t ∧ t.peer = true) → s.endStatus l = 0x25) ∧
    (¬ (s.arg.outcome = 0x25 ∧ l.status = 0 ∧ ∃ t, s.session? l.sess = some t ∧ t.peer = true) →
      s.endStatus l = l.status.toNat) := by
  have hpeer : ((s.session? l.sess).map (·.peer)).getD false = true ↔
      ∃ t, s.session? l.sess = some t ∧ t.peer = true := by
    cases s.session? l.sess <;> simp
  rw [← hpeer]
  exact ⟨fun h => if_pos h, fun h => if_neg h⟩

theorem launchDone_eq {s : State} {n : Nat} {l : Launch} (hl : s.launch? n = some l) (hent : l.entered = true) :
    s.launchDone n = if (s.strands.filter (·.launch == n)).all (fun t => t.st == .done && s.engineFree t)
      then s.endLaunch l (s.endStatus l) l.created else s := by
  simp only [launchDone, hl, hent, true_or, true_and]
  rfl

end State
end Sys2Proof.Machine
end

section
/-! PROOFS. The killing of a session (05 R118), the device's own checkpoint (03 R78), and O42. -/

namespace Sys2Proof.Machine
namespace State

/-! ## KillSession -/

/-- The strands of a session, ended by a kill. -/
def endedStrands (s : State) (sess : Nat) : List Strand :=
  s.strands.map fun t => if ((s.strands.filter (·.sess == sess)).map (·.age)).contains t.age && t.st != .done then
    { t with st := .done, ended := true, killed := true, image := { t.image with repush0 := [], repush1 := [] } } else t

theorem endStrands_facts (s : State) (sess : Nat) : (s.endStrands sess).strands = s.endedStrands sess ∧
    (s.endStrands sess).launches = s.launches ∧ (s.endStrands sess).sessions = s.sessions ∧
    (s.endStrands sess).mem = s.mem := by
  unfold endStrands
  dsimp only
  refine Laws.Memory.foldl_keeps
    (fun t : State => t.strands = s.endedStrands sess ∧ t.launches = s.launches ∧ t.sessions = s.sessions ∧ t.mem = s.mem)
    (fun t a => (t.leaveCrew a).releaseFeed a none) (fun _ _ h => h) _ ?_
  exact ⟨rfl, rfl, rfl, rfl⟩

theorem endedStrands_done {s : State} {sess : Nat} {u : Strand} (hu : u ∈ s.endedStrands sess) (hs : u.sess = sess) :
    u.st = .done := by
  obtain ⟨t, ht, rfl⟩ := List.mem_map.1 hu
  split at hs
  · rename_i h
    rw [if_pos h]
  · rename_i h
    rw [if_neg h]
    have hage : t.age ∈ (s.strands.filter (·.sess == sess)).map (·.age) :=
      List.mem_map_of_mem (List.mem_filter.2 ⟨ht, by simpa using hs⟩)
    by_contra hst
    exact h (by rw [List.contains_iff_mem.2 hage]; simpa using hst)

theorem killSession_facts (s : State) (sess : Nat) :
    (∀ u ∈ (s.killSession sess).strands, u.sess = sess → u.st = .done) ∧
    (s.killSession sess).launches =
      s.launches.map (fun l => if l.sess = sess ∧ l.status = 0 then { l with status := 0x21 } else l) ∧
    (s.killSession sess).sessions = s.sessions.map (fun t => if t.id = sess then { t with killed := true } else t) ∧
    (s.killSession sess).mem = s.mem := by
  obtain ⟨hstrands, hlaunches, hsessions, hmem⟩ := endStrands_facts
    { s.modSession sess (fun t => { t with killed := true }) with launches := s.launches.map fun (l : Launch) =>
      if l.sess = sess ∧ l.status = 0 then { l with status := 0x21 } else l } sess
  refine ⟨fun u hu => ?_, hlaunches, hsessions, hmem⟩
  exact endedStrands_done (hstrands ▸ hu)

/-! ## Quiesce (03 R79, 05 R119) -/

theorem foldl_fixed {α β : Type} {f : β → α → β} {b : β} {l : List α} (h : ∀ a ∈ l, f b a = b) : l.foldl f b = b := by
  induction l with
  | nil => rfl
  | cons a l ih =>
    rw [List.foldl_cons, h a List.mem_cons_self]
    exact ih fun x hx => h x (List.mem_cons_of_mem a hx)

/-- Quiesce halts no strand where every context is free. -/
theorem quiesce_of_free {s : State} (h : ∀ c x, c < 128 → x < 4 → (s.ctx c x).st = .free) : s.quiesce = s := by
  refine foldl_fixed fun c hc => foldl_fixed fun x hx => ?_
  simp [h c x (List.mem_range.1 hc) (List.mem_range.1 hx)]

/-- `t` differs from `s` in its cores, its strands and its outstanding requests, at most. -/
def HaltsOnly (s t : State) : Prop := t = { s with cores := t.cores, strands := t.strands, requests := t.requests }

namespace HaltsOnly

theorem trans {s t u : State} (h : HaltsOnly s t) (g : HaltsOnly t u) : HaltsOnly s u :=
  Eq.trans g (congrArg (fun x : State => { x with cores := u.cores, strands := u.strands, requests := u.requests }) h)

/-- What a reading of the state gives apart from those fields. -/
theorem same {α : Sort _} {s t : State} (h : HaltsOnly s t) (f : State → α)
    (hf : ∀ c u r, f { s with cores := c, strands := u, requests := r } = f s) : f t = f s := by
  rw [h, hf]

end HaltsOnly

theorem startHalt_haltsOnly (s : State) (c x : Nat) (park : Bool) : HaltsOnly s (s.startHalt c x park) := by
  unfold startHalt
  split
  · split <;> rfl
  · rfl

theorem quiesce_haltsOnly (s : State) : HaltsOnly s s.quiesce :=
  Laws.Memory.foldl_keeps (HaltsOnly s) _ (fun t c ht => Laws.Memory.foldl_keeps (HaltsOnly s) _ (fun t x ht => by
    dsimp only
    split
    · exact ht.trans (startHalt_haltsOnly ..)
    · exact ht) _ ht) _ rfl

/-- A context after a change of one: as it was, or changed. -/
theorem ctx_modCtx_cases (s : State) (c x d y : Nat) (f : Ctx → Ctx) :
    (s.modCtx c x f).ctx d y = s.ctx d y ∨ (s.modCtx c x f).ctx d y = f (s.ctx c x) := by
  by_cases hc : c = d
  · subst hc
    by_cases hx : x = y
    · subst hx
      by_cases hin : c < 128 ∧ x < 4
      · exact .inr (ctx_setCtx s c x _ hin.1 hin.2)
      · refine .inl ?_
        rcases not_and_or.1 hin with h | h
        · simp [ctx, core, modCtx, setCtx, modCore, setCore, h]
        · by_cases hc : c < 128 <;> simp [ctx, core, modCtx, setCtx, modCore, setCore, h, hc]
    · exact .inl (ctx_setCtx_ne s c x y _ hx)
  · exact .inl (congrArg (fun k : Core => k.ctxs[y]?.getD {}) (core_setCtx_ne s c d x _ hc))

/-- A halt frees no context. -/
theorem startHalt_busy {s : State} {d y : Nat} (h : (s.ctx d y).st ≠ .free) (c x : Nat) (park : Bool) :
    ((s.startHalt c x park).ctx d y).st ≠ .free := by
  unfold startHalt
  split
  · split
    · exact h
    · dsimp only
      rename_i a _ _
      generalize hr : (s.requests.filter _) = r
      rcases ctx_modCtx_cases { s with requests := r } c x d y
          (fun t => { t with st := .draining, halt := some park, since := some s.now, far := [], holds := [] }) with hc | hc
      · exact fun hf => h (hc ▸ hf)
      · exact fun hf => by
          have hst := congrArg Ctx.st hc
          exact absurd (hst.symm.trans hf) (by simp)
  · exact h

theorem quiesce_busy {s : State} {d y : Nat} (h : (s.ctx d y).st ≠ .free) : (s.quiesce.ctx d y).st ≠ .free :=
  Laws.Memory.foldl_keeps (fun t : State => (t.ctx d y).st ≠ .free) _ (fun t c ht =>
    Laws.Memory.foldl_keeps (fun t : State => (t.ctx d y).st ≠ .free) _ (fun t x ht => by
      dsimp only
      split
      · exact startHalt_busy ht c x false
      · exact ht) _ ht) _ h

/-- On a quiet device every context is free. -/
theorem free_of_quiesced {s : State} {k : Ckpt} (h : s.quiesced k = true) {c x : Nat} (hc : c < 128) (hx : x < 4) :
    (s.ctx c x).st = .free := by
  simp only [quiesced, Bool.and_eq_true, List.all_eq_true, and_assoc] at h
  have hcore := (h.1 s.cores[c] (by simp)).1 s.cores[c].ctxs[x] (by simp)
  have hctx : s.ctx c x = s.cores[c].ctxs[x] := by simp [ctx, core, hc, hx]
  rw [hctx]
  simpa using hcore

/-! ## The device's own checkpoint -/

/-- The checkpoint that begins now, by the device itself. -/
def ownCkpt (s : State) : Ckpt :=
  { markA := (s.port 1).highest, markB := (s.port 2).highest, seqA := (s.link 16).nextSeq, seqB := (s.link 17).nextSeq }

theorem ckptStep_of_quiesce {s : State} {k : Ckpt} (hk : s.ckpt = some k) (hat : k.at_ = .quiesce) :
    s.ckptStep = if s.quiesce.quiesced k then s.quiesce.writeDelta k else s.quiesce := by
  simp only [ckptStep, hk, hat]

/-- When the device takes a checkpoint of its own accord. -/
def due (s : State) : Prop :=
  3145728 ≤ s.journalUsed ∨ 245760 ≤ s.dirty.length ∨ 245760 ≤ s.logged.length

theorem exec_autoCheckpoint {s : State} (hc : s.ckpt = none) (hf : s.folding = false) (hm : s.mode = .ready) :
    (¬ s.due → exec .autoCheckpoint s = .next s) ∧
    (s.due → exec .autoCheckpoint s = .next (s.beginCkpt none false).ckptStep) := by
  have he : exec .autoCheckpoint s = .next (if s.ckpt.isNone ∧ !s.folding ∧ (s.mode = .ready) ∧
      (3 * journalMax ≤ 4 * s.journalUsed ∨ 245_760 ≤ s.dirty.length ∨ 245_760 ≤ s.logged.length) then
    (s.beginCkpt none false).ckptStep else s) := rfl
  have hmax : journalMax = 4194304 := rfl
  have hdue : (s.ckpt.isNone ∧ !s.folding ∧ (s.mode = .ready) ∧
      (3 * journalMax ≤ 4 * s.journalUsed ∨ 245_760 ≤ s.dirty.length ∨ 245_760 ≤ s.logged.length)) ↔ s.due := by
    simp only [hc, hf, hm, due, hmax, Option.isNone_none, Bool.not_false, true_and]
    omega
  rw [he]
  exact ⟨fun h => by rw [if_neg (hdue.not.2 h)], fun h => by rw [if_pos (hdue.2 h)]⟩

/-- On a quiet device the checkpoint writes its delta at once. -/
theorem beginCkpt_quiet {s : State} (hq : ∀ k, s.quiesced k = true) :
    (s.beginCkpt none false).ckptStep = writeDelta { s with ckpt := some s.ownCkpt } s.ownCkpt := by
  have hfree : quiesce { s with ckpt := some s.ownCkpt } = { s with ckpt := some s.ownCkpt } :=
    quiesce_of_free fun c x hc hx => free_of_quiesced (hq s.ownCkpt) hc hx
  have hbegin : s.beginCkpt none false = { s with ckpt := some s.ownCkpt } := hfree
  have hquiet : quiesced { s with ckpt := some s.ownCkpt } s.ownCkpt = true := hq s.ownCkpt
  rw [hbegin, ckptStep_of_quiesce rfl rfl, hfree, if_pos hquiet]

/-- While a context holds a strand the checkpoint quiesces. -/
theorem beginCkpt_busy {s : State} {c x : Nat} (hc : c < 128) (hx : x < 4) (h : (s.ctx c x).st ≠ .free) :
    HaltsOnly { s with ckpt := some s.ownCkpt } (s.beginCkpt none false).ckptStep := by
  have hbegin : HaltsOnly { s with ckpt := some s.ownCkpt } (s.beginCkpt none false) := quiesce_haltsOnly _
  have hbusy : ((s.beginCkpt none false).quiesce.ctx c x).st ≠ .free :=
    quiesce_busy (quiesce_busy (s := { s with ckpt := some s.ownCkpt }) h)
  have hck : (s.beginCkpt none false).ckpt = some s.ownCkpt := hbegin.same _ fun _ _ _ => rfl
  rw [ckptStep_of_quiesce hck rfl, if_neg fun hq => hbusy (free_of_quiesced hq hc hx)]
  exact hbegin.trans (quiesce_haltsOnly _)

end State

/-! ## O42 -/

/-- LAUNCH_ENTRY (02 R44, 05 R114 to R116). -/
theorem launch_enters_or_ends (s : State) (l : Launch) (hs : Settled s) (hn : s.nextLaunchable = some l) :
      let n := field l.body 16 2 + 1
      let mask := field l.body 64 16
      let hints := field l.body 20 4
      let cores := (List.range s.ncores).filter fun c => mask = 0 ∨ bit mask c = 1
      let alive : Prop := ∃ t, s.session? l.sess = some t ∧ t.killed = false
      let ends (st : BitVec 8) : Prop := ∃ z, exec .launchEntry s = .next z ∧ z.launches = s.launches.filter (·.id != l.id) ∧
        (∀ j, s.entry? l.port l.sq = some j → j.final = none → (z.entry? l.port l.sq).map (·.final) = some (some st))
      let enters (k : Nat) : Prop := ∃ z new, exec .launchEntry s = .next z ∧ z.strands = s.strands ++ new ∧ new.length = n ∧
        z.ageCounter = s.ageCounter + n ∧ (∀ j ∈ z.launches, j.id = l.id → j.entered = true ∧ j.created = n) ∧ SameBytes s z ∧
        (if k = 0 then z.crews = s.crews else ∃ w, z.crews = s.crews ++ [w] ∧ w.id = k ∧ w.sess = l.sess ∧
          w.members = (List.range n).map (s.ageCounter + ·)) ∧
        ∀ i, i < n → ∃ t, new[i]? = some t ∧ t.age = s.ageCounter + i ∧ t.index = BitVec.ofNat 32 i ∧ t.st = .ready ∧
          t.sess = l.sess ∧ t.launch = l.id ∧ t.prio = field l.body 19 1 ∧ t.readyAt = s.now ∧
          t.core = cores.getD ((if bit hints 1 = 1 then i else i / 4) % cores.length) 0 ∧
          t.image.fixed = decide (bit hints 0 = 1) ∧ t.image.pc = BitVec.ofNat 64 (field l.body 0 8) ∧
          t.image.rg 1 = BitVec.ofNat 64 (field l.body 8 8) ∧ t.image.rg 2 = BitVec.ofNat 64 n ∧
          t.image.rg 3 = BitVec.ofNat 64 k
      (s.depsOf l = some false → ends 0x20) ∧
      (s.depsOf l = some true → ¬ alive → ends 0x21) ∧
      (s.depsOf l = some true → alive → cores = [] → ends 0x26) ∧
      (s.depsOf l = some true → alive → cores ≠ [] →
        (1048576 < s.pooled + n → exec .launchEntry s = .next s) ∧
        (s.pooled + n ≤ 1048576 → bit hints 2 = 0 → enters 0) ∧
        (s.pooled + n ≤ 1048576 → bit hints 2 = 1 → (∃ k, 1 ≤ k ∧ k ≤ 65535 ∧ ∀ j ∈ s.crews, j.id ≠ k) →
          ∃ k, 1 ≤ k ∧ k ≤ 65535 ∧ (∀ j ∈ s.crews, j.id ≠ k) ∧ enters k) ∧
        (s.pooled + n ≤ 1048576 → bit hints 2 = 1 → (∀ k, 1 ≤ k → k ≤ 65535 → ∃ j ∈ s.crews, j.id = k) →
          exec .launchEntry s = .next s)) := by
  intro n mask hints cores alive ends enters
  obtain ⟨hfailed, hopen⟩ := State.launchEntry_outcomes hs hn
  have hself (h : s.launchEntry = s) : exec .launchEntry s = .next s := State.exec_launchEntry h hs
  have henters (crew : Option Nat) (hcrew : ∀ k ∈ crew, k ≠ 0) (h : s.launchEntry = s.enterStrands l cores crew) :
      enters (crew.getD 0) := by
    refine ⟨_, s.newcomers l cores crew, State.exec_launchEntry h (State.enterStrands_settled hs ..), ?_⟩
    rw [State.enterStrands_eq]
    refine ⟨rfl, by simp [State.newcomers, n], rfl, ?_, fun _ => rfl, ?_, fun i hi => ?_⟩
    · intro j hj hid
      obtain ⟨k, -, rfl⟩ := List.mem_map.1 hj
      split at hid
      · rename_i hk
        rw [if_pos hk]
        exact ⟨rfl, rfl⟩
      · contradiction
    · cases crew with
      | none => simp
      | some k =>
        rw [Option.getD_some, if_neg (hcrew k rfl)]
        exact ⟨_, rfl, rfl, rfl, rfl⟩
    · obtain ⟨hfixed, hpc, h1, h2, h3⟩ := State.firstImage_regs l crew
      refine ⟨_, State.newcomers_getElem? s l cores crew hi, rfl, rfl, rfl, rfl, rfl, rfl, rfl, ?_, hfixed, hpc, h1, h2,
        h3⟩
      simp [State.newcomer, State.homeCore, hints]
  refine ⟨fun hd => State.exec_launchEntry_ends hs (hfailed hd), fun hd ha =>
    State.exec_launchEntry_ends hs ((hopen hd).1 ha), fun hd ha hm =>
    State.exec_launchEntry_ends hs (((hopen hd).2 ha).1 hm), fun hd ha hm => ?_⟩
  obtain ⟨hfull, hroom⟩ := ((hopen hd).2 ha).2 hm
  refine ⟨fun hp => hself (hfull hp), fun hp hb => henters none (by simp) ((hroom hp).1 hb), fun hp hb hk => ?_,
    fun hp hb hall => hself (((hroom hp).2 hb).1 (State.freeCrew_eq_none.2 hall))⟩
  cases hfree : s.freeCrew 3 l.id with
  | none =>
    obtain ⟨k, h1, hle, hno⟩ := hk
    obtain ⟨j, hj, hjk⟩ := State.freeCrew_eq_none.1 hfree k h1 hle
    exact absurd hjk (hno j hj)
  | some k =>
    obtain ⟨h1, hle, hno⟩ := State.freeCrew_spec hfree
    exact ⟨k, h1, hle, hno, henters (some k) (by simp; omega) (((hroom hp).2 hb).2 k hfree)⟩

/-- LAUNCH_COMPLETE (02 R45). -/
theorem launch_completes (s : State) (l : Launch) (hs : Settled s) (hl : s.launch? s.arg.n = some l) (hent : l.entered = true) :
      ((∀ t ∈ s.strands, t.launch = l.id → t.st = .done ∧ s.engineFree t = true) →
        ∃ z, exec .launchComplete s = .next z ∧ z.launches = s.launches.filter (·.id != l.id) ∧
          z.strands = s.strands.filter (·.launch != l.id) ∧ SameBytes s z ∧
          ∀ j, s.entry? l.port l.sq = some j → j.final = none →
            let lost : Prop := s.arg.outcome = 0x25 ∧ l.status = 0 ∧ ∃ t, s.session? l.sess = some t ∧ t.peer = true
            let ends (st : BitVec 8) : Prop :=
              (z.entry? l.port l.sq).map (fun k => (k.final, k.detail)) = some (some st, min l.created 0xFFFFFFFF)
            (lost → ends 0x25) ∧ (¬ lost → ends l.status)) ∧
      ((∃ t ∈ s.strands, t.launch = l.id ∧ t.st ≠ .done) → exec .launchComplete s = .next s) := by
  have hid : l.id = s.arg.n := by simpa using List.find?_some hl
  have heq := State.launchDone_eq hl hent
  refine ⟨fun hdone => ?_, fun ⟨t, ht, htl, hst⟩ => ?_⟩
  · have hall : (s.strands.filter (·.launch == s.arg.n)).all (fun t => t.st == .done && s.engineFree t) = true := by
      refine List.all_eq_true.2 fun t ht => ?_
      obtain ⟨ht, htl⟩ := List.mem_filter.1 ht
      simpa using hdone t ht (by simpa [hid] using htl)
    rw [if_pos hall] at heq
    obtain ⟨hset, hlaunches, hstrands, hbytes, hentry⟩ := State.endLaunch_facts hs l (s.endStatus l) l.created
    refine ⟨_, State.exec_launchComplete heq hset, hlaunches, hstrands, hbytes, fun j hj hf => ?_⟩
    obtain ⟨hlost, hkept⟩ := State.endStatus_cases s l
    refine ⟨fun h => ?_, fun h => ?_⟩
    · rw [hentry j hj hf, hlost h]
      rfl
    · rw [hentry j hj hf, hkept h, State.doneEntry, BitVec.ofNat_toNat, BitVec.setWidth_eq]
      rfl
  · have hall : ¬ (s.strands.filter (·.launch == s.arg.n)).all (fun t => t.st == .done && s.engineFree t) = true := by
      intro h
      have := List.all_eq_true.1 h t (List.mem_filter.2 ⟨ht, by simp [htl, hid]⟩)
      simp [hst] at this
    rw [if_neg hall] at heq
    exact State.exec_launchComplete heq hs

/-- SESSION_KILL (05 R118). -/
theorem session_killed (s : State) :
    (s.session? s.arg.sess = none → exec .sessionKill s = .next s) ∧
      (∀ t, s.session? s.arg.sess = some t → ∃ z, exec .sessionKill s = .next z ∧ SameBytes s z ∧
        (∀ u ∈ z.strands, u.sess = s.arg.sess → u.st = .done) ∧ (∀ l ∈ s.launches, l.sess = s.arg.sess →
        { l with status := if l.status = 0 then 0x21 else l.status } ∈ z.launches) ∧
        (∀ u ∈ z.sessions, u.id = s.arg.sess → u.killed = true) ∧ (∀ u ∈ s.sessions, u.id ≠ s.arg.sess → u ∈ z.sessions) ∧
        ∀ l ∈ s.launches, l.sess ≠ s.arg.sess → l ∈ z.launches) := by
  have he : exec .sessionKill s = .next (match s.session? s.arg.sess with
    | some _ => s.killSession s.arg.sess | none => s) := rfl
  refine ⟨fun h => by rw [he, h], fun t h => ?_⟩
  · obtain ⟨hstrands, hlaunches, hsessions, hmem⟩ := State.killSession_facts s s.arg.sess
    refine ⟨_, by rw [he, h], fun a => congrArg (memGet · a) hmem, hstrands, fun l hl hsess => ?_, fun u hu hid => ?_,
      fun u hu hid => ?_, fun l hl hsess => ?_⟩
    · rw [hlaunches]
      refine List.mem_map.2 ⟨l, hl, ?_⟩
      by_cases hst : l.status = 0
      · rw [if_pos ⟨hsess, hst⟩, if_pos hst]
      · rw [if_neg fun h => hst h.2, if_neg hst]
    · rw [hsessions] at hu
      obtain ⟨v, -, rfl⟩ := List.mem_map.1 hu
      split at hid
      · rename_i hv
        rw [if_pos hv]
      · contradiction
    · rw [hsessions]
      exact List.mem_map.2 ⟨u, hu, if_neg hid⟩
    · rw [hlaunches]
      exact List.mem_map.2 ⟨l, hl, if_neg fun h => hsess h.1⟩

/-- AUTO_CHECKPOINT (03 R78). -/
theorem ownCkpt_taken (s : State) (hc : s.ckpt = none) (hf : s.folding = false) (hm : s.mode = .ready) :
      let due : Prop := 3145728 ≤ s.journalUsed ∨ 245760 ≤ s.dirty.length ∨ 245760 ≤ s.logged.length
      (¬ due → exec .autoCheckpoint s = .next s) ∧
      (due → (∀ k, s.quiesced k = true) → ∃ z b k, exec .autoCheckpoint s = .next z ∧ z.ckpt = some k ∧ k.who = none ∧
        k.reset = false ∧ k.at_ = .written ∧ k.markA = (s.port 1).highest ∧ k.markB = (s.port 2).highest ∧ z.delta = some b ∧
        b.number = s.ckptNumber + 1 ∧ z.base = s.base ∧ z.commits = s.commits ∧ SameBytes s z) ∧
      (due → (∃ c x, c < 128 ∧ x < 4 ∧ (s.ctx c x).st ≠ .free) → ∃ z k, exec .autoCheckpoint s = .next z ∧ z.ckpt = some k ∧
        k.at_ = .quiesce ∧ z.delta = s.delta ∧ z.base = s.base ∧ SameBytes s z) := by
  intro due
  obtain ⟨hnot, hdue⟩ := State.exec_autoCheckpoint hc hf hm
  refine ⟨hnot, fun hd hq => ?_, fun hd ⟨c, x, hcl, hxl, hst⟩ => ?_⟩
  · have he := hdue hd
    rw [State.beginCkpt_quiet hq] at he
    exact ⟨_, _, _, he, rfl, rfl, rfl, rfl, rfl, rfl, rfl, rfl, rfl, rfl, fun _ => rfl⟩
  · have hh := State.beginCkpt_busy hcl hxl hst
    exact ⟨_, s.ownCkpt, hdue hd, hh.same _ fun _ _ _ => rfl, rfl, hh.same _ fun _ _ _ => rfl,
      hh.same _ fun _ _ _ => rfl, fun a => hh.same (State.byteAt · a) fun _ _ _ => rfl⟩

/-- Settles O42: LAUNCH_ENTRY by the order of its checks, LAUNCH_COMPLETE, SESSION_KILL and AUTO_CHECKPOINT by what
each may change; FOLD_COMPLETE has nothing to do where no fold is in progress. -/
theorem launchLife : Obligations.LaunchLife := by
  refine ⟨launch_enters_or_ends, launch_completes, session_killed, ownCkpt_taken, ?_⟩
  intro s hf
  have he : exec .foldComplete s = .next (if s.folding then s.fold.runJournal else s) := rfl
  rw [he, hf, if_neg (by simp)]

end Sys2Proof.Machine
end

section
/-! PROOFS. RESTORE with a granule outside the capacity tier in the list of logged granules: O41 does not hold. -/

namespace Sys2Proof.Machine

/-- A RESTORE command with REPLAY 0 (02 R47). -/
def restoreMsg : List Byte := [7, 2, 40, 0, 0, 0, 0, 0, 77] ++ List.replicate 31 0

/-- A ready device with an empty base image, whose pre-image log holds a byte of granule 0, which is one of HBM4. -/
def misloggedS : State :=
  { State.reset with
    mode := .ready, burgee := 1, base := some {}, logged := [0], logArea := { data := [(0, 1)] }
    arg := { port := 1, msg := restoreMsg } }

theorem misloggedS_arrives : Arrives misloggedS 1 restoreMsg .restore := by
  refine ⟨rfl, .inl rfl, rfl, rfl, rfl, rfl, rfl, by decide, by decide, by decide, by decide⟩

theorem misloggedS_memOk : MemOk misloggedS := by
  refine ⟨by decide, ⟨by decide, by decide⟩, ⟨by decide, by decide⟩, ⟨by decide, by decide⟩, fun b hb => ?_, fun b hb => ?_⟩
  · obtain rfl := Option.some.inj hb
    decide
  · nomatch hb

theorem exec_restore_misloggedS : exec .restore misloggedS = .next (misloggedS.command 1 restoreMsg) :=
  exec_event (m := restoreMsg) rfl (.inl rfl) rfl

/-- The logged byte comes back at address 0 of HBM4, where the base image has none. -/
theorem misloggedS_restored : (misloggedS.command 1 restoreMsg).byteAt 0 = 1 := by decide +kernel

/-- Refutes O41: its clause on RESTORE gives HBM4 the bytes of the base image, but does not ask that every logged granule
is one of the capacity tier (03 R78). The pre-image of a logged granule of HBM4 is put back too, and stands where the
base image has no byte. -/
theorem not_controlAndCheckpointCommands : ¬ Obligations.ControlAndCheckpointCommands := by
  rintro ⟨⟨hrestore, -⟩, -⟩
  obtain ⟨z, hz, -, -, -, -, -, -, -, -, hbase, -⟩ := hrestore misloggedS 1 restoreMsg {} misloggedS_arrives rfl rfl rfl rfl rfl
    (by decide) misloggedS_memOk (fun _ h => absurd h List.not_mem_nil) (fun _ h => absurd h List.not_mem_nil)
  have hnext : misloggedS.command 1 restoreMsg = z := Host.Outcome.next.inj (exec_restore_misloggedS.symm.trans hz)
  have hbyte : z.byteAt 0 = memGet misloggedS.baseArea.data (State.baseSlot (0 / 65536) * 65536 + 0 % 65536) :=
    hbase 0 (.inl (by decide))
  have hone : (1 : Byte) = 0 := misloggedS_restored.symm.trans ((congrArg (State.byteAt · 0) hnext).trans hbyte)
  exact absurd hone (by decide)

end Sys2Proof.Machine
end

section
/-! PROOFS. What the canonical form of memory speaks of, and the operations that write it (O59). -/

namespace Sys2Proof.Machine

/-! ## The part of the state that is kept in form -/

/-- What `MemOk` speaks of: memory, the striped areas of the safe region, and the two records that keep a memory. -/
structure Stored where
  mem : List Host.Cell
  baseArea : Striped
  deltaArea : Striped
  logArea : Striped
  base : Option Image
  delta : Option Image

/-- The stored part of a state. -/
def State.stored : State → Stored
  | { mem, baseArea, deltaArea, logArea, base, delta, .. } => ⟨mem, baseArea, deltaArea, logArea, base, delta⟩

/-- Every part has its canonical form. -/
structure Stored.Ok (x : Stored) : Prop where
  mem : Memory.wf x.mem = true
  baseArea : x.baseArea.Wf
  deltaArea : x.deltaArea.Wf
  logArea : x.logArea.Wf
  base : ∀ b, x.base = some b → Memory.wf b.mem = true
  delta : ∀ b, x.delta = some b → Memory.wf b.mem = true

theorem memOk_iff {s : State} : MemOk s ↔ s.stored.Ok :=
  ⟨fun ⟨hm, hb, hd, hl, hbase, hdelta⟩ => ⟨hm, hb, hd, hl, hbase, hdelta⟩,
   fun ⟨hm, hb, hd, hl, hbase, hdelta⟩ => ⟨hm, hb, hd, hl, hbase, hdelta⟩⟩

/-! An update of other fields is seen through: the stored part of a written-out state names six of its fields, and those
of one state are its stored part again. `simp` is given the definition's equation and not the definition, so that it
takes no other state apart. -/

@[simp] theorem State.stored_of_mk : type_of% @State.stored.eq_1 := @State.stored.eq_1

@[simp] theorem State.stored_eta (s : State) :
    Stored.mk s.mem s.baseArea s.deltaArea s.logArea s.base s.delta = s.stored := rfl

@[simp] theorem State.stored_ite {p : Prop} [Decidable p] (s t : State) :
    (if p then s else t).stored = if p then s.stored else t.stored := apply_ite ..

@[simp] theorem Stored.ok_ite {p : Prop} [Decidable p] (x y : Stored) :
    (if p then x else y).Ok ↔ (p → x.Ok) ∧ (¬ p → y.Ok) := by split <;> simp [*]

/-! Loops, and results that come beside a state. -/

@[simp] theorem foldl_stored {α : Type} {f : State → α → State} (hf : ∀ s a, (f s a).stored = s.stored) (l : List α)
    (s : State) : (l.foldl f s).stored = s.stored := by
  induction l generalizing s with
  | nil => rfl
  | cons a l ih => rw [List.foldl_cons, ih, hf]

theorem foldl_ok {α : Type} {f : State → α → State} (hf : ∀ {s} a, s.stored.Ok → (f s a).stored.Ok) (l : List α)
    {s : State} (h : s.stored.Ok) : (l.foldl f s).stored.Ok :=
  Laws.Memory.foldl_keeps (fun s : State => s.stored.Ok) f (fun _ a h => hf a h) l h

theorem ok_snd {α : Type} {r : α × State} {x : α} {t : State} (e : r = (x, t)) (h : r.2.stored.Ok) : t.stored.Ok := by
  rwa [e] at h

theorem ok_fst {α : Type} {r : State × α} {x : α} {t : State} (e : r = (t, x)) (h : r.1.stored.Ok) : t.stored.Ok := by
  rwa [e] at h

/-! What is known to change some fields only, none of them stored, keeps the stored part. -/

theorem SendsOnly.stored {s t : State} (h : SendsOnly s t) : t.stored = s.stored := h.same State.stored fun _ _ _ => rfl

theorem BooksOnly.stored {s t : State} (h : BooksOnly s t) : t.stored = s.stored :=
  h.same State.stored fun _ _ _ _ _ => rfl

theorem CoresOnly.stored {s t : State} (h : CoresOnly s t) : t.stored = s.stored := by
  rw [h]
  rfl

theorem State.HaltsOnly.stored {s t : State} (h : State.HaltsOnly s t) : t.stored = s.stored :=
  h.same State.stored fun _ _ _ => rfl

/-- The state after an outcome, where it goes on, has its stored part in form. -/
structure OutOk (o : Out) : Prop where
  of_next {t : State} : o = .next t → t.stored.Ok

@[simp] theorem outOk_next {t : State} : OutOk (.next t) ↔ t.stored.Ok :=
  ⟨fun h => h.of_next rfl, fun h => ⟨fun e => Host.Outcome.next.inj e ▸ h⟩⟩

@[simp] theorem outOk_ite {p : Prop} [Decidable p] (x y : Out) :
    OutOk (if p then x else y) ↔ (p → OutOk x) ∧ (¬ p → OutOk y) := by split <;> simp [*]

theorem outOk_bind {o : Out} {f : State → Out} (ho : OutOk o) (hf : ∀ {z}, z.stored.Ok → OutOk (f z)) :
    OutOk (match o with | .next z => f z | o => o) := by
  cases o with
  | next z => exact hf (ho.of_next rfl)
  | fault r => exact ho
  | refused r => exact ho

/-! ## The writers: memory, and the areas and records of the safe region -/

namespace Stored.Ok

variable {x : Stored} (h : x.Ok)
include h

theorem withMem {m : List Host.Cell} (hm : Memory.wf m = true) : Stored.Ok { x with mem := m } := { h with mem := hm }

theorem withLogArea {a : Striped} (ha : a.Wf) : Stored.Ok { x with logArea := a } := { h with logArea := ha }

end Stored.Ok

theorem emptyStriped_wf : ({} : Striped).Wf := ⟨rfl, rfl⟩

namespace State

variable {s : State}

theorem areaStore_wf (s : State) {x : Striped} (h : x.Wf) : (s.areaStore x).Wf := by
  unfold areaStore
  split
  · exact Laws.Memory.lose_wf h _
  · exact h

theorem logGranule_ok (h : s.stored.Ok) (g) : (s.logGranule g).stored.Ok := by
  unfold logGranule
  split
  · exact h
  · exact h.withLogArea (areaStore_wf s (Laws.Memory.fill_wf (Laws.Memory.areaRead_wf s h.logArea) ..))

theorem touch_ok (h : s.stored.Ok) (a n) : (s.touch a n).stored.Ok := by
  unfold touch
  split
  · exact h
  · split
    · exact foldl_ok (fun g h => logGranule_ok h g) _ h
    · exact h

@[simp] theorem writeMasked_ok (h : s.stored.Ok) (a bs) : (s.writeMasked a bs).stored.Ok :=
  have ht := touch_ok h a bs.length
  ht.withMem (Laws.Memory.memWrite_wf ht.mem ..)

@[simp] theorem write_ok (h : s.stored.Ok) (a bs) : (s.write a bs).stored.Ok := writeMasked_ok h ..

@[simp] theorem writeNat_ok (h : s.stored.Ok) (a n x) : (s.writeNat a n x).stored.Ok := write_ok h ..

@[simp] theorem zero_ok (h : s.stored.Ok) (a n) : (s.zero a n).stored.Ok :=
  have ht := touch_ok h a n
  ht.withMem (Laws.Memory.filter_wf ht.mem _)

/-- Fold: the base image takes granules byte by byte, and the records are those of the delta (03 R79). -/
@[simp] theorem fold_ok (h : s.stored.Ok) : s.fold.stored.Ok := by
  unfold fold
  split
  next d k hd hk =>
    split
    · refine { h with baseArea := areaStore_wf s ?_, base := fun b e => ?_, delta := nofun }
      · exact Laws.Memory.foldl_keeps Striped.Wf _ (fun _ _ hb => Laws.Memory.fill_wf hb ..) _
          (Laws.Memory.areaRead_wf s h.baseArea)
      · obtain rfl := Option.some.inj e
        exact h.delta _ hd
    · exact h
  next => exact h

/-- Write: the delta area is filled from nothing, and its records keep a part of memory (03 R79). -/
@[simp] theorem writeDelta_ok (h : s.stored.Ok) (k) : (s.writeDelta k).stored.Ok := by
  refine { h with deltaArea := areaStore_wf s ?_, delta := fun b e => ?_ }
  · exact Laws.Memory.foldl_keeps Striped.Wf _ (fun _ _ hx => Laws.Memory.fill_wf hx ..) _ emptyStriped_wf
  · obtain rfl := Option.some.inj e
    exact Laws.Memory.filter_wf h.mem _

@[simp] theorem commit_ok (h : s.stored.Ok) (k img) : (s.commit k img).stored.Ok := h.withLogArea emptyStriped_wf

/-- Memory after a restore is written cell by cell from nothing. -/
theorem restoredMem_wf (s : State) (img : Image) : Memory.wf (s.restoredMem img) = true :=
  Laws.Memory.foldl_keeps (fun m : List Host.Cell => Memory.wf m = true) _
    (fun _ _ hm => Laws.Memory.memWrite_wf hm ..) _ rfl

@[simp] theorem initSafe_ok (h : s.stored.Ok) : s.initSafe.stored.Ok where
  mem := h.mem
  baseArea := emptyStriped_wf
  deltaArea := emptyStriped_wf
  logArea := emptyStriped_wf
  base _ e := Option.some.inj e ▸ rfl
  delta := nofun

@[simp] theorem clearWork_ok (h : s.stored.Ok) : s.clearWork.stored.Ok := h.withMem (Laws.Memory.filter_wf h.mem _)

@[simp] theorem losePackage_ok (h : s.stored.Ok) : s.losePackage.stored.Ok := by
  unfold losePackage
  split
  · exact { h with
      baseArea := Laws.Memory.lose_wf h.baseArea _
      deltaArea := Laws.Memory.lose_wf h.deltaArea _
      logArea := Laws.Memory.lose_wf h.logArea _ }
  · exact h

/-- An event may tell of unreadable units; the cells of the areas stay. -/
@[simp] theorem withArg_ok (h : s.stored.Ok) (a) : (s.withArg a).stored.Ok :=
  ⟨h.mem, h.baseArea, h.deltaArea, h.logArea, h.base, h.delta⟩

end State
end Sys2Proof.Machine
end

section
/-! PROOFS. What the pieces of the model do to the stored part: links, accesses, strands, engines and page tables (O59).

A piece that writes no stored field has a lemma `…_stored`, which says that the stored part is the same; one that may
write has a lemma `…_ok`, which says that it stays in form. Both follow from those of the pieces it is made of. -/

namespace Sys2Proof.Machine.State

variable {s : State}

/-! ## Registers, contexts, strands and traps -/

@[simp] theorem modCore_stored (c f) : (s.modCore c f).stored = s.stored := by rfl

@[simp] theorem setCtx_stored (c x t) : (s.setCtx c x t).stored = s.stored := by rfl

@[simp] theorem modCtx_stored (c x f) : (s.modCtx c x f).stored = s.stored := by rfl

@[simp] theorem modChan_stored (c k f) : (s.modChan c k f).stored = s.stored := by rfl

@[simp] theorem modLink_stored (l f) : (s.modLink l f).stored = s.stored := by rfl

@[simp] theorem modPort_stored (p f) : (s.modPort p f).stored = s.stored := by rfl

@[simp] theorem modCur_stored (f) : (s.modCur f).stored = s.stored := by rfl

@[simp] theorem modStrand_stored (age f) : (s.modStrand age f).stored = s.stored := by rfl

@[simp] theorem modSession_stored (id f) : (s.modSession id f).stored = s.stored := by rfl

@[simp] theorem modLaunch_stored (id f) : (s.modLaunch id f).stored = s.stored := by rfl

@[simp] theorem nextSeq_stored : (s.nextSeq).2.stored = s.stored := by rfl

@[simp] theorem draw_stored : (s.draw).2.stored = s.stored := by rfl

@[simp] theorem push_stored (p) : (s.push p).stored = s.stored := by rfl

@[simp] theorem putG_stored (d x lat flags) : (s.putG d x lat flags).stored = s.stored := by rfl

@[simp] theorem putK_stored (d x lat flags) : (s.putK d x lat flags).stored = s.stored := by rfl

@[simp] theorem putQ_stored (d x q lat flags) : (s.putQ d x q lat flags).stored = s.stored := by rfl

@[simp] theorem putLine_stored (n x q lat flags) : (s.putLine n x q lat flags).stored = s.stored := by rfl

@[simp] theorem putR_stored (d x lat) : (s.putR d x lat).stored = s.stored := by rfl

@[simp] theorem outcome_stored (o) : (s.outcome o).stored = s.stored := by rfl

@[simp] theorem blockOn_stored (k) : (s.blockOn k).stored = s.stored := by rfl

@[simp] theorem leaveCrew_stored (age) : (s.leaveCrew age).stored = s.stored := by rfl

@[simp] theorem releaseFeed_stored (age f) : (s.releaseFeed age f).stored = s.stored := by rfl

@[simp] theorem endStrands_stored (sess) : (s.endStrands sess).stored = s.stored := by simp [endStrands]

@[simp] theorem killSession_stored (sess) : (s.killSession sess).stored = s.stored := by simp [killSession]

@[simp] theorem enterTrap_stored (c x cause eva) :
    (s.enterTrap c x cause eva).stored = s.stored := by simp [enterTrap]

@[simp] theorem trapCause_stored (cause eva) : (s.trapCause cause eva).stored = s.stored := by simp [trapCause]

@[simp] theorem trapWith_stored (code sub eva) : (s.trapWith code sub eva).stored = s.stored := by simp [trapWith]

@[simp] theorem trap_stored (code) : (s.trap code).stored = s.stored := by simp [trap]

@[simp] theorem eretTo_stored : s.eretTo.stored = s.stored := by rfl

/-! ## Free values -/

@[simp] theorem drawsFor_stored (m n) : (s.drawsFor m n).2.stored = s.stored := by unfold drawsFor; split <;> rfl

/-! ## Links, faults and engine reads -/

@[simp] theorem sendIdle_stored (l) : (s.sendIdle l).stored = s.stored := (sendIdle_sendsOnly s l).stored

@[simp] theorem emit_stored (f) : (s.emit f).stored = s.stored := (emit_sendsOnly s f).stored

@[simp] theorem sendControl_stored (l kind payload) :
    (s.sendControl l kind payload).stored = s.stored := by simp [sendControl]

@[simp] theorem sendNow_stored (l r m) : (s.sendNow l r m).1.stored = s.stored := (sendNow_sendsOnly s l r m).stored

@[simp] theorem sendMsg_stored (l r m) : (s.sendMsg l r m).stored = s.stored := (sendMsg_sendsOnly s l r m).stored

@[simp] theorem drainBacklog_stored (l n) : (s.drainBacklog l n).stored = s.stored := by
  induction n generalizing s with
  | zero => rfl
  | succ n ih =>
    simp only [drainBacklog]
    split
    · rfl
    · split <;> simp [ih]

@[simp] theorem toHost_stored (p c m) : (s.toHost p c m).stored = s.stored := (toHost_sendsOnly s p c m).stored

@[simp] theorem event_stored (p kind status arg body) :
    (s.event p kind status arg body).stored = s.stored := by simp [event]

@[simp] theorem eventBoth_stored (kind arg) : (s.eventBoth kind arg).stored = s.stored := by simp [eventBoth]

@[simp] theorem logFault_stored (cls unit index place paddr) :
    (s.logFault cls unit index place paddr).stored = s.stored := by simp [logFault]

@[simp] theorem hostWrite_stored (p a b) : (s.hostWrite p a b).stored = s.stored := (hostWrite_sendsOnly s p a b).stored

@[simp] theorem askRead_stored (l sess who va a n) :
    (s.askRead l sess who va a n).2.stored = s.stored := by simp [askRead]

@[simp] theorem askAtomic_stored (l sess who va a atop sz x cmp) :
    (s.askAtomic l sess who va a atop sz x cmp).2.stored = s.stored := by simp [askAtomic]

@[simp] theorem postWrite_stored (l sess a b) : (s.postWrite l sess a b).1.stored = s.stored := by simp [postWrite]

@[simp] theorem askAll_stored (sess who ps) : (s.askAll sess who ps).2.stored = s.stored := by
  induction ps generalizing s with
  | nil => rfl
  | cons p ps ih =>
    simp only [askAll]
    split
    · exact ih
    · exact ih.trans (askRead_stored ..)

@[simp] theorem dropRequests_stored (ps ts) : (s.dropRequests ps ts).stored = s.stored := by rfl

/-- A read that meets a lasting error takes its bytes out of memory (03 R72). -/
@[simp] theorem meetError_ok (h : s.stored.Ok) (a n e) : (s.meetError a n e).stored.Ok := by
  unfold meetError
  split
  · simp [h]
  · rw [logFault_stored]
    split <;> exact h
  · exact h.withMem (Laws.Memory.filter_wf h.mem _)

@[simp] theorem meet_ok (h : s.stored.Ok) (a n) : (s.meet a n).stored.Ok :=
  foldl_ok (fun e h => meetError_ok h a n e) _ h

theorem meetPiece_ok (h : s.stored.Ok) (p : Piece) (n : Nat) :
    (match p.home with | .here a => s.meet a n | _ => s).stored.Ok := by
  split <;> simp [h]

@[simp] theorem meetPieces_ok (h : s.stored.Ok) (sess ps) : (s.meetPieces sess ps).stored.Ok := by
  unfold meetPieces
  split
  · exact h
  · refine foldl_ok (fun {s} p h => meetPiece_ok ?_ p p.len) ps h
    split
    · split
      · exact foldl_ok (fun a h => meet_ok h ..) _ h
      · exact h
    · exact h

@[simp] theorem heatOf_stored (sess ps) : (s.heatOf sess ps).stored = s.stored := by simp [heatOf]

@[simp] theorem engineRead_ok (h : s.stored.Ok) (sess n src ps) : (s.engineRead sess n src ps).2.stored.Ok := by
  simp only [engineRead]
  repeat' split
  all_goals simp [h]

@[simp] theorem claimArrays_stored (sess ps) : (s.claimArrays sess ps).stored = s.stored := by
  refine foldl_stored (fun s p => ?_) ps s
  split
  · split <;> simp
  · rfl

/-! ## Accesses -/

@[simp] theorem takeBytes_ok (h : s.stored.Ok) (sess n ps ts) :
    (s.takeBytes sess n ps ts).2.stored.Ok := by simp [takeBytes, h]

@[simp] theorem storePieces_ok (h : s.stored.Ok) (sess ps b) : (s.storePieces sess ps b).1.stored.Ok := by
  refine Laws.Memory.foldl_keeps (fun r : State × List (Nat × BitVec 32) => r.1.stored.Ok) _
    (fun ⟨s, acks⟩ p h => ?_) ps h
  dsimp only
  split
  · exact write_ok h ..
  · split
    · exact (postWrite_stored ..).symm ▸ h
    · exact h

@[simp] theorem finish_stored (c x id acks) : (s.finish c x id acks).stored = s.stored := by rfl

@[simp] theorem accessFault_stored (c x a code va) : (s.accessFault c x a code va).stored = s.stored := by rfl

@[simp] theorem setTags_stored (c x id ts) : (s.setTags c x id ts).stored = s.stored := by rfl

@[simp] theorem askAtomicAt_stored (sess who p op sz v cmp) :
    (s.askAtomicAt sess who p op sz v cmp).2.stored = s.stored := by
  simp only [askAtomicAt]
  split <;> simp

@[simp] theorem atomicHere_ok (h : s.stored.Ok) (sess p k op sz v cmp) :
    (s.atomicHere sess p k op sz v cmp).2.2.stored.Ok := by simp [atomicHere, h]

@[simp] theorem perform_ok (h : s.stored.Ok) (c x id) : (s.perform c x id).stored.Ok := by
  simp only [perform]
  repeat' split
  all_goals simp [h]

@[simp] theorem performEarlier_ok (h : s.stored.Ok) (all) : (s.performEarlier all).stored.Ok :=
  foldl_ok (fun b h => perform_ok h _ _ b.id) _ h

@[simp] theorem fixedRead_ok (h : s.stored.Ok) (a pends lat) : (s.fixedRead a pends lat).stored.Ok := by
  simp only [fixedRead]
  repeat' split
  all_goals simp [h]

@[simp] theorem dropFar_stored (f) : (s.dropFar f).stored = s.stored := by rfl

@[simp] theorem farRead_ok (h : s.stored.Ok) (a pends lat) : (s.farRead a pends lat).stored.Ok := by
  simp only [farRead]
  repeat' split
  all_goals simp [h]

@[simp] theorem issueOk_ok (h : s.stored.Ok) (a why ps pends lat) :
    (s.issueOk a why ps pends lat).stored.Ok := by simp [issueOk, h]

@[simp] theorem checkAccessParts_ok (h : s.stored.Ok) (a why writes inTurn checked mis pends lat) :
    (s.checkAccessParts a why writes inTurn checked mis pends lat).stored.Ok := by
  simp only [checkAccessParts]
  split <;> simp [h]

@[simp] theorem issueAccess_ok (h : s.stored.Ok) (a why writes p align parts pends lat) :
    (s.issueAccess a why writes p align parts pends lat).stored.Ok := by simp [issueAccess, h]

/-! ## Save areas -/

@[simp] theorem writeVa_ok (h : s.stored.Ok) (sess n va b) : (s.writeVa sess n va b).stored.Ok := by
  induction n generalizing s va b with
  | zero => exact h
  | succ n ih =>
    simp only [writeVa]
    split
    · exact h
    · refine ih ?_ _ _
      split
      · split <;> simp [h]
      · exact h

@[simp] theorem flushLate_ok (h : s.stored.Ok) : s.flushLate.stored.Ok := foldl_ok (fun _ h => writeVa_ok h ..) _ h

@[simp] theorem readVa_ok (h : s.stored.Ok) (sess va n) : (s.readVa sess va n).2.stored.Ok := by
  simp only [readVa]
  split <;> simp [h]

@[simp] theorem areaImage_ok (h : s.stored.Ok) (t) : (s.areaImage t).2.stored.Ok := by
  unfold areaImage
  split <;> simp [h]

@[simp] theorem saveMarks_ok (h : s.stored.Ok) (age) : (s.saveMarks age).stored.Ok := by
  simp only [saveMarks]
  repeat' split
  all_goals simp [h]

/-! ## Strands -/

@[simp] theorem newStrand_stored (launch sess core prio index image) :
    (s.newStrand launch sess core prio index image).stored = s.stored := by rfl

@[simp] theorem startHalt_stored (c x park) : (s.startHalt c x park).stored = s.stored :=
  (startHalt_haltsOnly s c x park).stored

@[simp] theorem switchBack_stored (c x) (z : State) : (s.switchBack c x z).stored = z.stored := by simp [switchBack]

/-! ## Copy engines -/

@[simp] theorem issueCopy_stored (kind c p dst src aux mode sh time) :
    (s.issueCopy kind c p dst src aux mode sh time).stored = s.stored := by simp [issueCopy]

@[simp] theorem modHome_stored (age f) : (s.modHome age f).stored = s.stored := by
  simp only [modHome]
  repeat' split
  all_goals simp

@[simp] theorem finishCopy_stored (c k cmd failed) : (s.finishCopy c k cmd failed).stored = s.stored := by rfl

@[simp] theorem bufferEntry_stored (c k) : (s.bufferEntry c k).stored = s.stored := by
  simp only [bufferEntry]
  repeat' split
  all_goals simp

@[simp] theorem copyStart_stored (c k) : (s.copyStart c k).stored = s.stored := by
  simp only [copyStart]
  repeat' split
  all_goals simp

@[simp] theorem failCopy_stored (c k cmd drop) : (s.failCopy c k cmd drop).stored = s.stored := by rfl

@[simp] theorem reportBar_ok (h : s.stored.Ok) (c k cmd f) :
    (s.reportBar c k cmd f).stored.Ok := by simp [reportBar, h]

@[simp] theorem engineFault_stored (sess c chan tid va) :
    (s.engineFault sess c chan tid va).stored = s.stored := by simp [engineFault]

@[simp] theorem beatDenied_stored (c k r d) : (s.beatDenied c k r d).stored = s.stored := by simp [beatDenied]

@[simp] theorem setRun_stored (c k r) : (s.setRun c k r).stored = s.stored := by rfl

@[simp] theorem rowIndex_ok (h : s.stored.Ok) (c k r) : (s.rowIndex c k r).1.stored.Ok := by
  simp only [rowIndex]
  split
  · split
    · simp [h]
    · split
      · exact h
      · split <;> next e => simp [ok_snd e (engineRead_ok h ..)]
  · exact h

@[simp] theorem tileRecord_ok (h : s.stored.Ok) (c k r) : (s.tileRecord c k r).1.stored.Ok := by
  simp only [tileRecord]
  split
  · split
    · simp [h]
    · split
      · exact h
      · split
        · next e => simp [ok_snd e (engineRead_ok h ..)]
        · next e => simp [ok_snd e (engineRead_ok h ..)]
        · next e => split <;> simp [ok_snd e (engineRead_ok h ..)]
  · exact h

@[simp] theorem beatIssue_ok (h : s.stored.Ok) (c k) : (s.beatIssue c k).stored.Ok := by
  unfold beatIssue
  split
  · exact h
  split
  · exact h
  split
  next e => exact ok_fst e (tileRecord_ok h ..)
  next e =>
    have ht := ok_fst e (tileRecord_ok h ..)
    split
    · simp [ht]
    split
    next e => exact ok_fst e (rowIndex_ok ht ..)
    next e =>
      have hr := ok_fst e (rowIndex_ok ht ..)
      extract_lets
      split
      · simp [hr]
      split
      split
      extract_lets bad
      clear_value bad
      split <;> simp [hr, apply_ite Prod.snd]

@[simp] theorem beatDone_ok (h : s.stored.Ok) (c k b) : (s.beatDone c k b).stored.Ok := by simp [beatDone, h]

@[simp] theorem beatComplete_ok (h : s.stored.Ok) (c k) : (s.beatComplete c k).stored.Ok := by
  have hmeet := meetPieces_ok h
  simp only [beatComplete]
  split
  · simp [h]
  · split <;> simp [h, hmeet]

@[simp] theorem transferDone_ok (h : s.stored.Ok) (c k) : (s.transferDone c k).stored.Ok := by
  simp only [transferDone]
  split <;> simp [h]

@[simp] theorem resolveCopies_stored (sess f) : (s.resolveCopies sess f).stored = s.stored :=
  (resolveCopies_coresOnly s sess f).stored

/-! ## Bank units -/

@[simp] theorem setUnit_stored (u) : (s.setUnit u).stored = s.stored := by simp [setUnit]

@[simp] theorem modUnit_stored (ch f) : (s.modUnit ch f).stored = s.stored := by simp [modUnit]

@[simp] theorem modSlot_stored (ch k f) : (s.modSlot ch k f).stored = s.stored := by simp [modSlot]

@[simp] theorem modFeed_ok (h : s.stored.Ok) (age f g) : (s.modFeed age f g).stored.Ok := by simp [modFeed, h]

@[simp] theorem loadRoutine_ok (h : s.stored.Ok) (ch sess id ws) : (s.loadRoutine ch sess id ws).1.stored.Ok := by
  simp only [loadRoutine]
  repeat' split
  all_goals simp [h]

@[simp] theorem startInstance_stored (ch age feed sess frame len arg wave) :
    (s.startInstance ch age feed sess frame len arg wave).1.stored = s.stored := by
  simp only [startInstance]
  split <;> simp

theorem feedOp_ok (h : s.stored.Ok) (f t dry) {k : State → Feed → State} (hk : ∀ r, (k s r).stored.Ok) :
    (s.feedOp f t dry k).stored.Ok := by
  simp [feedOp, h, hk]

@[simp] theorem refuse_ok (h : s.stored.Ok) (age f) : (s.refuse age f).stored.Ok := by simp [refuse, h]

/-- The routine is loaded into one unit after another. -/
theorem loadRoutines_ok (h : s.stored.Ok) (sess id ws) (chs : List Nat) :
    (chs.foldl (fun ((s, l) : State × List (Nat × Option Nat)) ch =>
      let (s, o) := s.loadRoutine ch sess id ws; (s, l ++ [(ch, o)])) (s, [])).1.stored.Ok :=
  Laws.Memory.foldl_keeps (fun r : State × List (Nat × Option Nat) => r.1.stored.Ok) _
    (fun _ _ h => loadRoutine_ok h ..) chs h

@[simp] theorem bindAll_ok (h : s.stored.Ok) (age f sess id ws) : (s.bindAll age f sess id ws).stored.Ok := by
  have hload := loadRoutines_ok h sess id ws
  simp only [bindAll]
  split
  · simp [h]
  split
  · exact refuse_ok (hload _) ..
  split
  · exact modFeed_ok ((startInstance_stored ..).symm ▸ hload _) ..
  · exact modFeed_ok (by simpa using hload _) ..

theorem imageRead_ok (h : s.stored.Ok) (age f sess off n) {k : State → List Byte → State}
    (hk : ∀ {s} b, s.stored.Ok → (k s b).stored.Ok) : (s.imageRead age f sess off n k).stored.Ok := by
  simp only [imageRead]
  split
  · exact refuse_ok h ..
  split
  · exact h
  split
  next e => exact modFeed_ok (ok_snd e (engineRead_ok h ..)) ..
  next e => exact refuse_ok (ok_snd e (engineRead_ok h ..)) ..
  next e => exact hk _ (modFeed_ok ((claimArrays_stored ..).symm ▸ ok_snd e (engineRead_ok h ..)) ..)

@[simp] theorem bindingResolve_ok (h : s.stored.Ok) (c x f) : (s.bindingResolve c x f).stored.Ok := by
  unfold bindingResolve
  split
  · exact h
  next age _ =>
    extract_lets r sess stopping body
    have hbody {s : State} (n : Nat) (h : s.stored.Ok) : (body s n).stored.Ok := by
      simp only [body]
      split
      · simp [h]
      split
      · simp [h]
      · refine imageRead_ok h _ _ _ _ _ fun _ h => ?_
        split <;> simp [h]
    split
    · exact h
    split
    · simp [h]
    split
    · exact hbody _ h
    · exact imageRead_ok h _ _ _ _ _ fun _ h => hbody _ (modFeed_ok h ..)

@[simp] theorem waveInstance_stored (w p) : (s.waveInstance w p).1.stored = s.stored := by
  simp only [waveInstance]
  split <;> simp

theorem waveStep_stored {w : Wave} {r : State × Wave} (e : s.waveStep w = some r) : r.1.stored = s.stored := by
  unfold waveStep at e
  split at e
  · obtain rfl := Option.some.inj e
    simp
  · split at e
    · obtain rfl := Option.some.inj e
      exact Laws.Memory.foldl_keeps (fun x : State × List Nat => x.1.stored = s.stored) _
        (fun x p hx => (waveInstance_stored ..).trans hx) _ rfl
    · nomatch e

@[simp] theorem waveStart_stored : s.waveStart.stored = s.stored := by
  unfold waveStart
  split
  · rfl
  next w t v e =>
    obtain ⟨u, -, hu⟩ := List.exists_of_findSome?_eq_some e
    obtain ⟨r, hr, hv⟩ := Option.map_eq_some_iff.1 hu
    cases hv
    exact waveStep_stored hr

@[simp] theorem boundary_stored : s.boundary.stored = s.stored := by simp [boundary]

@[simp] theorem endInstance_stored (k) : (s.endInstance k).stored = s.stored := by simp [endInstance]

@[simp] theorem failInstance_ok (h : s.stored.Ok) (k b faddr) :
    (s.failInstance k b faddr).stored.Ok := by simp [failInstance, h]

@[simp] theorem bankStep_stored (f) : (s.bankStep f).stored = s.stored := by
  simp only [bankStep]
  split <;> simp

theorem column_ok (h : s.stored.Ok) (a m why) {act : State → Nat → BankSlot → State}
    (hact : ∀ {s} k b, s.stored.Ok → (act s k b).stored.Ok) : (s.column a m why act).stored.Ok := by
  simp only [column]
  split
  · exact h
  split
  · simp [h]
  split
  · split
    · exact hact _ _ (by simp [h])
    · simp [h]
  · exact h

@[simp] theorem queueBanks_stored : s.queueBanks.stored = s.stored := by rfl

@[simp] theorem occupyBanks_stored (k ps) : (s.occupyBanks k ps).stored = s.stored := by rfl

@[simp] theorem suspendSlot_stored (ch k held) : (s.suspendSlot ch k held).stored = s.stored := by simp [suspendSlot]

@[simp] theorem rowStart_stored (ch) : (s.rowStart ch).stored = s.stored := by
  simp only [rowStart]
  repeat' split
  all_goals simp

@[simp] theorem rowBoundary_stored (ch) : (s.rowBoundary ch).stored = s.stored := by
  simp only [rowBoundary]
  repeat' split
  all_goals simp

@[simp] theorem guarantee_stored (ch) : (s.guarantee ch).stored = s.stored := by
  simp only [guarantee]
  repeat' split
  all_goals simp

/-! ## Control transfers -/

@[simp] theorem jump_stored (target) : (s.jump target).stored = s.stored := by rfl

@[simp] theorem openLoop_stored (len count) : (s.openLoop len count).stored = s.stored := by simp [openLoop]

/-! ## Table queries -/

theorem tableWork_ok {f : State → State} (h : (f s).stored.Ok) (slot n) : (s.tableWork slot n f).stored.Ok := by
  simp [tableWork, h]

theorem tableUse_ok (h : s.stored.Ok) (tb good) {f : State → BitVec 128 → State} (hf : ∀ d, (f s d).stored.Ok) :
    (s.tableUse tb good f).stored.Ok := by
  simp [tableUse, h, hf]

theorem query_ok (h : s.stored.Ok) (tb good) {f : State → BitVec 128 → State} (hf : ∀ d, (f s d).stored.Ok) :
    (s.query tb good f).stored.Ok :=
  tableUse_ok h tb good fun d => tableWork_ok (hf d) ..

/-! ## Table loads -/

@[simp] theorem modSlots_stored (c f) : (s.modSlots c f).stored = s.stored := by rfl

@[simp] theorem spanEmpty_stored (c tb sess n busy) : (s.spanEmpty c tb sess n busy).stored = s.stored := by rfl

@[simp] theorem emptyOverlaps_stored (c tb sess n) : (s.emptyOverlaps c tb sess n).stored = s.stored := by rfl

@[simp] theorem setLoad_stored (c r) : (s.setLoad c r).stored = s.stored := by rfl

@[simp] theorem failLoad_stored (c r) : (s.failLoad c r).stored = s.stored := (failLoad_coresOnly s c r).stored

@[simp] theorem loadDenied_stored (c r d) : (s.loadDenied c r d).stored = s.stored := by simp [loadDenied]

theorem loaderRead_ok (h : s.stored.Ok) (c r off n) {k : State → List Byte → State}
    (hk : ∀ {s} b, s.stored.Ok → (k s b).stored.Ok) : (s.loaderRead c r off n k).stored.Ok := by
  simp only [loaderRead]
  split
  · simp [h]
  split
  · exact h
  split
  next e => simp [ok_snd e (engineRead_ok h ..)]
  next e => simp [ok_snd e (engineRead_ok h ..)]
  next e => exact hk _ ((claimArrays_stored ..).symm ▸ ok_snd e (engineRead_ok h ..))

@[simp] theorem loadHeader_ok (h : s.stored.Ok) (c r) : (s.loadHeader c r).stored.Ok :=
  loaderRead_ok h _ _ _ _ fun _ h => by simp [h]

@[simp] theorem loadBegin_ok (h : s.stored.Ok) (c r) : (s.loadBegin c r).stored.Ok := by simp [loadBegin, h]

@[simp] theorem tloadStart_ok (h : s.stored.Ok) (c) : (s.tloadStart c).stored.Ok := by
  simp only [tloadStart]
  repeat' split
  all_goals simp [h]

@[simp] theorem tloadComplete_ok (h : s.stored.Ok) (c) : (s.tloadComplete c).stored.Ok := by
  simp only [tloadComplete]
  split
  · exact h
  split
  · exact h
  split
  · exact h
  · exact loaderRead_ok h _ _ _ _ fun _ h => by simp [h]

@[simp] theorem resolveLoads_stored (sess f) : (s.resolveLoads sess f).stored = s.stored :=
  (resolveLoads_coresOnly s sess f).stored

/-! ## Page tables, retirement and migration -/

@[simp] theorem takeTable_ok (h : s.stored.Ok) (pa) : (s.takeTable pa).stored.Ok := by simp [takeTable, h]

@[simp] theorem dropTable_ok (h : s.stored.Ok) (pa) : (s.dropTable pa).stored.Ok := by simp [dropTable, h]

@[simp] theorem setPte_ok (h : s.stored.Ok) (a e) : (s.setPte a e).stored.Ok := by simp [setPte, h]

@[simp] theorem addLevel2_ok (h : s.stored.Ok) (table va pa) :
    (s.addLevel2 table va pa).stored.Ok := by simp [addLevel2, h]

@[simp] theorem prune2_ok (h : s.stored.Ok) (table va) : (s.prune2 table va).stored.Ok := by
  simp only [prune2]
  split <;> simp [h]

@[simp] theorem prune3_ok (h : s.stored.Ok) (table va) : (s.prune3 table va).stored.Ok := by
  simp only [prune3]
  split
  · split
    · exact prune2_ok (dropTable_ok (setPte_ok h ..) _) ..
    · exact h
  · exact h

@[simp] theorem split_ok (h : s.stored.Ok) (a2 e2 pa) : (s.split a2 e2 pa).stored.Ok := by simp [split, h]

theorem mapPage_ok (h : s.stored.Ok) {table va leaf big} {t : State} (e : s.mapPage table va leaf big = some t) :
    t.stored.Ok := by
  unfold mapPage at e
  extract_lets t2 e2 need free y t a2 z p3 w at e
  have hy : y.stored.Ok := by simp [y, h]
  have hz : z.stored.Ok := by simp [z, hy]
  have hw : w.stored.Ok := by simp [w, hy]
  split at e
  · nomatch e
  split at e
  · exact Option.some.inj e ▸ setPte_ok hz ..
  split at e
  · exact Option.some.inj e ▸ setPte_ok hy ..
  · exact Option.some.inj e ▸ setPte_ok hw ..

theorem unmapPage_ok (h : s.stored.Ok) (table va big) : ∀ r ∈ s.unmapPage table va big, r.2.stored.Ok := by
  have hpte := setPte_ok h
  simp only [unmapPage]
  repeat' split
  all_goals simp [h, hpte]

@[simp] theorem unswap_stored (sess va size) : (s.unswap sess va size).stored = s.stored := by rfl

@[simp] theorem mapPages_ok (h : s.stored.Ok) (sess table wxmp tier link big k va pa n) :
    (s.mapPages sess table wxmp tier link big k va pa n).2.stored.Ok := by
  induction k generalizing s va pa n with
  | zero => exact h
  | succ k ih =>
    simp only [mapPages]
    split
    · exact h
    split
    · exact h
    next e => exact ih (by simpa using mapPage_ok h e) ..

@[simp] theorem unmapPages_ok (h : s.stored.Ok) (sess table big k va n) :
    (s.unmapPages sess table big k va n).2.stored.Ok := by
  induction k generalizing s va n with
  | zero => exact h
  | succ k ih =>
    simp only [unmapPages]
    split
    · exact h
    next e => exact ih (by simpa using unmapPage_ok h _ _ _ _ e) ..

theorem moveTable_ok (h : s.stored.Ok) {pa} {t : State} (e : s.moveTable pa = some t) : t.stored.Ok := by
  unfold moveTable at e
  split at e
  · exact Option.some.inj e ▸ h
  split at e
  · nomatch e
  · obtain rfl := Option.some.inj e
    refine foldl_ok (fun t h => foldl_ok (fun x h => ?_) _ h) _ (by simp [h])
    split
    · exact setPte_ok h ..
    · exact h

@[simp] theorem removePage_ok (h : s.stored.Ok) (t a) : (s.removePage t a).2.stored.Ok := by
  refine foldl_ok (fun l h => ?_) _ h
  dsimp only
  split
  next e => exact unmapPage_ok h _ _ _ _ e
  next => exact prune2_ok (setPte_ok h ..) ..

@[simp] theorem retirePage_ok (h : s.stored.Ok) (a) : (s.retirePage a).stored.Ok := by
  refine foldl_ok (fun t h => ?_) _ h
  split <;> simp [h]

@[simp] theorem mapPieces_stored (sess f) : (s.mapPieces sess f).stored = s.stored := by rfl

@[simp] theorem setMig_ok (h : s.stored.Ok) (l on) : (s.setMig l on).stored.Ok := by simp [setMig, h]

@[simp] theorem tryExchange_ok (h : s.stored.Ok) (t va vb) : (s.tryExchange t va vb).stored.Ok := by
  simp only [tryExchange]
  split <;> simp [h]

@[simp] theorem startExchange_ok (h : s.stored.Ok) (sess va vb) : (s.startExchange sess va vb).stored.Ok := by
  simp only [startExchange]
  split <;> simp [h]

@[simp] theorem retryExchanges_ok (h : s.stored.Ok) : s.retryExchanges.stored.Ok := by
  refine foldl_ok (fun x h => ?_) _ h
  dsimp only
  split <;> simp [h]

@[simp] theorem swapLeaves_ok (h : s.stored.Ok) (sess a b va vb) :
    (s.swapLeaves sess a b va vb).stored.Ok := by simp [swapLeaves, h]

@[simp] theorem endExchange_ok (h : s.stored.Ok) (sess) : (s.endExchange sess).stored.Ok := by
  unfold endExchange
  split
  · exact h
  next x _ =>
    extract_lets y go
    have hy : y.stored.Ok := h
    split
    · extract_lets ha hb met ba bb swapped
      have hmet : met.stored.Ok := meet_ok (meet_ok hy ..) ..
      have hswapped : swapped.stored.Ok := swapLeaves_ok (write_ok (write_ok hmet ..) ..) ..
      simp [hswapped]
    · simp [hy]

end Sys2Proof.Machine.State
end

section
/-! PROOFS. What the pieces of the model do to the stored part: ports, matrix units, the scheduler, recovery and the
journal, waits and messages (O59). -/

namespace Sys2Proof.Machine.State

variable {s : State}

/-! ## Host ports -/

@[simp] theorem modEntry_stored (p q f) : (s.modEntry p q f).stored = s.stored := by rfl

@[simp] theorem respond_stored (p m q st fl) : (s.respond p m q st fl).stored = s.stored :=
  (respond_sendsOnly s p m q st fl).stored

@[simp] theorem accept_stored (p m) : (s.accept p m).stored = s.stored := (accept_booksOnly s p m).stored

@[simp] theorem complete_stored (p q st d) : (s.complete p q st d).stored = s.stored :=
  (complete_booksOnly s p q st d).stored

@[simp] theorem sendRecord_stored (p x m) : (s.sendRecord p x m).stored = s.stored := by simp [sendRecord]

@[simp] theorem post_stored (p) : (s.post p).stored = s.stored := by
  simp only [post]
  repeat' split
  all_goals simp

@[simp] theorem repost_stored (p) : (s.repost p).stored = s.stored := by rfl

@[simp] theorem regWrite_stored (p off v) : (s.regWrite p off v).stored = s.stored := by
  simp only [regWrite]
  split <;> simp

@[simp] theorem regRead_stored (p off) : (s.regRead p off).stored = s.stored := by simp [regRead]

@[simp] theorem malformed_stored (p m) : (s.malformed p m).stored = s.stored := by simp [malformed]

@[simp] theorem registerAccess_stored (p m) : (s.registerAccess p m).stored = s.stored := by simp [registerAccess]

@[simp] theorem registerEvent_stored (k) : (s.registerEvent k).stored = s.stored := by simp [registerEvent]

/-! ## Flash and the map of the device -/

@[simp] theorem raiseCounters_stored : s.raiseCounters.stored = s.stored := by rfl

@[simp] theorem stageImage_stored (b) : (s.stageImage b).2.stored = s.stored := by
  simp only [stageImage]
  repeat' split
  all_goals simp

@[simp] theorem stageRecord_stored (b) : (s.stageRecord b).2.stored = s.stored := by unfold stageRecord; split <;> rfl

@[simp] theorem useRecord_stored : s.useRecord.stored = s.stored := by rfl

@[simp] theorem retireColumn_stored (d) : (s.retireColumn d).stored = s.stored := by simp [retireColumn]

@[simp] theorem repair_stored (d) : (s.repair d).stored = s.stored := by
  simp only [repair]
  split <;> simp

@[simp] theorem mapOut_stored : s.mapOut.stored = s.stored := by simp [mapOut]

/-! ## Matrix commands -/

theorem mSlot_ok {f : State → State} (h : s.stored.Ok) (hf : (f s).stored.Ok) (st bd) : OutOk (s.mSlot st bd f) := by
  simp [mSlot, h, hf]

theorem enterStream_ok (h : s.stored.Ok) (st e) {k : State → MEntry → State}
    (hk : ∀ {s} e, s.stored.Ok → (k s e).stored.Ok) : (s.enterStream st e k).stored.Ok := by
  unfold enterStream
  split
  · simp [h]
  · exact hk _ (by simpa using h)

@[simp] theorem mcall_ok (h : s.stored.Ok) (st rt f bd cmd) : (s.mcall st rt f bd cmd).stored.Ok := by
  simp only [mcall]
  repeat' split
  all_goals simp [h, enterStream_ok]

/-! ## Matrix units -/

@[simp] theorem modStream_stored (c x st f) : (s.modStream c x st f).stored = s.stored := by rfl

@[simp] theorem poisonStream_stored (c x age st) :
    (s.poisonStream c x age st).stored = s.stored := by simp [poisonStream]

@[simp] theorem modClaim_stored (c x age id f) : (s.modClaim c x age id f).stored = s.stored := by simp [modClaim]

@[simp] theorem modArr_stored (c i f) : (s.modArr c i f).stored = s.stored := by rfl

@[simp] theorem switched_stored (c i id) : (s.switched c i id).stored = s.stored := by rfl

@[simp] theorem discardStream_stored (c x st) : (s.discardStream c x st).stored = s.stored := by
  refine (foldl_stored (fun s e => ?_) _ _).trans (modCtx_stored ..)
  split <;> simp

@[simp] theorem meetBarriers_ok (h : s.stored.Ok) (c) : (s.meetBarriers c).stored.Ok := by
  unfold meetBarriers
  split
  · exact h
  · refine foldl_ok (fun q h => ?_) _ h
    split <;> simp [h]

@[simp] theorem sweepStreams_ok (h : s.stored.Ok) (c) : (s.sweepStreams c).stored.Ok := by simp [sweepStreams, h]

@[simp] theorem takeEntry_stored (c x st e hold) : (s.takeEntry c x st e hold).stored = s.stored := by rfl

@[simp] theorem setRunning_stored (c r) : (s.setRunning c r).stored = s.stored := by rfl

@[simp] theorem flip_stored (c arrs) : (s.flip c arrs).stored = s.stored := by simp [flip]

@[simp] theorem pushReload_stored (c lead r) : (s.pushReload c lead r).stored = s.stored := by rfl

@[simp] theorem stopReload_stored (c id) : (s.stopReload c id).stored = s.stored := by rfl

@[simp] theorem dropReload_stored (c) : (s.dropReload c).stored = s.stored := by rfl

@[simp] theorem drawBytes_stored (n) : (s.drawBytes n).2.stored = s.stored := by
  induction n generalizing s with
  | zero => rfl
  | succ n ih => exact ih.trans (draw_stored ..)

@[simp] theorem writeAligned_ok (h : s.stored.Ok) (f c l a half n b bs) :
    (s.writeAligned f c l a half n b bs).stored.Ok := by
  induction n generalizing s b bs with
  | zero => exact h
  | succ n ih =>
    simp only [writeAligned]
    split
    · exact h
    split
    · simp [h]
    · exact ih (write_ok (write_ok (write_ok h ..) ..) ..) ..

@[simp] theorem reloadWrite_ok (h : s.stored.Ok) (c r segs bs) : (s.reloadWrite c r segs bs).stored.Ok := by
  induction segs generalizing s bs with
  | nil => exact h
  | cons g segs ih =>
    refine ih ?_ _
    split
    · simp [h]
    · split <;> simp [h]

@[simp] theorem reloadBytes_ok (h : s.stored.Ok) (c r segs bad) :
    (s.reloadBytes c r segs bad).stored.Ok := by simp [reloadBytes, h]

@[simp] theorem reloadDone_ok (h : s.stored.Ok) (c) : (s.reloadDone c).stored.Ok := by
  simp only [reloadDone]
  repeat' split
  all_goals simp [h]

@[simp] theorem failMload_stored (c r) : (s.failMload c r).stored = s.stored := by simp [failMload]

@[simp] theorem mloadComplete_ok (h : s.stored.Ok) (c) : (s.mloadComplete c).stored.Ok := by
  simp only [mloadComplete]
  split
  · split
    · exact h
    split
    · simp [h]
    split
    · exact h
    split
    next e => simp [ok_snd e (engineRead_ok h ..)]
    next e => simp [ok_snd e (engineRead_ok h ..)]
    next e =>
      have hr := ok_snd e (engineRead_ok h ..)
      split
      · simp [hr]
      · split <;> simp [hr]
  · exact h

@[simp] theorem switchMacro_ok (h : s.stored.Ok) (c x st i e compute) :
    (s.switchMacro c x st i e compute).stored.Ok := by simp [switchMacro, h]

@[simp] theorem nextMicro_stored (r pc n) : (s.nextMicro r pc n).stored = s.stored := by rfl

@[simp] theorem setRow_stored (x n v) : (s.setRow x n v).stored = s.stored := by rfl

@[simp] theorem clrRows_stored (r rb nr) : (s.clrRows r rb nr).stored = s.stored := by simp [clrRows]

@[simp] theorem meetActs_ok (h : s.stored.Ok) (e v nl) : (s.meetActs e v nl).stored.Ok := by simp [meetActs, h]

@[simp] theorem macVector_ok (h : s.stored.Ok) (r rb rs k v wts) : (s.macVector r rb rs k v wts).1.stored.Ok :=
  Laws.Memory.foldl_keeps (fun x : State × Bool => x.1.stored.Ok) _
    (fun _ _ hx => Laws.Memory.foldl_keeps (fun x : State × Bool => x.1.stored.Ok) _
      (fun _ _ hy => (setRow_stored ..).symm ▸ hy) _ hx) _ (meetActs_ok h ..)

@[simp] theorem macWord_ok (h : s.stored.Ok) (r nv rs rb) : (s.macWord r nv rs rb).stored.Ok := by
  unfold macWord
  extract_lets e wf w arr wts lo hi go z
  have hgo : go.1.stored.Ok := by
    unfold go
    split
    · exact h
    · refine Laws.Memory.foldl_keeps (fun x : State × Bool => x.1.stored.Ok) _ (fun _ _ hx => ?_) _ ?_
      · exact macVector_ok hx ..
      · exact h
  have hz : z.stored.Ok := (modClaim_stored ..).symm ▸ hgo
  simp [hz]

@[simp] theorem outWord_ok (h : s.stored.Ok) (r rb nr) : (s.outWord r rb nr).stored.Ok := by simp [outWord, h]

@[simp] theorem startFeed_stored (r off weights) :
    (s.startFeed r off weights).stored = s.stored := by simp [startFeed]

@[simp] theorem saveRemainder_stored (c r) : (s.saveRemainder c r).stored = s.stored := by rfl

@[simp] theorem letGo_stored (c r) : (s.letGo c r).stored = s.stored := by simp [letGo]

@[simp] theorem flipTurn_stored (c r) : (s.flipTurn c r).stored = s.stored := by simp [flipTurn]

/-! ## Waits of the system instructions -/

theorem imageAt_ok (h : s.stored.Ok) (a why) {f : State → List Piece → State} (hf : ∀ ps, (f s ps).stored.Ok) :
    (s.imageAt a why f).stored.Ok := by
  simp only [imageAt]
  repeat' split
  all_goals simp [h, hf]

@[simp] theorem csaveComplete_ok (h : s.stored.Ok) (c x) : (s.csaveComplete c x).stored.Ok := by
  simp only [csaveComplete]
  split <;> simp [h]

@[simp] theorem cloadComplete_stored (c x) : (s.cloadComplete c x).stored = s.stored := by
  simp only [cloadComplete]
  split <;> simp

@[simp] theorem endWait_stored (c x) : (s.endWait c x).stored = s.stored := by
  simp only [endWait]
  split <;> simp

/-! ## The scheduler -/

@[simp] theorem dispatch_stored (c) : (s.dispatch c).stored = s.stored := by unfold dispatch; split <;> rfl

@[simp] theorem refillChan_stored (c x k) : (s.refillChan c x k).stored = s.stored := by rfl

@[simp] theorem clearParked_ok (h : s.stored.Ok) (t mode) : (s.clearParked t mode).stored.Ok := by
  simp only [clearParked]
  repeat' split
  all_goals simp [h]

@[simp] theorem loadComplete_ok (h : s.stored.Ok) (c x) : (s.loadComplete c x).stored.Ok := by
  simp only [loadComplete]
  split
  next t _ _ =>
    split
    · exact h
    · have hb : (if t.saved = true then s.areaImage t else (none, s)).2.stored.Ok := by
        split <;> simp [h]
      split <;> simp [hb]
  · exact h

@[simp] theorem haltStrand_stored (c t park) : (s.haltStrand c t park).stored = s.stored := by
  simp only [haltStrand]
  split <;> simp

@[simp] theorem preempt_stored (c) : (s.preempt c).stored = s.stored := by
  simp only [preempt]
  repeat' split
  all_goals simp

@[simp] theorem quantum_stored (c) : (s.quantum c).stored = s.stored := by
  simp only [quantum]
  repeat' split
  all_goals simp

@[simp] theorem acquireAway_stored (age qs) : (s.acquireAway age qs).stored = s.stored := by simp [acquireAway]

@[simp] theorem wakeStrand_stored (t) : (s.wakeStrand t).stored = s.stored := by simp [wakeStrand]

@[simp] theorem meetPark_ok (h : s.stored.Ok) (t) : (s.meetPark t).stored.Ok := by
  unfold meetPark
  split
  · exact h
  · refine foldl_ok (fun k h => ?_) _ h
    split
    · split <;> simp [h]
    · exact h

@[simp] theorem wakeAll_ok (h : s.stored.Ok) : s.wakeAll.stored.Ok := foldl_ok (fun _ h => by simp [h]) _ h

@[simp] theorem saveBytes_stored (t img sess park) :
    (s.saveBytes t img sess park).2.stored = s.stored := by simp [saveBytes]

@[simp] theorem saveComplete_ok (h : s.stored.Ok) (c x) : (s.saveComplete c x).stored.Ok := by
  simp only [saveComplete]
  repeat' split
  all_goals simp [h]

@[simp] theorem park_stored (c x) : (s.park c x).stored = s.stored := by simp [park]

/-- What a parked strand asks on a link for one of its conditions. -/
theorem parkAsk_stored (age) (t : Strand) (k : ParkCond) :
    (match k with
      | .waitw va _ _ => match (s.parkHome t.sess va).bind farOf with
        | some (l, a) =>
          let (tag, s) := s.askRead l t.sess .engine va a 8
          s.modStrand age fun t => { t with asked := (k, l, tag) :: t.asked }
        | none => s
      | .cbar _ _ => s).stored = s.stored := by
  dsimp only
  repeat' split
  all_goals simp

@[simp] theorem parkPoll_stored (age) : (s.parkPoll age).stored = s.stored := by
  unfold parkPoll
  split
  · rfl
  next t _ =>
    split
    · rfl
    · extract_lets z y
      have hy : y.stored = s.stored := foldl_stored (fun s k => parkAsk_stored age t k) t.conds z
      split <;> simp [hy]

@[simp] theorem thaw_stored (c) : (s.thaw c).stored = s.stored := by
  simp only [thaw]
  split <;> simp

@[simp] theorem contextSwitch_stored (c) : (s.contextSwitch c).stored = s.stored := by
  simp only [contextSwitch]
  repeat' split
  all_goals simp

@[simp] theorem trapEntry_stored (c x) : (s.trapEntry c x).stored = s.stored := by
  unfold trapEntry
  extract_lets t
  generalize t.wait = w, t.fault = f
  match w, f with
  | .trap _ _, _ | .halt, _ => show State.stored (ite _ _ _) = _; simp
  | .none, some _ | .mode _, some _ => exact setCtx_stored ..
  | .none, none | .mode _, none | .exit, _ | .csave _ _, _ | .cload _, _ | .idle _, _ | .tlbi _, _ | .land, _ => rfl

@[simp] theorem modeComplete_stored (c x) : (s.modeComplete c x).stored = s.stored := by
  simp only [modeComplete]
  split <;> simp

@[simp] theorem landEnd_stored (c x) : (s.landEnd c x).stored = s.stored := by simp [landEnd]

@[simp] theorem strandDone_stored (c x) : (s.strandDone c x).stored = s.stored := by
  simp only [strandDone]
  split <;> simp

@[simp] theorem waitwPoll_stored (c x) : (s.waitwPoll c x).stored = s.stored := by rfl

/-! ## Checkpoints, restores and start-up -/

@[simp] theorem quiesce_stored : s.quiesce.stored = s.stored := (quiesce_haltsOnly s).stored

@[simp] theorem beginCkpt_stored (who reset) : (s.beginCkpt who reset).stored = s.stored := by simp [beginCkpt]

@[simp] theorem rewind_stored (img replay keep) : (rewind img replay keep s).stored = s.stored := by simp [rewind]

@[simp] theorem reinstate_ok (h : s.stored.Ok) (img replay keep) : (s.reinstate img replay keep).stored.Ok := by
  refine foldl_ok (fun _ h => retirePage_ok h _) _ ?_
  rw [foldl_stored fun _ _ => by simp, rewind_stored]
  exact h.withMem (restoredMem_wf s img)

@[simp] theorem reinstateCommitted_ok (h : s.stored.Ok) (replay keep) :
    (s.reinstateCommitted replay keep).stored.Ok := by simp [reinstateCommitted, h]

@[simp] theorem restore_ok (h : s.stored.Ok) (p q replay) : (s.restore p q replay).stored.Ok := by simp [restore, h]

@[simp] theorem trainLinks_stored : s.trainLinks.stored = s.stored := by rfl

@[simp] theorem treeOf_stored : s.treeOf.stored = s.stored := by rfl

@[simp] theorem timeTree_stored : s.timeTree.stored = s.stored := by rfl

@[simp] theorem regrow_stored : s.regrow.stored = s.stored := by simp [regrow]

@[simp] theorem dropLink_stored (l) : (s.dropLink l).stored = s.stored := by simp [dropLink]

@[simp] theorem pennant_ok (h : s.stored.Ok) : s.pennant.stored.Ok := by simp [pennant, h]

@[simp] theorem restoreStep_ok (h : s.stored.Ok) (keep) : (s.restoreStep keep).stored.Ok := by simp [restoreStep, h]

@[simp] theorem report_stored : s.report.stored = s.stored := by simp [report]

theorem runImages_stored {t : State} (e : s.runImages = some t) : t.stored = s.stored := by
  unfold runImages at e
  extract_lets rs at e
  split at e <;> cases e
  rfl

@[simp] theorem restart_ok (h : s.stored.Ok) (keep) : (s.restart keep).stored.Ok := by
  unfold restart
  extract_lets f z
  have hz : z.stored.Ok := h
  split
  · simp [hz]
  split
  · simp [hz]
  next t e =>
    have ht : t.stored.Ok := runImages_stored e ▸ hz
    repeat' split
    all_goals simp [ht]

@[simp] theorem packageFatal_ok (h : s.stored.Ok) (unit index place paddr) :
    (s.packageFatal unit index place paddr).stored.Ok := by simp [packageFatal, h]

@[simp] theorem losePage_ok (h : s.stored.Ok) (unit index place paddr) :
    (s.losePage unit index place paddr).stored.Ok := by simp [losePage, h]

/-! ## The journal -/

@[simp] theorem createSession_ok (h : s.stored.Ok) (p q m) : (s.createSession p q m).stored.Ok := by
  simp only [createSession]
  split
  · simp [h]
  next e => simp [moveTable_ok h e]

@[simp] theorem zeroMacros_ok (h : s.stored.Ok) (id) : (s.zeroMacros id).stored.Ok := by
  unfold zeroMacros
  refine foldl_ok (fun c h => foldl_ok (fun i h => ?_) _ h) _ h
  split
  · exact zero_ok (zero_ok (zero_ok h ..) ..) ..
  · exact h

/-- The stored part after is written out by its fields: the comparison of the two states as wholes would go through the
cleaning of every core. -/
theorem handedBack_stored (t) : (s.handedBack t).stored = s.stored :=
  show (s.handedBack t).stored = .mk s.mem s.baseArea s.deltaArea s.logArea s.base s.delta from rfl

@[simp] theorem releaseSession_ok (h : s.stored.Ok) (t) : (s.releaseSession t).stored.Ok := by
  rw [releaseSession_eq, handedBack_stored]
  exact zeroMacros_ok h _

@[simp] theorem endLaunch_stored (l status detail) :
    (s.endLaunch l status detail).stored = s.stored := by simp [endLaunch]

@[simp] theorem enterStrands_stored (l cores crew) : (s.enterStrands l cores crew).stored = s.stored := by
  simp only [enterStrands]
  split <;> simp

@[simp] theorem launchEntry_stored : s.launchEntry.stored = s.stored := by
  simp only [launchEntry]
  repeat' split
  all_goals simp

@[simp] theorem launchDone_stored (n) : (s.launchDone n).stored = s.stored := by
  simp only [launchDone]
  split <;> simp

@[simp] theorem hostQuery_stored (p m) : (s.hostQuery p m).1.stored = s.stored := by simp [hostQuery]

@[simp] theorem ensignAsk_stored (p q l k a n) : (s.ensignAsk p q l k a n).stored = s.stored := by
  induction k generalizing s a n with
  | zero => rfl
  | succ k ih =>
    simp only [ensignAsk]
    split <;> simp [ih]

@[simp] theorem mgmtImage_stored (j) : (s.mgmtImage j).stored = s.stored := by
  simp only [mgmtImage]
  repeat' split
  all_goals simp

@[simp] theorem doMap_ok (h : s.stored.Ok) (j t) : (s.doMap j t).stored.Ok := by simp [doMap, h]

@[simp] theorem doUnmap_ok (h : s.stored.Ok) (j t) : (s.doUnmap j t).stored.Ok := by simp [doUnmap, h]

@[simp] theorem effect_ok (h : s.stored.Ok) (n j) : (s.effect n j).2.stored.Ok := by
  simp only [effect]
  repeat' split
  all_goals simp [h]

@[simp] theorem effects_ok (h : s.stored.Ok) : s.effects.stored.Ok := by
  unfold effects
  split
  · exact h
  · refine Laws.Memory.foldl_keeps (fun x : Waiting × State => x.2.stored.Ok) _ (fun x n hx => ?_) _ h
    dsimp only
    split
    · exact hx
    split
    · exact hx
    split
    · exact hx
    · exact effect_ok hx ..

@[simp] theorem ckptStep_ok (h : s.stored.Ok) : s.ckptStep.stored.Ok := by
  simp only [ckptStep]
  repeat' split
  all_goals simp [h]

@[simp] theorem runJournal_ok (h : s.stored.Ok) : s.runJournal.stored.Ok := by
  unfold runJournal
  split
  · exact h
  · exact effects_ok (ckptStep_ok (effects_ok (effects_ok h)))

@[simp] theorem after_ok (h : s.stored.Ok) : s.after.stored.Ok := by simp [after, h]

@[simp] theorem pennantCommand_stored (p m) : (s.pennantCommand p m).stored = s.stored := by simp [pennantCommand]

@[simp] theorem command_ok (h : s.stored.Ok) (p m) : (s.command p m).stored.Ok := by
  simp only [command]
  repeat' split
  all_goals simp [h]

@[simp] theorem commandEvent_ok (h : s.stored.Ok) (k) : (s.commandEvent k).stored.Ok := by simp [commandEvent, h]

/-! ## Loads, stores and atomics -/

@[simp] theorem loadG_ok (h : s.stored.Ok) (c d b o n sext) : (s.loadG c d b o n sext).stored.Ok := by simp [loadG, h]

@[simp] theorem storeG_ok (h : s.stored.Ok) (c d b o n) : (s.storeG c d b o n).stored.Ok := by simp [storeG, h]

@[simp] theorem loadV_ok (h : s.stored.Ok) (c d b o q byLane parts) :
    (s.loadV c d b o q byLane parts).stored.Ok := by simp [loadV, h]

@[simp] theorem storeV_ok (h : s.stored.Ok) (c d b o parts) :
    (s.storeV c d b o parts).stored.Ok := by simp [storeV, h]

@[simp] theorem elements_ok (h : s.stored.Ok) (a why els n pends lat) :
    (s.elements a why els n pends lat).stored.Ok := by simp [elements, h]

@[simp] theorem gatherV_ok (h : s.stored.Ok) (c q d b a n) : (s.gatherV c q d b a n).stored.Ok := by simp [gatherV, h]

@[simp] theorem scatterV_ok (h : s.stored.Ok) (c q d b a n) :
    (s.scatterV c q d b a n).stored.Ok := by simp [scatterV, h]

@[simp] theorem atomicG_ok (h : s.stored.Ok) (op c d b x z) :
    (s.atomicG op c d b x z).stored.Ok := by simp [atomicG, h]

/-! ## Waits and barriers -/

@[simp] theorem acquire_stored (acks) : (s.acquire acks).stored = s.stored := by simp [acquire]

@[simp] theorem dropPoll_stored : s.dropPoll.stored = s.stored := by rfl

@[simp] theorem watch_ok (h : s.stored.Ok) (k v pc) : (s.watch k v pc).stored.Ok := by
  simp only [watch]
  repeat' split
  all_goals simp [h]

theorem barrierAt_ok (h : s.stored.Ok) (p) {f : State → List Piece → State} (hf : ∀ ps, (f s ps).stored.Ok) :
    (s.barrierAt p f).stored.Ok := by
  simp only [barrierAt]
  repeat' split
  all_goals simp [h, hf]

@[simp] theorem barrierUpdate_ok (h : s.stored.Ok) (c b i act) : (s.barrierUpdate c b i act).stored.Ok :=
  barrierAt_ok h _ fun _ => by simp [h]

@[simp] theorem sendCredit_stored (l core rq owner kind n) :
    (s.sendCredit l core rq owner kind n).stored = s.stored := by simp [sendCredit]

@[simp] theorem linkGone_stored : s.linkGone.stored = s.stored := by rfl

/-! ## Messages -/

@[simp] theorem purge_stored : s.purge.stored = s.stored := by rfl

@[simp] theorem ackTo_stored (l ack credit) : (s.ackTo l ack credit).stored = s.stored := by simp [ackTo]

@[simp] theorem resend_stored (l q) : (s.resend l q).stored = s.stored := by simp [resend]

@[simp] theorem raise_stored (i a) : (s.raise i a).stored = s.stored := by rfl

@[simp] theorem askRetry_stored (l) : (s.askRetry l).stored = s.stored := by simp [askRetry]

@[simp] theorem discard_stored (l) : (s.discard l).stored = s.stored := by simp [discard]

@[simp] theorem badFlit_stored (l b) : (s.badFlit l b).stored = s.stored := by simp [badFlit]

@[simp] theorem arrive_stored (i a) : (s.arrive i a).stored = s.stored := by rfl

@[simp] theorem fromHost_stored (l cls m) : (s.fromHost l cls m).stored = s.stored := by
  unfold fromHost
  split <;> simp

@[simp] theorem fromPeer_stored (l route m) : (s.fromPeer l route m).stored = s.stored := by
  simp only [fromPeer]
  repeat' split
  all_goals simp

@[simp] theorem deliver_stored (l kind route payload) :
    (s.deliver l kind route payload).stored = s.stored := by simp [deliver]

@[simp] theorem sendTime_stored (l) : (s.sendTime l).stored = s.stored := by simp [sendTime]

@[simp] theorem timeExchange_stored (l) : (s.timeExchange l).stored = s.stored := by simp [timeExchange]

@[simp] theorem setOffset_stored (off) : (s.setOffset off).stored = s.stored := by rfl

@[simp] theorem timeFlit_stored (l t delay) : (s.timeFlit l t delay).stored = s.stored := by simp [timeFlit]

@[simp] theorem receive_stored (l b delay) : (s.receive l b delay).stored = s.stored := by simp [receive]

@[simp] theorem retrain_stored (l) : (s.retrain l).stored = s.stored := by simp [retrain]

@[simp] theorem queueMessage_ok (h : s.stored.Ok) (l core rq m) : (s.queueMessage l core rq m).stored.Ok := by
  simp only [queueMessage]
  repeat' split
  all_goals simp [h]

@[simp] theorem creditGrant_stored (l core rq m) : (s.creditGrant l core rq m).stored = s.stored := by rfl

@[simp] theorem creditReturn_stored (l core rq m) : (s.creditReturn l core rq m).stored = s.stored := by rfl

@[simp] theorem serve_ok (h : s.stored.Ok) (l m) : (s.serve l m).stored.Ok := by simp [serve, h]

@[simp] theorem serveNext_ok (h : s.stored.Ok) (l) : (s.serveNext l).stored.Ok := by
  simp only [serveNext]
  split <;> simp [h]

@[simp] theorem takeRequest_stored (l m) : (s.takeRequest l m).stored = s.stored := by simp [takeRequest]

@[simp] theorem takeReply_stored (l m) : (s.takeReply l m).stored = s.stored := by
  simp only [takeReply]
  split <;> simp

@[simp] theorem thermal_stored (a) : (s.thermal a).stored = s.stored := by simp [thermal]

@[simp] theorem coolDown_stored : s.coolDown.stored = s.stored := by rfl

/-! ## Transforms -/

@[simp] theorem transform_stored (d a n lat f) : (s.transform d a n lat f).stored = s.stored := by
  simp only [transform]
  repeat' split
  all_goals simp

end Sys2Proof.Machine.State
end

section
/-! PROOFS. Every arm of the dispatch keeps the stored part in form (O59). -/

namespace Sys2Proof.Machine

open State

variable {s : State} (h : s.stored.Ok)
include h

/-! ## The shapes that instructions share -/

theorem scalar_ok (pn pk) {f : State → State} (hf : (f s).stored.Ok) : OutOk (scalar pn pk s f) := by
  simp [scalar, h, hf]

theorem privileged_ok (pn pk) {f : State → State} (hf : (f s).stored.Ok) : OutOk (privileged pn pk s f) := by
  simp [privileged, h, scalar_ok h pn pk hf]

theorem intOp_ok (pn pk d lat x) : OutOk (intOp pn pk d lat x s) := scalar_ok h _ _ (by simp [h])

theorem fpOp_ok (pn pk f d fn x) : OutOk (fpOp pn pk f d fn s x) := scalar_ok h _ _ (by simp [h])

theorem fpMinMax_ok (pn pk f d a b w) : OutOk (fpMinMax pn pk f d a b w s) := scalar_ok h _ _ (by simp [h])

theorem fpCmp_ok (pn pk f d c a b) : OutOk (fpCmp pn pk f d c a b s) := scalar_ok h _ _ (by simp [h])

theorem vecOp_ok (q d lat x) : OutOk (vecOp q d lat x s) := by simp [vecOp, h]

theorem vecInt1_ok (q e d a f) : OutOk (vecInt1 q e d a f s) := vecOp_ok h ..

theorem vecInt2_ok (q e d a b lat f) : OutOk (vecInt2 q e d a b lat f s) := vecOp_ok h ..

theorem vecFp_ok (q e d a b fn lat g) : OutOk (vecFp q e d a b fn lat g s) := by simp [vecFp, h]

theorem vecMinMax_ok (q e d a b w) : OutOk (vecMinMax q e d a b w s) := by simp [vecMinMax, h]

theorem vreduce_ok (q d a w op) : OutOk (vreduce q d a w op s) := by simp [vreduce, h]

theorem vcvt_ok (q mode d a x y) : OutOk (vcvt q mode d a x y s) := by
  simp only [vcvt]
  split
  next dst src _ _ =>
    have hd (n) : (if drawsPer src dst then s.drawsFor mode n else ([], s)).2.stored.Ok := by
      split <;> simp [h]
    simp [hd]
  · simp [h]

theorem vcvtef_ok (q mode d a x y) : OutOk (vcvtef q mode d a x y s) := by
  simp only [vcvtef]
  repeat' split
  all_goals simp [h]

@[simp] theorem xMap_ok (q d a f lat g) : (xMap q d a f lat g s).stored.Ok := by simp [xMap, h]

/-! ## Instructions with choices of their own -/

theorem execFwr_ok (f t a) : OutOk (execFwr f t a s) := by
  refine outOk_next.2 (feedOp_ok h _ _ _ fun r => ?_)
  dsimp only
  repeat' split
  all_goals simp [h]

theorem execFrd_ok (f t a) : OutOk (execFrd f t a s) := by
  refine outOk_next.2 (feedOp_ok h _ _ _ fun r => ?_)
  repeat' split
  all_goals simp [h]

theorem execCsave_ok (pn pk a) : OutOk (execCsave pn pk a s) :=
  privileged_ok h _ _ (imageAt_ok h _ _ fun _ => by simp [h])

theorem execCload_ok (pn pk a) : OutOk (execCload pn pk a s) := by
  refine privileged_ok h _ _ (imageAt_ok h _ _ fun ps => ?_)
  have hr := engineRead_ok h s.curSess areaBytes s.cur.imageSrc ps
  dsimp only
  split
  next e => simp [ok_snd e hr]
  next e => simp [ok_snd e hr]
  next e => simp [ok_snd e hr]

theorem execFence_ok (m p) : OutOk (execFence m p s) := by
  unfold execFence
  extract_lets twin
  clear_value twin
  cases twin <;> simp [h]

theorem execBarwait_ok (c d b i) : OutOk (execBarwait c d b i s) := by
  refine outOk_next.2 ?_
  split
  · exact h
  · refine barrierAt_ok h _ fun ps => ?_
    dsimp only
    repeat' split
    all_goals simp [h]

/-- The erased memory is the empty one. -/
theorem execPowerLossErase_ok : OutOk (execPowerLossErase s) := by
  have hz : ({ s.clearWork with mem := [], safeReady := false } : State).stored.Ok := (clearWork_ok h).withMem rfl
  exact outOk_next.2 (restart_ok hz _)

theorem execMfs_ok (pn pk d i) : OutOk (execMfs pn pk d i s) := by simp [execMfs, scalar_ok, h]

theorem execMts_ok (pn pk m a i) : OutOk (execMts pn pk m a i s) := by simp [execMts, scalar_ok, h]

/-- The generator is kept from unfolding. -/
theorem execVrand_ok (q d e) : OutOk (execVrand q d e s) := by
  unfold execVrand
  generalize rngSteps 32 s.cur.sys.rseed0 s.cur.sys.rseed1 = r
  exact outOk_next.2 (by simp [h])

theorem execBskip_ok : OutOk (execBskip s) := by
  refine outOk_next.2 ?_
  split
  · exact h
  · extract_lets o
    clear_value o
    split <;> simp [h]

/-! ## The dispatch -/

/-- Every arm of the dispatch keeps the stored part in form: an arm is of a shape above, or gives a next state whose
pieces have been seen, or has a lemma of its own. -/
theorem exec_ok (i : Instr) : OutOk (exec i s) := by
  cases i with
  -- the scalar class
  | nop | ext | mode => exact outOk_next.2 (by simp [h])
  | add | sub | and | or | xor | andn | sel | shl | shr | sar | rotl | min | max | minu | maxu | mul | mulh | mulhu
  | div | divu | rem | remu | clz | ctz | popc | brev | bswap | extf | insf | addi | andi | ori | xori | shli | shri
  | sari | li | lih =>
    dsimp only [exec]
    exact intOp_ok h ..
  | faddF32 | fsubF32 | fmulF32 | ffmaF32 | faddF64 | fsubF64 | fmulF64 | ffmaF64 =>
    dsimp only [exec]
    exact fpOp_ok h ..
  | fminF32 | fmaxF32 | fminF64 | fmaxF64 =>
    dsimp only [exec]
    exact fpMinMax_ok h ..
  | fcmpF32 | fcmpF64 =>
    dsimp only [exec]
    exact fpCmp_ok h ..
  | cmp | cmpi | kop | fcvt | b | call | callr | jr | loop | loopi | brk | trap | exit | cjoin | cleave | mput
  | mget | eret =>
    dsimp only [exec]
    exact scalar_ok h _ _ (by simp [h])
  | yield | spawn | cnew | cbar =>
    dsimp only [exec]
    refine scalar_ok h _ _ ?_
    repeat' split
    all_goals simp [h]
  | tlbi | halt | idle =>
    dsimp only [exec]
    exact privileged_ok h _ _ (by simp [h])
  | mfs => exact execMfs_ok h ..
  | mts => exact execMts_ok h ..
  | csave => exact execCsave_ok h ..
  | cload => exact execCload_ok h ..
  -- the vector class
  | vadd | vsub | vadds | vsubs | vmul | vmulh | vmin | vmax | vshl | vshr | vsar =>
    dsimp only [exec]
    exact vecInt2_ok h ..
  | vabs | vneg | vpopc | vclz | vshli | vshri =>
    dsimp only [exec]
    exact vecInt1_ok h ..
  | vdot4 | vand | vor | vxor | vandn | vperm | vshuf | vslide | vbcast | vmovi | vmov | vtget | vrdacc =>
    dsimp only [exec]
    exact vecOp_ok h ..
  | vfadd | vfsub | vfmul | vfma | vfnma =>
    dsimp only [exec]
    exact vecFp_ok h ..
  | vfmin | vfmax =>
    dsimp only [exec]
    exact vecMinMax_ok h ..
  | vcvt1 | vcvt2 =>
    dsimp only [exec]
    exact vcvt_ok h ..
  | vcvtef1 | vcvtef2 =>
    dsimp only [exec]
    exact vcvtef_ok h ..
  | vsum | vrmax | vrmin =>
    dsimp only [exec]
    exact vreduce_ok h ..
  | qop =>
    refine outOk_next.2 ?_
    repeat' split
    all_goals simp [h]
  | vcmp | vsel | qfromg | vfcmp | vscan | vextr | vtset => exact outOk_next.2 (by simp [h])
  -- the X class
  | rcp | rsq | sinpi | cospi | tload => exact outOk_next.2 (by simp [h])
  | tq | tqp | tqi => exact outOk_next.2 (query_ok h _ _ fun _ => by simp [h])
  | tinfo => exact outOk_next.2 (tableUse_ok h _ _ fun _ => by simp [h])
  | exp2 | log2 => exact outOk_next.2 (tableWork_ok (by simp [h]) _ _)
  | vrand => exact execVrand_ok h ..
  -- the M class
  | mcall | msync | mlock | bfly | tperm =>
    dsimp only [exec]
    exact mSlot_ok h (by simp [h]) _ _
  | mreload | mflip | mswitch | mload =>
    dsimp only [exec]
    exact mSlot_ok h (by simp [h, enterStream_ok]) _ _
  -- the C class
  | ldb | ldbn | ldh | ldhn | ldw | ldwn | ldd | stb | sth | stw | std | vld | vst | vldq | vstq | tld | tst
  | vgatherW | vgatherD | vscatterW | vscatterD | aadd | amin | amax | axchg | acas | afadd | afaddh | copy | copyt
  | copyx | copyg | copysa | copyw | barinit | barexp | bararv | fbind => exact outOk_next.2 (by simp [h])
  | waitw | send | recv =>
    refine outOk_next.2 ?_
    dsimp only
    repeat' split
    all_goals simp [h]
  | fence => exact execFence_ok h ..
  | barwait => exact execBarwait_ok h ..
  | fwr => exact execFwr_ok h ..
  | frd => exact execFrd_ok h ..
  -- bank units
  | bnop | badd | bmul | bfma | bcmp | bsel | bacc => exact outOk_next.2 (by simp [h])
  | bld | bst => exact outOk_next.2 (column_ok h _ _ _ fun _ _ h => by simp [h])
  | bpop | bpush | bloop | bend =>
    refine outOk_next.2 ?_
    repeat' split
    all_goals simp [h]
  | bskip => exact execBskip_ok h
  -- microwords
  | clr | feed | mac | scale | out | waith | fliph | microLoop | microEnd =>
    refine outOk_next.2 ?_
    repeat' split
    all_goals simp [h]
  -- events of the device, the links and the host
  | powerOn | resetInput | powerFault | watchdogExpiry | thermalController | cycControlWrite | timeExchange
  | linkRetrain | linkDown | flitReceive | retry | retryRepeat | idleFlit | queueMessage | creditGrant
  | creditReturn | memoryRequest | memoryReply | hostmemReply | burgeeRead | burgeeWrite | crbaseWrite | crsizeWrite
  | registerWrite | completionPost => exact outOk_next.2 (by simp [h])
  | thermalTrip | sessionKill =>
    refine outOk_next.2 ?_
    repeat' split
    all_goals simp [h]
  | powerLossErase => exact execPowerLossErase_ok h
  | launch | sessionCreate | sessionDestroy | map | unmap | handleRegister | handleRelease | checkpoint | restore
  | queryIdentity | querySequence | queryFaultLog | queryHeatMap | queryAttestation | mgmtReset | mgmtFirmwareUpdate
  | mgmtCoreMapChange | mgmtPowerCap | mgmtTimeRoot | autoCheckpoint | foldComplete | launchEntry | launchComplete
  | heatDecay | pageExchange | exchangeSwap => exact outOk_next.2 (by simp [h])
  -- events of the cores and their engines
  | accessPerform | tableRefresh | dispatch | loadComplete | preemption | quantumExpiry | priorityAgeing | park
  | parkPoll | saveComplete | repushEntry | contextSwitch | resultLanding | trapEntry | strandDone | modeComplete
  | waitwPoll | csaveComplete | cloadComplete | heatTokenCycle | reloadDone | mloadComplete | tloadStart
  | tloadComplete | bufferEntry | copyStart | beatIssue | beatComplete | transferComplete | bindingResolve
  | rowOperationStart | rowBoundary | guaranteedSlot | waveStart => exact outOk_next.2 (by simp [h])
  | parkWake | idleEnd | tlbiComplete =>
    refine outOk_next.2 ?_
    repeat' split
    all_goals simp [h]
  | routineStart | mreloadExecute | mflipExecute | macroModeChange | mloadExecute | copyFaultTimeout =>
    refine outOk_next.2 ?_
    dsimp only
    repeat' split
    all_goals simp [h]

end Sys2Proof.Machine
end

section
/-! PROOFS. Every step keeps the stored part in form (O59). -/

namespace Sys2Proof.Machine

namespace State

variable {s : State}

/-! ## Bundles -/

@[simp] theorem fetchBundle_ok (h : s.stored.Ok) : s.fetchBundle.2.stored.Ok := by
  have hr (n src ps) := engineRead_ok h s.curSess n src ps
  simp only [fetchBundle]
  repeat' split
  next => exact h
  next => exact h
  next => exact h
  next e => simp [ok_snd e (hr ..)]
  next e => simp [ok_snd e (hr ..)]
  next e => simp [ok_snd e (hr ..)]

@[simp] theorem doSlot_ok (h : s.stored.Ok) (t) : (s.doSlot t).stored.Ok := by
  have hz : (outcome { s with curSlot := t.idx, ext := t.ext } .done).stored.Ok := by simp [h]
  unfold doSlot
  split
  next e => exact (exec_ok hz t.op).of_next e
  next => exact h

theorem doSlots_ok (l : List Slot) {p : Pass} (h : p.st.stored.Ok) : (doSlots l p).st.stored.Ok := by
  induction l generalizing p with
  | nil => exact h
  | cons t r ih =>
    simp only [doSlots]
    split
    · exact h
    · exact ih h
    · exact ih h
    · exact ih h
    · exact ih (doSlot_ok h t)
    · exact ih (doSlot_ok h t)

@[simp] theorem takeTrap_ok (h : s.stored.Ok) (t z) : (s.takeTrap t z).stored.Ok := by simp [takeTrap, h]

@[simp] theorem keepSat_ok (h : s.stored.Ok) (l) : (s.keepSat l).stored.Ok := by
  have hl (m : List Slot) : (m.foldl doSlot s).stored.Ok := foldl_ok (fun t h => doSlot_ok h t) m h
  simp [keepSat, hl]

@[simp] theorem stallOn_ok (h : s.stored.Ok) (p t) : (s.stallOn p t).stored.Ok := doSlot_ok (keepSat_ok h _) t

@[simp] theorem blockAll_ok (h : s.stored.Ok) (p) : (s.blockAll p).stored.Ok := by
  unfold blockAll
  extract_lets z step
  have hz : (z.keepSat (p.sat.filter (!isHalt ·))).stored.Ok := by simp [z, h]
  have hl := Laws.Memory.foldl_keeps (fun a : State × Bool => a.1.stored.Ok) step (fun _ t ha => doSlot_ok ha t) p.waits
    (b := (z.keepSat (p.sat.filter (!isHalt ·)), true)) hz
  simp [hl]

@[simp] theorem issueBundle_stored (n bar) : (s.issueBundle n bar).stored = s.stored := by simp [issueBundle]

@[simp] theorem attempt_ok (h : s.stored.Ok) : s.attempt.1.stored.Ok := by
  unfold attempt
  extract_lets crew z
  have hz : z.stored.Ok := by simp [z, h]
  have hf := fetchBundle_ok hz
  split
  next e => exact ok_snd e hf
  next e => exact ok_snd e hf
  next e => simp [ok_snd e hf]
  next w y e =>
    have hy := ok_snd e hf
    have hp (l) : (doSlots l { st := y }).st.stored.Ok := doSlots_ok l hy
    dsimp only
    repeat' split
    all_goals simp [hy, hz, hp]

@[simp] theorem waitIn_stored (st) : (s.waitIn st).stored = s.stored := by simp [waitIn]

@[simp] theorem lookAt_ok (h : s.stored.Ok) (c x run) : (s.lookAt c x run).stored.Ok := by
  have ha := attempt_ok (s := { s with curCore := c, curCtx := x }) h
  simp only [lookAt]
  split
  · exact h
  · split
    all_goals
      next e =>
        have ht := ok_fst e ha
        simp [h, ht]

@[simp] theorem waitStall_stored (c x) : (s.waitStall c x).stored = s.stored := by simp [waitStall]

@[simp] theorem issueCore_ok (h : s.stored.Ok) (c) : (s.issueCore c).stored.Ok := by
  unfold issueCore
  extract_lets run waits z
  have hz : z.stored.Ok := foldl_ok (fun x h => by split <;> simp [h]) _ h
  split
  · exact lookAt_ok (by simp [hz]) ..
  · exact hz

/-! ## Turns -/

theorem microTurn_ok (h : s.stored.Ok) (c) : OutOk (s.microTurn c) := by
  unfold microTurn
  split
  · simp [h]
  next r _ =>
    have hx (i) : OutOk (exec i { s with curCore := c }) := exec_ok (s := { s with curCore := c }) h i
    repeat' split
    all_goals simp [h, hx]

theorem unitTurns_ok (c n : Nat) (h : s.stored.Ok) : OutOk (unitTurns c n s) := by
  induction n generalizing s with
  | zero => simp [unitTurns, h]
  | succ n ih => exact outOk_bind (microTurn_ok h c) fun h => by simp [h, ih h]

theorem bankTurn_ok (h : s.stored.Ok) (ch) : OutOk (s.bankTurn ch) := by
  unfold bankTurn
  split
  · simp [h]
  next b _ => simp [h, exec_ok (s := { s with curChan := ch }) h]

theorem rowTurn_ok (ch n : Nat) (h : s.stored.Ok) : OutOk (rowTurn ch n s) := by
  induction n generalizing s with
  | zero => simp [rowTurn, h]
  | succ n ih =>
    have hb := bankTurn_ok h ch
    simp only [rowTurn]
    split
    · simp [h]
    · split
      · split
        · simp [h]
        · exact outOk_bind hb fun h => by simp [h]
      · repeat' split
        all_goals simp [h, hb]
      · split
        · exact ih (by simp [h])
        · split
          · simp [h]
          · exact outOk_bind hb fun h => ih h

theorem ordinaryTurn_ok (h : s.stored.Ok) (k) : OutOk (s.ordinaryTurn k) := by
  unfold ordinaryTurn
  split
  · simp [h]
  · exact outOk_bind (exec_ok (s := { s with arg := (ordinaryEvent k).2 }) h _) fun h => by simp [h]

theorem beatTurn_ok (h : s.stored.Ok) (c ch) : OutOk (s.beatTurn c ch) := by
  have hx (a i) : OutOk (exec i { s with arg := a }) := exec_ok (s := { s with arg := a }) h i
  simp only [beatTurn]
  split
  · split
    · exact hx ..
    · exact ordinaryTurn_ok h _
  · exact hx ..

@[simp] theorem retriedTurn_stored (c u p n) : (s.retriedTurn c u p n).stored = s.stored := by simp [retriedTurn]

@[simp] theorem lastingTurn_ok (h : s.stored.Ok) (u x p a) : (s.lastingTurn u x p a).stored.Ok := by
  unfold lastingTurn
  split <;> simp [h]

theorem doTurn_ok (h : s.stored.Ok) (t) : OutOk (s.doTurn t) := by
  cases t with
  | event i a => simp [doTurn, h, exec_ok]
  | micro c => exact microTurn_ok h c
  | unit c => exact unitTurns_ok c _ h
  | bank ch => exact bankTurn_ok h ch
  | row ch => exact rowTurn_ok ch _ h
  | ordinary k => exact ordinaryTurn_ok h k
  | beat c ch => exact beatTurn_ok h c ch
  | issue c => exact outOk_next.2 (issueCore_ok h c)
  | late => exact outOk_next.2 (flushLate_ok h)
  | retried c u p n => exact outOk_next.2 (by simp [h])
  | lasting u x p a => exact outOk_next.2 (lastingTurn_ok h ..)

theorem doTurns_ok (l : List Turn) (h : s.stored.Ok) : OutOk (s.doTurns l) := by
  induction l generalizing s with
  | nil => exact outOk_next.2 h
  | cons t r ih => exact outOk_bind (doTurn_ok h t) fun h => ih (after_ok h)

theorem takeMessages_ok (l : List (Instr × EventArg)) (h : s.stored.Ok) : OutOk (s.takeMessages l) := by
  induction l generalizing s with
  | nil => exact outOk_next.2 h
  | cons t r ih => exact outOk_bind (exec_ok (withArg_ok h t.2) t.1) fun h => ih (after_ok h)

theorem arbitrate_ok (h : s.stored.Ok) : OutOk s.arbitrate := takeMessages_ok (s := { s with arrivals := [] }) _ h

/-! ## A cycle of the device -/

/-- The stored part after is written out by its fields, as for a session that is handed back. -/
@[simp] theorem tick_stored : s.tick.stored = s.stored :=
  show s.tick.stored = .mk s.mem s.baseArea s.deltaArea s.logArea s.base s.delta from rfl

theorem cycle_ok (h : s.stored.Ok) : OutOk s.cycle :=
  outOk_bind (arbitrate_ok h) fun h => outOk_bind (doTurns_ok _ h) fun h => by simp [h]

end State

theorem step_ok {s : State} (h : s.stored.Ok) : OutOk (step s) := by
  unfold step
  split
  next t r _ => exact State.doTurns_ok (s := { s with agenda := r }) [t] h
  · exact State.cycle_ok h

/-- Settles O59: a step runs turns, and every piece that a turn is made of either keeps the stored part as it is or
writes it by operations that keep its canonical form. -/
theorem stepKeepsMemory : Obligations.StepKeepsMemory :=
  fun _ _ h e => memOk_iff.2 ((step_ok (memOk_iff.1 h)).of_next e)

end Sys2Proof.Machine
end

section
/-! PROOFS. What the operations that go with an access leave of the contexts: writes, heat, owners of macros, requests
(08 R193, R197, 04 R88, R104). -/

namespace Sys2Proof.Machine

/-! ## The contexts, and which of them is in hand -/

/-- Every context, which slot of which context is in hand, and the time are as before. -/
structure SameCtxs (s t : State) : Prop where
  ctx : ∀ c x, t.ctx c x = s.ctx c x
  curCore : t.curCore = s.curCore
  curCtx : t.curCtx = s.curCtx
  curSlot : t.curSlot = s.curSlot
  now : t.now = s.now

namespace SameCtxs

theorem refl (s : State) : SameCtxs s s := ⟨fun _ _ => rfl, rfl, rfl, rfl, rfl⟩

variable {s t u : State}

theorem trans (h : SameCtxs s t) (g : SameCtxs t u) : SameCtxs s u :=
  ⟨fun c x => (g.ctx c x).trans (h.ctx c x), g.curCore.trans h.curCore, g.curCtx.trans h.curCtx, g.curSlot.trans h.curSlot,
    g.now.trans h.now⟩

theorem cur (h : SameCtxs s t) : t.cur = s.cur := by
  rw [State.cur, h.curCore, h.curCtx, h.ctx]
  rfl

theorem inHand (h : SameCtxs s t) (hs : s.InHand) : t.InHand := by
  rw [State.InHand, h.curCore, h.curCtx]
  exact hs

theorem dueIn (h : SameCtxs s t) (lat : Nat) : t.dueIn lat = s.dueIn lat := by
  rw [State.dueIn, h.cur, h.now]
  rfl

end SameCtxs

namespace State

theorem ctx_modCtx {c x : Nat} (hc : c < 128) (hx : x < 4) (s : State) (f : Ctx → Ctx) :
    (s.modCtx c x f).ctx c x = f (s.ctx c x) := ctx_setCtx _ _ _ _ hc hx

/-- An update of a core that keeps its contexts keeps every context. -/
theorem modCore_sameCtxs (s : State) (c : Nat) {f : Core → Core} (hf : ∀ k, (f k).ctxs = k.ctxs) :
    SameCtxs s (s.modCore c f) := by
  refine ⟨fun d y => ?_, rfl, rfl, rfl, rfl⟩
  by_cases hd : c = d
  · subst hd
    by_cases hc : c < 128
    · rw [ctx, modCore, core_setCore _ _ _ hc, hf, ctx]
    · simp [ctx, core, modCore, setCore, hc]
  · rw [ctx, modCore, core_setCore_ne _ _ _ _ hd, ctx]

/-- Two updates of the context in hand are one. -/
theorem modCur_modCur {s : State} (h : s.InHand) (f g : Ctx → Ctx) : (s.modCur f).modCur g = s.modCur fun k => g (f k) := by
  have hcur : (s.modCur f).ctx s.curCore s.curCtx = f (s.ctx s.curCore s.curCtx) := ctx_modCtx h.1 h.2 s f
  have hcore : (s.modCur f).core s.curCore =
      { s.core s.curCore with ctxs := (s.core s.curCore).ctxs.setIfInBounds s.curCtx (f s.cur) } := core_setCore _ _ _ h.1
  have hset : (s.modCur f).modCur g = (s.modCur f).setCtx s.curCore s.curCtx (g (f (s.ctx s.curCore s.curCtx))) := by
    rw [← hcur]
    rfl
  rw [hset, setCtx, modCore, hcore]
  simp [modCur, modCtx, setCtx, modCore, setCore]

/-! ## Writes, heat, owners and requests keep the contexts -/

theorem logGranule_sameCtxs (s : State) (g : Nat) : SameCtxs s (s.logGranule g) := by
  unfold logGranule
  split
  · exact .refl s
  · exact ⟨fun _ _ => rfl, rfl, rfl, rfl, rfl⟩

theorem touch_sameCtxs (s : State) (a n : Nat) : SameCtxs s (s.touch a n) := by
  unfold touch
  split
  · exact ⟨fun _ _ => rfl, rfl, rfl, rfl, rfl⟩
  · split
    · exact Laws.Memory.foldl_keeps (SameCtxs s) _ (fun _ _ h => h.trans (logGranule_sameCtxs ..)) _ (.refl s)
    · exact .refl s

theorem write_sameCtxs (s : State) (a : Nat) (b : List Byte) : SameCtxs s (s.write a b) :=
  (touch_sameCtxs s a _).trans ⟨fun _ _ => rfl, rfl, rfl, rfl, rfl⟩

theorem dropRequests_sameCtxs (s : State) (ps : List Piece) (ts : List (Option Nat)) : SameCtxs s (s.dropRequests ps ts) :=
  ⟨fun _ _ => rfl, rfl, rfl, rfl, rfl⟩

theorem heatOf_sameCtxs (s : State) (sess : Nat) (ps : List Piece) : SameCtxs s (s.heatOf sess ps) := by
  unfold heatOf
  refine Laws.Memory.foldl_keeps (SameCtxs s) _ (fun t v h => h.trans ?_) _ (.refl s)
  exact ⟨fun _ _ => rfl, rfl, rfl, rfl, rfl⟩

/-- An array that gets an owner is no part of a context. -/
theorem modCore_owner_sameCtxs (t : State) (c i : Nat) (o : BitVec 6) :
    SameCtxs t (t.modCore c fun k =>
      match k.arrs[i]? with
      | some r => if r.owner.isNone then { k with arrs := k.arrs.setIfInBounds i { r with owner := some o } } else k
      | none => k) :=
  modCore_sameCtxs t c fun k => by
    split
    · split <;> rfl
    · rfl

theorem claimArrays_sameCtxs (s : State) (sess : Nat) (ps : List Piece) : SameCtxs s (s.claimArrays sess ps) := by
  refine Laws.Memory.foldl_keeps (SameCtxs s) _ (fun t p h => h.trans ?_) _ (.refl s)
  split
  · split
    · exact modCore_owner_sameCtxs t _ _ _
    · exact .refl t
  · exact .refl t

end State

theorem SendsOnly.sameCtxs {s t : State} (h : SendsOnly s t) : SameCtxs s t :=
  ⟨fun c x => h.same (State.ctx · c x) fun _ _ _ => rfl, h.same _ fun _ _ _ => rfl, h.same _ fun _ _ _ => rfl,
    h.same _ fun _ _ _ => rfl, h.same _ fun _ _ _ => rfl⟩

namespace State

theorem askRead_sameCtxs (s : State) (l sess : Nat) (who : Asker) (va : DWord) (a n : Nat) :
    SameCtxs s (s.askRead l sess who va a n).2 := by
  have hreq (t : State) (q : List Request) : SameCtxs s t → SameCtxs s { t with requests := q } :=
    fun h => h.trans ⟨fun _ _ => rfl, rfl, rfl, rfl, rfl⟩
  simp only [askRead]
  split
  · exact hreq _ _ (modLink_sendsOnly s l _).sameCtxs
  · exact (hreq _ _ (modLink_sendsOnly s l _).sameCtxs).trans (sendMsg_sendsOnly ..).sameCtxs

theorem askAll_sameCtxs (s : State) (sess : Nat) (who : Asker) (ps : List Piece) : SameCtxs s (s.askAll sess who ps).2 := by
  induction ps generalizing s with
  | nil => exact .refl s
  | cons p ps ih =>
    simp only [askAll]
    split
    · exact ih s
    · exact (askRead_sameCtxs ..).trans (ih _)

end State

/-- What keeps the stored part keeps every byte. -/
theorem sameBytes_of_stored {s t : State} (h : t.stored = s.stored) : SameBytes s t :=
  fun a => congrArg (memGet · a) (congrArg Stored.mem h)

end Sys2Proof.Machine
end

section
/-! PROOFS. Exchanges of pages (04 R104 to R107): O43. -/

namespace Sys2Proof.Machine

theorem ofBytes_lt (b : List Byte) : ofBytes b < 256 ^ b.length := by
  induction b with
  | nil => decide
  | cons x b ih =>
    have hx : x.toNat < 256 := x.isLt
    rw [ofBytes, List.length_cons, pow_succ]
    omega

theorem length_memTake (m : List Host.Cell) (a n : Nat) : (memTake m a n).length = n := by
  induction n generalizing m a with
  | zero => cases m <;> rfl
  | succ n ih =>
    cases m with
    | nil => simp [memTake]
    | cons c r =>
      rw [memTake]
      split <;> simp [ih]

namespace State

/-! ## What is read, and the leaf that a walk finds (04 R95, R96) -/

@[simp] theorem length_read (s : State) (a n : Nat) : (s.read a n).length = n := length_memTake ..

theorem readNat_lt (s : State) (a n : Nat) : s.readNat a n < 256 ^ n := by
  simpa [readNat] using ofBytes_lt (s.read a n)

theorem getElem?_read {s : State} (h : Memory.wf s.mem = true) (a : Nat) {n k : Nat} (hk : k < n) :
    (s.read a n)[k]? = some (s.byteAt (a + k)) := by
  rw [read, Laws.Memory.memRead_get h]
  simp [hk, byteAt]

theorem walk_leaf {s : State} {table va : Nat} {l : Leaf} (h : s.walk table va = some l) :
    l.entry = s.readNat l.addr 8 ∧ Pte.ok l.entry true = true := by
  simp only [walk] at h
  split at h
  · exact nomatch h
  · split at h
    next hbig =>
      obtain rfl := Option.some.inj h
      exact ⟨rfl, hbig⟩
    next =>
      split at h
      · exact nomatch h
      · split at h
        next hsmall =>
          obtain rfl := Option.some.inj h
          exact ⟨rfl, hsmall⟩
        next => exact nomatch h

/-- An entry of a table that is valid has its upper bits clear. -/
theorem entry_lt_of_ok {s : State} {a : Nat} {leaf : Bool} (h : Pte.ok (s.readNat a 8) leaf = true) :
    s.readNat a 8 < 2 ^ 52 := by
  have hlt := s.readNat_lt a 8
  simp only [Pte.ok, Bool.and_eq_true, beq_iff_eq, bits] at h
  omega

theorem movable_leaf {s : State} {t : Session} {va : Nat} {l : Leaf} (h : s.movable t va = some l) :
    Pte.mig l.entry = false ∧ l.entry < 2 ^ 52 := by
  unfold movable at h
  split at h
  next k hk =>
    obtain ⟨hrules, hsame⟩ := Option.ite_none_right_eq_some.1 h
    obtain rfl := Option.some.inj hsame
    simp only [Bool.and_eq_true, Bool.not_eq_true'] at hrules
    obtain ⟨hentry, hok⟩ := walk_leaf hk
    exact ⟨hrules.2, by rw [hentry] at hok ⊢; exact entry_lt_of_ok hok⟩
  next => exact nomatch h

/-! ## The beginning of an exchange (04 R105, R107) -/

theorem setMig_of_clear {s : State} {l : Leaf} (h : Pte.mig l.entry = false) :
    s.setMig l true = s.setPte l.addr (l.entry + 4096) := by
  simp [setMig, h]

theorem setPte_sameCtxs (s : State) (a e : Nat) : SameCtxs s (s.setPte a e) := write_sameCtxs ..

/-- MIG is set in two leaves that lie apart, and no other byte changes. -/
theorem setMig_both {s : State} {t : Session} {va vb : Nat} {a b : Leaf} (hwf : Memory.wf s.mem = true)
    (ha : s.movable t va = some a) (hb : s.movable t vb = some b) (hab : a.addr + 8 ≤ b.addr ∨ b.addr + 8 ≤ a.addr) :
    let z := (s.setMig a true).setMig b true
    z.readNat a.addr 8 = a.entry + 4096 ∧ z.readNat b.addr 8 = b.entry + 4096 ∧ SameRegs s z ∧
      ∀ y, (y < a.addr ∨ a.addr + 8 ≤ y) → (y < b.addr ∨ b.addr + 8 ≤ y) → z.byteAt y = s.byteAt y := by
  obtain ⟨ha0, halt⟩ := movable_leaf ha
  obtain ⟨hb0, hblt⟩ := movable_leaf hb
  have hwfa := setPte_wf hwf a.addr (a.entry + 4096)
  simp only [setMig_of_clear ha0, setMig_of_clear hb0]
  refine ⟨?_, ?_, fun c x => ?_, fun y hya hyb => ?_⟩
  · rw [readNat_setPte_of_apart hwfa _ hab.symm, readNat_setPte hwf, Nat.mod_eq_of_lt (by omega)]
  · rw [readNat_setPte hwfa, Nat.mod_eq_of_lt (by omega)]
  · rw [((setPte_sameCtxs ..).trans (setPte_sameCtxs ..)).ctx]
    exact ⟨rfl, rfl⟩
  · rw [byteAt_setPte_of_apart hwfa _ hyb, byteAt_setPte_of_apart hwf _ hya]

/-- The frame of a leaf as a piece. -/
def framePiece (l : Leaf) : Piece := { home := .here ((leafHome l.entry).getD 0), off := 0, len := 65536 }

/-- Nothing keeps an exchange of two pages from beginning: no access is in flight to them, no granule holds the writes. -/
def pagesFree (s : State) (sess va vb : Nat) (a b : Leaf) : Prop :=
  s.inFlight sess va = false ∧ s.inFlight sess vb = false ∧ s.granuleHold [framePiece a, framePiece b] = false

section
variable {s : State} {t : Session} {va vb : Nat} {a b : Leaf}

theorem tryExchange_of_forbidden (ha : s.movable t va = some a) (hb : s.movable t vb = some b)
    (h : s.mayExchange t va vb = false) : s.tryExchange t va vb = s := by
  simp [tryExchange, ha, hb, h]

theorem tryExchange_of_busy (ha : s.movable t va = some a) (hb : s.movable t vb = some b)
    (h : s.mayExchange t va vb = true) (hbusy : ¬ s.pagesFree t.id va vb a b) :
    s.tryExchange t va vb = { s with exchanges := s.exchanges ++ [{ sess := t.id, va := va, vb := vb, held := true }] } := by
  have hwait : (s.inFlight t.id va = true ∨ s.inFlight t.id vb = true ∨
      s.granuleHold [framePiece a, framePiece b] = true) := by
    by_contra hno
    exact hbusy (by simpa [pagesFree] using hno)
  simp only [tryExchange, ha, hb, h, Bool.not_true, Bool.false_eq_true, if_false]
  exact if_pos hwait

theorem tryExchange_of_free (ha : s.movable t va = some a) (hb : s.movable t vb = some b)
    (h : s.mayExchange t va vb = true) (hfree : s.pagesFree t.id va vb a b) :
    s.tryExchange t va vb = { (s.setMig a true).setMig b true with
      exchanges := s.exchanges ++ [{ sess := t.id, va := va, vb := vb }] } := by
  obtain ⟨hfa, hfb, hhold⟩ := hfree
  have hgo : ¬ (s.inFlight t.id va = true ∨ s.inFlight t.id vb = true ∨
      s.granuleHold [framePiece a, framePiece b] = true) := by simp [hfa, hfb, hhold]
  have hex : ((s.setMig a true).setMig b true).exchanges = s.exchanges :=
    ((setPte_dataOnly ..).trans (setPte_dataOnly ..)).same _ fun _ _ _ _ _ _ _ _ => rfl
  simp only [tryExchange, ha, hb, h, Bool.not_true, Bool.false_eq_true, if_false]
  exact (if_neg hgo).trans (by rw [hex])

/-- Where one exchange waits, and no other is there, a retry tries it alone. -/
theorem retryExchanges_of_one (ht : s.session? t.id = some t)
    (h : s.exchanges = [{ sess := t.id, va := va, vb := vb, held := true }]) :
    s.retryExchanges = tryExchange { s with exchanges := [] } t va vb := by
  have hs : State.session? { s with exchanges := [] } t.id = some t := ht
  simp [retryExchanges, h, hs]

end

theorem retryExchanges_of_none_held {s : State} (h : ∀ x ∈ s.exchanges, x.held = false) : s.retryExchanges = s := by
  have hnone : s.exchanges.filter (·.held) = [] := by simpa using h
  rw [retryExchanges, hnone, List.foldl_nil]

theorem id_of_session? {s : State} {id : Nat} {t : Session} (h : s.session? id = some t) : t.id = id := by
  simpa using List.find?_some h

/-! ## The end of an exchange (04 R107) -/

theorem meet_of_no_errors {s : State} (h : s.errors = []) (a n : Nat) : s.meet a n = s := by
  have hs : { s with errors := [] } = s := by rw [← h]
  simp [meet, h, hs]

/-- Two runs of memory that lie apart change places. -/
theorem byteAt_exchanged {s : State} (hwf : Memory.wf s.mem = true) {a b n : Nat} (hab : a + n ≤ b ∨ b + n ≤ a) (y : Nat) :
    ((s.write a (s.read b n)).write b (s.read a n)).byteAt y =
      if a ≤ y ∧ y < a + n then s.byteAt (b + (y - a)) else if b ≤ y ∧ y < b + n then s.byteAt (a + (y - b))
      else s.byteAt y := by
  rw [Laws.Memory.write_get (Laws.Memory.write_wf hwf ..), Laws.Memory.write_get hwf, length_read, length_read]
  by_cases ha : a ≤ y ∧ y < a + n
  · rw [if_neg (by omega), if_pos ha, if_pos ha, getElem?_read hwf b (by omega)]
    rfl
  · rw [if_neg ha, if_neg ha]
    split
    next hb =>
      rw [getElem?_read hwf a (by omega)]
      rfl
    next => rfl

/-- A leaf that keeps its own permissions and takes the frame of another, with MIG clear. -/
def leafWithFrame (e f : Nat) : Nat :=
  bits e 5 0 + Pte.tier f * 64 + bits e 11 8 * 256 + bits e 15 13 * 8192 + Pte.ppn f * 65536 + bits e 63 52 * 2 ^ 52

theorem leafWithFrame_fields (e f : Nat) :
    leafWithFrame e f < 2 ^ 64 ∧ Pte.ppn (leafWithFrame e f) = Pte.ppn f ∧ Pte.tier (leafWithFrame e f) = Pte.tier f ∧
      Pte.mig (leafWithFrame e f) = false ∧ bits (leafWithFrame e f) 5 0 = bits e 5 0 := by
  have hrights : bits e 5 0 < 64 := Nat.mod_lt _ (by decide)
  have htier : Pte.tier f < 4 := Nat.mod_lt _ (by decide)
  have hlink : bits e 11 8 < 16 := Nat.mod_lt _ (by decide)
  have hlow : bits e 15 13 < 8 := Nat.mod_lt _ (by decide)
  have hppn : Pte.ppn f < 2 ^ 36 := Nat.mod_lt _ (by decide)
  have hhigh : bits e 63 52 < 4096 := Nat.mod_lt _ (by decide)
  simp only [leafWithFrame]
  generalize bits e 5 0 = r at *
  generalize Pte.tier f = t at *
  generalize Pte.ppn f = p at *
  simp only [Pte.ppn, Pte.tier, Pte.mig, bit, beq_eq_false_iff_ne]
  generalize bits e 11 8 = k at *
  generalize bits e 15 13 = l at *
  generalize bits e 63 52 = u at *
  simp only [bits]
  refine ⟨?_, ?_, ?_, ?_, ?_⟩ <;> omega

theorem swapLeaves_mem (s : State) (sess : Nat) (a b : Leaf) (va vb : Nat) : (s.swapLeaves sess a b va vb).mem =
    ((s.setPte a.addr (leafWithFrame a.entry b.entry)).setPte b.addr (leafWithFrame b.entry a.entry)).mem := by
  unfold swapLeaves
  split <;> rfl

theorem swapLeaves_dataOnly (s : State) (sess : Nat) (a b : Leaf) (va vb : Nat) :
    DataOnly s (s.swapLeaves sess a b va vb) := by
  unfold swapLeaves
  dsimp only
  generalize hw : (s.setPte a.addr _).setPte b.addr _ = w
  have hset : DataOnly s w := hw ▸ (setPte_dataOnly ..).trans (setPte_dataOnly ..)
  split <;> exact hset.trans rfl

/-- Each of two leaves takes the frame of the other. -/
theorem readNat_swapLeaves {s : State} (hwf : Memory.wf s.mem = true) (sess : Nat) {a b : Leaf} (va vb : Nat)
    (hab : a.addr + 8 ≤ b.addr ∨ b.addr + 8 ≤ a.addr) :
    (s.swapLeaves sess a b va vb).readNat a.addr 8 = leafWithFrame a.entry b.entry ∧
      (s.swapLeaves sess a b va vb).readNat b.addr 8 = leafWithFrame b.entry a.entry := by
  have hwfa := setPte_wf hwf a.addr (leafWithFrame a.entry b.entry)
  simp only [readNat_congr (swapLeaves_mem s sess a b va vb)]
  constructor
  · rw [readNat_setPte_of_apart hwfa _ hab.symm, readNat_setPte hwf, Nat.mod_eq_of_lt (leafWithFrame_fields ..).1]
  · rw [readNat_setPte hwfa, Nat.mod_eq_of_lt (leafWithFrame_fields ..).1]

theorem byteAt_swapLeaves {s : State} (hwf : Memory.wf s.mem = true) (sess : Nat) {a b : Leaf} (va vb : Nat) {y : Nat}
    (hy : ∀ l ∈ [a.addr, b.addr], y < l ∨ l + 8 ≤ y) : (s.swapLeaves sess a b va vb).byteAt y = s.byteAt y := by
  rw [byteAt, swapLeaves_mem, ← byteAt, byteAt_setPte_of_apart (setPte_wf hwf ..) _ (hy b.addr (by simp)),
    byteAt_setPte_of_apart hwf _ (hy a.addr (by simp))]

theorem mapPieces_dataOnly (s : State) (sess : Nat) (f : Piece → Piece) : DataOnly s (s.mapPieces sess f) := rfl

/-- The state of an exchange that has ended, before what waited goes to the new frames. -/
def exchanged (s : State) (x : Exchange) (a b : Leaf) (ha hb : Nat) : State :=
  let w : State := { s with exchanges := s.exchanges.filter (· != x) }
  ((w.write ha (w.read hb 65536)).write hb (w.read ha 65536)).swapLeaves s.arg.sess a b x.va x.vb

theorem endExchange_eq {s : State} {x : Exchange} {t : Session} {a b : Leaf} {ha hb : Nat} (he : s.errors = [])
    (hx : s.exchanges.find? (fun x => x.sess == s.arg.sess && !x.held) = some x) (ht : s.session? s.arg.sess = some t)
    (hwa : s.walk t.table x.va = some a) (hwb : s.walk t.table x.vb = some b) (hha : leafHome a.entry = some ha)
    (hhb : leafHome b.entry = some hb) :
    ∃ go, s.endExchange s.arg.sess = (s.exchanged x a b ha hb).mapPieces s.arg.sess go := by
  obtain ⟨w, hw⟩ : ∃ w : State, w = { s with exchanges := s.exchanges.filter (· != x) } := ⟨_, rfl⟩
  have hmeet (n : Nat) : w.meet n 65536 = w := meet_of_no_errors (by rw [hw]; exact he) _ _
  have ht' : w.session? s.arg.sess = some t := by rw [hw]; exact ht
  have hwa' : w.walk t.table x.va = some a := by rw [hw]; exact hwa
  have hwb' : w.walk t.table x.vb = some b := by rw [hw]; exact hwb
  simp only [endExchange, hx, exchanged, ← hw, ht', Option.bind_some, hwa', hwb', hha, hhb, Option.getD_some, hmeet]
  exact ⟨_, rfl⟩

theorem exchanged_dataOnly (s : State) (x : Exchange) (a b : Leaf) (ha hb : Nat) :
    DataOnly { s with exchanges := s.exchanges.filter (· != x) } (s.exchanged x a b ha hb) :=
  ((write_dataOnly ..).trans (write_dataOnly ..)).trans (swapLeaves_dataOnly ..)

end State

/-! ## O43 -/

theorem exec_pageExchange (s : State) :
    exec .pageExchange s = .next (s.startExchange s.arg.sess s.arg.addr s.arg.addr2) := rfl

theorem exec_exchangeSwap_begins {s : State} (h : ∀ x ∈ s.exchanges, x.sess = s.arg.sess → x.held = true) :
    exec .exchangeSwap s = .next s.retryExchanges := by
  have hno : ¬ (s.exchanges.any fun x => x.sess == s.arg.sess && !x.held) = true := by simpa using h
  exact congrArg Host.Outcome.next (if_neg hno)

theorem exec_exchangeSwap_ends {s : State} {x : Exchange}
    (h : s.exchanges.find? (fun x => x.sess == s.arg.sess && !x.held) = some x) :
    exec .exchangeSwap s = .next (s.endExchange s.arg.sess).runJournal := by
  have hyes : (s.exchanges.any fun x => x.sess == s.arg.sess && !x.held) = true :=
    List.any_eq_true.2 ⟨x, List.mem_of_find?_eq_some h, List.find?_some (p := fun x : Exchange => x.sess == s.arg.sess && !x.held) h⟩
  exact congrArg Host.Outcome.next (if_pos hyes)

/-- An exchange that ends (04 R107). -/
theorem exchange_ends (s : State) (x : Exchange) (t : Session) (a b : Leaf) (ha hb : Nat) (hset : Settled s) (hok : MemOk s)
    (he : s.errors = []) (hx : s.exchanges.find? (fun x => x.sess == s.arg.sess && !x.held) = some x)
    (ht : s.session? s.arg.sess = some t) (hwa : s.walk t.table x.va = some a) (hwb : s.walk t.table x.vb = some b)
    (hha : State.leafHome a.entry = some ha) (hhb : State.leafHome b.entry = some hb)
    (hframes : ha + 65536 ≤ hb ∨ hb + 65536 ≤ ha) (hleaves : a.addr + 8 ≤ b.addr ∨ b.addr + 8 ≤ a.addr)
    (happart : ∀ l ∈ [a.addr, b.addr], ∀ h ∈ [ha, hb], l + 8 ≤ h ∨ h + 65536 ≤ l) :
    ∃ z, exec .exchangeSwap s = .next z ∧ z.exchanges = s.exchanges.filter (· != x) ∧
      (∀ k, k < 65536 → z.byteAt (ha + k) = s.byteAt (hb + k) ∧ z.byteAt (hb + k) = s.byteAt (ha + k)) ∧
      (∀ p ∈ [(a, b), (b, a)], let e := z.readNat p.1.addr 8
        Pte.ppn e = Pte.ppn p.2.entry ∧ Pte.tier e = Pte.tier p.2.entry ∧ Pte.mig e = false ∧
        bits e 5 0 = bits p.1.entry 5 0) ∧
      ∀ y, (∀ l ∈ [a.addr, b.addr], y < l ∨ l + 8 ≤ y) → (∀ h ∈ [ha, hb], y < h ∨ h + 65536 ≤ y) →
        z.byteAt y = s.byteAt y := by
  obtain ⟨go, hend⟩ := State.endExchange_eq he hx ht hwa hwb hha hhb
  have hd := (s.exchanged_dataOnly x a b ha hb).trans (State.mapPieces_dataOnly _ s.arg.sess go)
  have hsettled : Settled ((s.exchanged x a b ha hb).mapPieces s.arg.sess go) := by
    rw [Settled, hd.ckpt, hd.journal]
    exact hset
  obtain ⟨w, hw⟩ : ∃ w : State, w = { s with exchanges := s.exchanges.filter (· != x) } := ⟨_, rfl⟩
  have hwf : Memory.wf w.mem = true := by rw [hw]; exact hok.1
  have hwbyte (y : Nat) : w.byteAt y = s.byteAt y := by rw [hw]; rfl
  have hbyte (y : Nat) (hy : ∀ l ∈ [a.addr, b.addr], y < l ∨ l + 8 ≤ y) :
      ((s.exchanged x a b ha hb).mapPieces s.arg.sess go).byteAt y =
        if ha ≤ y ∧ y < ha + 65536 then s.byteAt (hb + (y - ha)) else if hb ≤ y ∧ y < hb + 65536 then s.byteAt (ha + (y - hb))
        else s.byteAt y := by
    have h1 : ((s.exchanged x a b ha hb).mapPieces s.arg.sess go).byteAt y = (s.exchanged x a b ha hb).byteAt y := rfl
    rw [h1, State.exchanged, ← hw, State.byteAt_swapLeaves (Laws.Memory.write_wf (Laws.Memory.write_wf hwf ..) ..) _ _ _ hy,
      State.byteAt_exchanged hwf hframes, hwbyte, hwbyte, hwbyte]
  have hleaf : ((s.exchanged x a b ha hb).mapPieces s.arg.sess go).readNat a.addr 8 = State.leafWithFrame a.entry b.entry ∧
      ((s.exchanged x a b ha hb).mapPieces s.arg.sess go).readNat b.addr 8 = State.leafWithFrame b.entry a.entry := by
    have h1 (l : Nat) : ((s.exchanged x a b ha hb).mapPieces s.arg.sess go).readNat l 8 =
        (s.exchanged x a b ha hb).readNat l 8 := rfl
    rw [h1, h1, State.exchanged, ← hw]
    exact State.readNat_swapLeaves (Laws.Memory.write_wf (Laws.Memory.write_wf hwf ..) ..) _ _ _ hleaves
  obtain ⟨-, hfields⟩ := State.leafWithFrame_fields a.entry b.entry
  obtain ⟨-, hfields'⟩ := State.leafWithFrame_fields b.entry a.entry
  refine ⟨_, ?_, hd.same _ fun _ _ _ _ _ _ _ _ => rfl, fun k hk => ?_, fun p hp => ?_, fun y hl hf => ?_⟩
  · rw [exec_exchangeSwap_ends hx, hend, State.runJournal_of_settled hsettled]
  · have hout (h : Nat) (hh : h ∈ [ha, hb]) : ∀ l ∈ [a.addr, b.addr], h + k < l ∨ l + 8 ≤ h + k := by
      intro l hl
      have := happart l hl h hh
      omega
    rw [hbyte _ (hout ha (by simp)), hbyte _ (hout hb (by simp)), if_pos (by omega), if_neg (by omega), if_pos (by omega)]
    simp
  · rcases List.mem_pair.1 hp with rfl | rfl
    · rw [hleaf.1]
      exact hfields
    · rw [hleaf.2]
      exact hfields'
  · have h1 := hf ha (by simp)
    have h2 := hf hb (by simp)
    rw [hbyte y hl, if_neg (by omega), if_neg (by omega)]

/-- Settles O43: an exchange begins by the rules or waits, begins later where it has waited, and ends with the bytes and the
leaves exchanged. -/
theorem pageExchanges : Obligations.PageExchanges := by
  refine ⟨?_, ?_, exchange_ends, ?_⟩
  · intro s t a b hok ht ha hb hab
    have hid := State.id_of_session? ht
    have hfree : s.pagesFree t.id s.arg.addr s.arg.addr2 a b ↔ s.inFlight s.arg.sess s.arg.addr = false ∧
        s.inFlight s.arg.sess s.arg.addr2 = false ∧ s.granuleHold [State.framePiece a, State.framePiece b] = false := by
      rw [State.pagesFree, hid]
    have hmig := State.setMig_both hok.1 ha hb hab
    refine ⟨fun h => ?_, fun hmay hlen hnone hck => ?_, fun hmay hgo _ hone => ?_⟩
    · rw [exec_pageExchange, State.startExchange, ht]
      dsimp only
      split
      · rfl
      next hno =>
        refine congrArg Host.Outcome.next (State.tryExchange_of_forbidden ha hb ?_)
        rcases h with h | h | ⟨x, hx, hs⟩ | h
        · exact h
        · exact absurd (.inr (.inr h)) hno
        · exact absurd (.inr (.inl (List.any_eq_true.2 ⟨x, hx, beq_iff_eq.2 hs⟩))) hno
        · exact absurd (.inl (Option.isSome_iff_ne_none.2 h)) hno
    · have hstart : exec .pageExchange s = .next (s.tryExchange t s.arg.addr s.arg.addr2) := by
        rw [exec_pageExchange, State.startExchange, ht]
        refine congrArg Host.Outcome.next (if_neg ?_)
        simpa [hck] using And.intro hnone hlen
      rw [hstart]
      constructor
      · intro hbusy
        rw [State.tryExchange_of_busy ha hb hmay (hfree.not.2 hbusy), hid]
      · intro hgo
        exact ⟨_, rfl, by rw [State.tryExchange_of_free ha hb hmay (hfree.2 hgo), hid],
          by rw [State.tryExchange_of_free ha hb hmay (hfree.2 hgo)]; exact hmig⟩
    · have hretry := State.retryExchanges_of_one (by rw [hid]; exact ht) (by rw [hid]; exact hone)
      have hbegin := State.tryExchange_of_free (s := { s with exchanges := [] }) ha hb hmay (hfree.2 hgo)
      have hheld : ∀ x ∈ s.exchanges, x.sess = s.arg.sess → x.held = true := by
        intro x hx _
        rw [hone] at hx
        obtain rfl := List.mem_singleton.1 hx
        rfl
      refine ⟨_, (exec_exchangeSwap_begins hheld).trans (congrArg _ (hretry.trans hbegin)), ?_, ?_⟩
      · rw [hid]
        rfl
      · exact State.setMig_both (s := { s with exchanges := [] }) hok.1 ha hb hab
  · intro s h
    rw [exec_pageExchange, State.startExchange, h]
  · intro s h
    rw [exec_exchangeSwap_begins fun x hx hs => absurd hs (h x hx).1, State.retryExchanges_of_none_held fun x hx => (h x hx).2]

end Sys2Proof.Machine
end

section
/-! PROOFS. The issue of an access: what refuses, holds or stalls it, and what it does at its issue (20 R412, R418, 08 R197,
04 R85, R94, R99). -/

namespace Sys2Proof.Machine

/-! ## One context changes -/

/-- The context in hand is now `k`; every other one, which slot of which is in hand, and the time are as before. -/
structure CurBecomes (s z : State) (k : Ctx) : Prop where
  cur : z.cur = k
  others : ∀ c x, c ≠ s.curCore ∨ x ≠ s.curCtx → z.ctx c x = s.ctx c x
  curCore : z.curCore = s.curCore
  curCtx : z.curCtx = s.curCtx
  curSlot : z.curSlot = s.curSlot
  now : z.now = s.now

theorem SameCtxs.curBecomes {s t : State} (h : SameCtxs s t) : CurBecomes s t s.cur :=
  ⟨h.cur, fun c x _ => h.ctx c x, h.curCore, h.curCtx, h.curSlot, h.now⟩

namespace CurBecomes

variable {s t u : State} {k l : Ctx}

theorem trans (h : CurBecomes s t k) (g : CurBecomes t u l) : CurBecomes s u l :=
  ⟨g.cur, fun c x hcx => (g.others c x (by rwa [h.curCore, h.curCtx])).trans (h.others c x hcx), g.curCore.trans h.curCore,
    g.curCtx.trans h.curCtx, g.curSlot.trans h.curSlot, g.now.trans h.now⟩

theorem inHand (h : CurBecomes s t k) (hs : s.InHand) : t.InHand := by
  rw [State.InHand, h.curCore, h.curCtx]
  exact hs

theorem modCur (h : CurBecomes s t k) (hs : s.InHand) (f : Ctx → Ctx) : CurBecomes s (t.modCur f) (f k) := by
  refine h.trans ⟨?_, fun c x hcx => ?_, rfl, rfl, rfl, rfl⟩
  · rw [State.cur_modCur (h.inHand hs), h.cur]
  · by_cases hc : t.curCore = c
    · subst hc
      exact State.ctx_setCtx_ne _ _ _ _ _ fun hx => by simp [hx] at hcx
    · exact congrArg (fun q : Core => q.ctxs[x]?.getD {}) (State.core_setCtx_ne _ _ _ _ _ hc)

theorem outcome (h : CurBecomes s t k) (hs : s.InHand) (o : SlotOut) : CurBecomes s (t.outcome o) { k with out := o } :=
  h.modCur hs _

theorem dueIn (h : CurBecomes s t k) (hf : k.fixed = s.cur.fixed) (hi : k.issue = s.cur.issue) (lat : Nat) :
    t.dueIn lat = s.dueIn lat := by
  rw [State.dueIn, h.cur, h.now, hf, hi]
  rfl

theorem wallOf (h : CurBecomes s t k) (hi : k.issue = s.cur.issue) (d : Due) : t.wallOf d = s.wallOf d := by
  rw [State.wallOf.eq_def, h.cur, h.now, hi]
  rfl

theorem slotOrder (h : CurBecomes s t k) (hi : k.issue = s.cur.issue) : t.slotOrder = s.slotOrder := by
  rw [State.slotOrder, h.cur, h.curSlot, hi]
  rfl

theorem sameRegs (h : CurBecomes s t k) (hr : k.regs = s.cur.regs) (hy : k.sys = s.cur.sys) : SameRegs s t := by
  intro c x
  by_cases hcx : c = s.curCore ∧ x = s.curCtx
  · obtain ⟨rfl, rfl⟩ := hcx
    have hcur : t.ctx s.curCore s.curCtx = k := by
      rw [← h.curCore, ← h.curCtx]
      exact h.cur
    rw [hcur]
    exact ⟨hr, hy⟩
  · rw [h.others c x (by tauto)]
    exact ⟨rfl, rfl⟩

end CurBecomes

namespace State

/-! ## Results that a context comes to wait for -/

/-- The context in hand waits for further results, of the slot in hand. -/
def awaiting (s : State) (ps : List Pend) : State :=
  s.modCur fun c => { c with pend := c.pend ++ ps.map fun p => { p with wall := s.wallOf p.due, order := s.slotOrder } }

@[simp] theorem awaiting_stored (s : State) (ps : List Pend) : (s.awaiting ps).stored = s.stored := rfl

theorem cur_awaiting {s : State} (h : s.InHand) (ps : List Pend) : (s.awaiting ps).cur =
    { s.cur with pend := s.cur.pend ++ ps.map fun p => { p with wall := s.wallOf p.due, order := s.slotOrder } } :=
  cur_modCur h _

theorem awaiting_nil (s : State) : s.awaiting [] = s := by
  unfold awaiting modCur
  exact modCtx_of_fixed _ _ _ _ (by simp)

section
variable {s : State} (h : s.InHand)
include h

theorem dueIn_awaiting (ps : List Pend) (lat : Nat) : (s.awaiting ps).dueIn lat = s.dueIn lat := by
  rw [dueIn, cur_awaiting h]
  rfl

theorem push_awaiting (ps : List Pend) (p : Pend) : (s.awaiting ps).push p = s.awaiting (ps ++ [p]) := by
  have hwall (d : Due) : (s.awaiting ps).wallOf d = s.wallOf d := by
    rw [wallOf.eq_def, cur_awaiting h]
    rfl
  have horder : (s.awaiting ps).slotOrder = s.slotOrder := by
    rw [slotOrder, cur_awaiting h]
    rfl
  rw [push, hwall, horder, awaiting, modCur_modCur h, awaiting]
  simp

/-- Results pushed one after another, each made of what their issue does not change. -/
theorem foldl_push {f : State → Pend → Pend} (hf : ∀ l p, f (s.awaiting l) p = f s p) (ps : List Pend) :
    ps.foldl (fun s p => s.push (f s p)) s = s.awaiting (ps.map (f s)) := by
  have hfrom (done : List Pend) : ps.foldl (fun s p => s.push (f s p)) (s.awaiting done) = s.awaiting (done ++ ps.map (f s)) := by
    induction ps generalizing done with
    | nil => simp
    | cons p ps ih => rw [List.foldl_cons, hf, push_awaiting h, ih, List.map_cons, List.append_assoc, List.singleton_append]
  have hnil := hfrom []
  rwa [awaiting_nil, List.nil_append] at hnil

end

end State

theorem CurBecomes.awaiting {s t : State} {k : Ctx} (h : CurBecomes s t k) (hs : s.InHand) (hi : k.issue = s.cur.issue)
    (ps : List Pend) : CurBecomes s (t.awaiting ps)
      { k with pend := k.pend ++ ps.map fun p => { p with wall := s.wallOf p.due, order := s.slotOrder } } := by
  have ha : CurBecomes s (t.awaiting ps)
      { k with pend := k.pend ++ ps.map fun p => { p with wall := t.wallOf p.due, order := t.slotOrder } } := h.modCur hs _
  simpa only [h.wallOf hi, h.slotOrder hi] using ha

namespace State

/-! ## The checks at issue (20 R412, R418, 04 R85) -/

theorem beyondOwn_iff {s : State} {l : List Part} : s.beyondOwn l = true ↔ s.cur.fixed = true ∧ leavesOwn s l := by
  simp only [beyondOwn, leavesOwn, Bool.and_eq_true, Bool.not_eq_true', List.all_eq_false, not_and_or, Bool.not_eq_true]

section
variable {s : State} {a : Access} {why : Purpose} {w inTurn : Bool} {l : List Part} {pends : List Pend} {lat : Nat}

theorem checkAccessParts_eq (mis : Option DWord) : s.checkAccessParts a why w inTurn l mis pends lat =
    let r := s.checkParts (if w then .write else .read) inTurn l
    match r.2.2, mis with
    | some d, _ => s.trapWith d.code 0 d.eva
    | none, some p => s.trapWith 0x0C 0 p
    | none, none =>
      if (w ∧ s.granuleHold r.1) ∨ (s.cur.fixed ∧ (r.1.any (s.portTaken s.curSess) ∨ (why = .read ∧ r.1.any s.switching))) then
        s.outcome .held
      else if !s.cur.fixed ∧ (r.1.any (·.mig) ∨ r.1.any (s.portTaken s.curSess)) then s.outcome .stalled
      else s.issueOk a why r.1 pends lat := rfl

theorem checkAccessParts_denied {d : Denied} (mis : Option DWord)
    (h : (s.checkParts (if w then .write else .read) inTurn l).2.2 = some d) :
    s.checkAccessParts a why w inTurn l mis pends lat = s.trapWith d.code 0 d.eva := by
  simp only [checkAccessParts_eq, h]

theorem checkAccessParts_misaligned (p : DWord) (h : (s.checkParts (if w then .write else .read) inTurn l).2.2 = none) :
    s.checkAccessParts a why w inTurn l (some p) pends lat = s.trapWith 0x0C 0 p := by
  simp only [checkAccessParts_eq, h]

theorem checkAccessParts_held (h : (s.checkParts (if w then .write else .read) inTurn l).2.2 = none) :
    let r := s.checkParts (if w then .write else .read) inTurn l
    (w = true ∧ s.granuleHold r.1 = true) ∨ (s.cur.fixed = true ∧ (r.1.any (s.portTaken s.curSess) = true ∨
      (why = .read ∧ r.1.any s.switching = true))) →
    s.checkAccessParts a why w inTurn l none pends lat = s.outcome .held := by
  intro r hheld
  simp only [checkAccessParts_eq, h]
  exact if_pos hheld

theorem checkAccessParts_stalled (h : (s.checkParts (if w then .write else .read) inTurn l).2.2 = none)
    (hfix : s.cur.fixed = false) :
    let r := s.checkParts (if w then .write else .read) inTurn l
    (w = true → s.granuleHold r.1 = false) → (∃ p ∈ r.1, p.mig = true) ∨ r.1.any (s.portTaken s.curSess) = true →
    s.checkAccessParts a why w inTurn l none pends lat = s.outcome .stalled := by
  intro r hroom hwait
  have hnot : ¬ ((w = true ∧ s.granuleHold r.1 = true) ∨ (s.cur.fixed = true ∧ (r.1.any (s.portTaken s.curSess) = true ∨
      (why = .read ∧ r.1.any s.switching = true)))) := by
    rintro (⟨hw, hg⟩ | ⟨hf, -⟩)
    · rw [hroom hw] at hg
      exact nomatch hg
    · rw [hfix] at hf
      exact nomatch hf
  have hstall : (!s.cur.fixed) = true ∧ (r.1.any (·.mig) = true ∨ r.1.any (s.portTaken s.curSess) = true) :=
    ⟨by rw [hfix]; rfl, hwait.imp_left fun hm => List.any_eq_true.2 hm⟩
  simp only [checkAccessParts_eq, h]
  exact (if_neg hnot).trans (if_pos hstall)

theorem checkAccessParts_passes {ps : List Piece} (hp : Passes s (if w then .write else .read) inTurn l ps)
    (hsw : s.cur.fixed = true → why = .read → ps.any s.switching = false) :
    s.checkAccessParts a why w inTurn l none pends lat = s.issueOk a why ps pends lat := by
  obtain ⟨⟨mig, hr⟩, hroom, hport, hmig⟩ := hp
  have hgo : ¬ ((w = true ∧ s.granuleHold ps = true) ∨ (s.cur.fixed = true ∧ (ps.any (s.portTaken s.curSess) = true ∨
      (why = .read ∧ ps.any s.switching = true)))) := by
    rintro (⟨hw, hg⟩ | ⟨hf, hq | ⟨hread, hq⟩⟩)
    · rw [hroom (if_pos hw)] at hg
      exact nomatch hg
    · rw [hport] at hq
      exact nomatch hq
    · rw [hsw hf hread] at hq
      exact nomatch hq
  have hfree : ¬ ((!s.cur.fixed) = true ∧ (ps.any (·.mig) = true ∨ ps.any (s.portTaken s.curSess) = true)) := by
    rintro ⟨hf, hq | hq⟩
    · obtain ⟨p, hps, hm⟩ := List.any_eq_true.1 hq
      rw [hmig (by simpa using hf) p hps] at hm
      exact nomatch hm
    · rw [hport] at hq
      exact nomatch hq
  simp only [checkAccessParts_eq, hr]
  exact (if_neg hgo).trans (if_neg hfree)

end

/-! ## The access that is issued (08 R197, 04 R94) -/

/-- The access as it is issued to pieces `ps` with latency `lat`, the next in the order of issue. -/
def issued (s : State) (a : Access) (ps : List Piece) (lat : Nat) : Access :=
  { a with
    id := s.seq, pieces := cutPieces ps, own := ps.any (ownPiece s.curCore), landAt := s.now + lat
    slot := s.curSlot, bundle := s.cur.issue }

/-- The state in which an access has taken its number. -/
def numbered (s : State) : State := { s with seq := s.seq + 1 }

theorem numbered_sameCtxs (s : State) : SameCtxs s s.numbered := ⟨fun _ _ => rfl, rfl, rfl, rfl, rfl⟩

@[simp] theorem numbered_stored (s : State) : s.numbered.stored = s.stored := rfl

section
variable {s : State} {a : Access} {why : Purpose} {ps : List Piece} {pends : List Pend} {lat : Nat}

theorem issueOk_fixed (hread : why = .read) (hfix : s.cur.fixed = true) :
    s.issueOk a why ps pends lat = s.numbered.fixedRead (s.issued a ps lat) pends lat := if_pos ⟨hread, hfix⟩

theorem issueOk_far (hread : why = .read) (hfix : s.cur.fixed = false) (hpeer : ps.any isPeer = true) :
    s.issueOk a why ps pends lat = s.numbered.farRead (s.issued a ps lat) pends lat := by
  have hno : ¬ (why = .read ∧ s.cur.fixed = true) := fun h => by simp [hfix] at h
  exact (if_neg hno).trans (if_pos ⟨hread, hpeer⟩)

/-- Anything else takes its place among the accesses of the context, and its results wait for it. -/
theorem issues_of_issueOk {i : Instr} (h : s.InHand) (hexec : exec i s = .next (s.issueOk a why ps pends lat))
    (hnow : why = .read → s.cur.fixed = false ∧ ps.any isPeer = false) :
    Issues i s { a with own := ps.any (ownPiece s.curCore), pieces := cutPieces ps, landAt := s.now + lat } pends := by
  have hn : s.numbered.InHand := h
  have hno : ¬ (why = .read ∧ s.cur.fixed = true) := fun hr => by simp [hnow hr.1] at hr
  have hno' : ¬ (why = .read ∧ ps.any isPeer = true) := fun hr => by simp [hnow hr.1] at hr
  have hq : s.issueOk a why ps pends lat =
      (pends.foldl (fun t p => t.push { p with due := .access s.seq }) s.numbered).modCur
        fun c => { c with accesses := c.accesses ++ [s.issued a ps lat] } := (if_neg hno).trans (if_neg hno')
  rw [foldl_push hn (f := fun _ p => { p with due := .access s.seq }) (fun _ _ => rfl), awaiting, modCur_modCur hn] at hq
  rw [Issues, hexec, hq]
  simp only [List.map_map, Function.comp_def]
  rfl

end

/-! ## A read of a fixed region at its issue (08 R197) -/

theorem takeBytes_of_no_errors {s : State} (h : s.errors = []) (sess n : Nat) (ps : List Piece) (ts : List (Option Nat)) :
    s.takeBytes sess n ps ts = (ofBytes (s.gather n ps ts), s) := by
  simp [takeBytes, meetPieces, h]

theorem performEarlier_of_none {s : State} (h : s.cur.accesses = []) (all : Bool) : s.performEarlier all = s := by
  simp [performEarlier, h]

theorem cutPieces_of_home {ps : List Piece} (h : ∀ p ∈ ps, ∃ a, p.home = .here a) : cutPieces ps = ps := by
  induction ps with
  | nil => rfl
  | cons p ps ih =>
    obtain ⟨a, ha⟩ := h p (by simp)
    have htail : cutPieces ps = ps := ih fun q hq => h q (by simp [hq])
    rw [cutPieces] at htail ⊢
    rw [List.flatMap_cons, htail, ha]
    rfl

theorem fixedRead_load {s : State} {a : Access} (h : s.InHand) (hact : a.act = .load) (hacc : s.cur.accesses = [])
    (herr : s.errors = []) (pends : List Pend) (lat : Nat) :
    s.fixedRead a pends lat = (s.claimArrays s.curSess a.pieces).awaiting (pends.map fun p =>
      { p with data := valueOf a.size a.sext (ofBytes (s.gather (spanOf a.pieces) a.pieces [])) p, due := s.dueIn lat }) := by
  have hclaim := s.claimArrays_sameCtxs s.curSess a.pieces
  have hin := hclaim.inHand h
  simp only [fixedRead, hact, performEarlier_of_none hacc, takeBytes_of_no_errors herr]
  rw [foldl_push hin (f := fun t p => { p with
    data := valueOf a.size a.sext (ofBytes (s.gather (spanOf a.pieces) a.pieces [])) p, due := t.dueIn lat })
    fun l p => by rw [dueIn_awaiting hin]]
  simp only [hclaim.dueIn]

end State

/-- What is reached is in no macro that is to change its mode. -/
theorem Reach.switching {s : State} {sess : Nat} {ps : List Piece} (h : Reach s sess ps) : ps.any s.switching = false := by
  have hw := h.1
  rw [List.any_eq_false] at hw ⊢
  intro p hp hsw
  refine hw p hp ?_
  rw [State.pieceWaitsAt, show s.switchingAt s.seq p = true from hsw]
  simp

/-- A load that is issued in a fixed region takes its bytes at once. -/
theorem ownRead_of_issue {s : State} {f : Form} {turn : Bool} {a : Access} (h : s.InHand) (hact : a.act = .load)
    (hsize : a.size = f.size) (hsext : a.sext = f.sext) (hfix : s.cur.fixed = true)
    (hexec : ¬ leavesOwn s f.parts → ∀ ps, Passes s .read turn f.parts ps → ps.any s.switching = false →
      exec f.op s = .next (s.issueOk a .read ps f.pends f.lat)) : OwnRead s f turn := by
  intro hown ps hpass hhome hreach hacc
  have hcut : (s.issued a ps f.lat).pieces = ps := State.cutPieces_of_home hhome
  have hnum := s.numbered_sameCtxs
  have hload := State.fixedRead_load (a := s.issued a ps f.lat) (hnum.inHand h) hact (by rw [hnum.cur]; exact hacc) hreach.2.2
    f.pends f.lat
  have hz := (hnum.trans (s.numbered.claimArrays_sameCtxs s.numbered.curSess ps)).curBecomes.awaiting h rfl
    (f.pends.map fun p => { p with
      data := State.valueOf f.size f.sext (ofBytes (s.gather (State.spanOf ps) ps [])) p, due := s.dueIn f.lat })
  rw [hcut, hnum.dueIn, show (s.issued a ps f.lat).size = f.size from hsize, show (s.issued a ps f.lat).sext = f.sext from hsext]
    at hload
  refine ⟨_, ?_, ?_, ?_, hz.sameRegs rfl rfl, sameBytes_of_stored (by simp)⟩
  · rw [hexec hown ps hpass hreach.switching, State.issueOk_fixed rfl hfix, hload]
    rfl
  · rw [hz.cur]
    simp only [List.map_map, Function.comp_def]
  · rw [hz.cur]

end Sys2Proof.Machine
end

section
/-! PROOFS. Accesses to peer memory, whose bundle waits until the far device has answered (04 R94, R99, 01 R20). -/

namespace Sys2Proof.Machine

/-! ## A precise trap (06 R149, R150) -/

/-- Where nothing of the context is outstanding, and a handler can take it, a trap enters its handler at once. -/
theorem State.trapWith_enters {s : State} (h : s.InHand) (code sub : Nat) (eva : DWord) (hacc : s.cur.accesses = [])
    (hpend : s.cur.pend = []) (htvec : s.cur.sys.tvec ≠ 0) (hhnd : s.cur.hnd = false) :
    let z := s.trapWith code sub eva
    z.cur.out = .trapped ∧ z.cur.sys.eva = eva ∧ z.cur.sys.epc = s.cur.pc ∧ z.cur.regs = s.cur.regs := by
  have hin : ¬ ((s.ctx s.curCore s.curCtx).sys.tvec = 0 ∨ (s.ctx s.curCore s.curCtx).hnd = true) := by
    rintro (h0 | h1)
    · exact htvec h0
    · rw [show (s.ctx s.curCore s.curCtx).hnd = false from hhnd] at h1
      exact nomatch h1
  have hnow : s.cur.accesses.all (·.posted) ∧ s.cur.pend = [] := ⟨by rw [hacc]; rfl, hpend⟩
  simp only [State.trapWith, State.trapCause, if_pos hnow, State.enterTrap, if_neg hin]
  generalize hk : ({ s.ctx s.curCore s.curCtx with
    sys := _, pc := _, nextPc := _, wait := _, wait2 := _, holds := _, since := _, met := _, parkMet := _, far := _,
    mwait := _, stall := _, st := _, out := _ } : Ctx) = k
  have hcur : (s.setCtx s.curCore s.curCtx k).cur = k := State.ctx_setCtx _ _ _ _ h.1 h.2
  rw [State.cur_outcome (s := s.setCtx s.curCore s.curCtx k) h, hcur, ← hk]
  exact ⟨rfl, rfl, rfl, rfl⟩

namespace State

/-! ## The cases of an access to peer memory -/

/-- The far device is asked first for the bytes alone: an atomic, or a read that waits for an access of its own bundle. -/
def asksFirst (s : State) (a : Access) : Bool :=
  (match a.act with | .atomic _ _ _ _ => true | _ => false) ||
    s.cur.accesses.any fun b => b.bundle == s.cur.issue && (blocks b a || awaitsAck b a)

/-- The access whose request `f` the far device has allowed. -/
def farLands (s : State) (a : Access) (pends : List Pend) (lat : Nat) (f : FarRead) : State :=
  if s.asksFirst a then
    (pends.foldl (fun s p => s.push { p with due := .access a.id }) (s.dropFar f)).modCur
      fun c => { c with accesses := c.accesses ++ [a] }
  else if a.pieces.any (s.pieceWaitsAt a.id) ∨ a.pieces.any (s.portTaken s.curSess) then s.outcome .stalled
  else
    let r := s.takeBytes s.curSess (spanOf a.pieces) a.pieces f.src.tags
    pends.foldl (fun s p => s.push { p with data := valueOf a.size a.sext r.1 p, due := s.dueIn lat })
      (((r.2.dropFar f).claimArrays s.curSess a.pieces).heatOf s.curSess a.pieces)

/-- The request for the pieces of an access that lie beyond the device. -/
def asksFar (s : State) (a : Access) : State :=
  let r := s.askAll s.curSess (.access s.curCore s.curCtx a.id) a.pieces
  r.2.modCur fun c => { c with
    far := c.far ++ [{ slot := r.2.curSlot, pieces := a.pieces, src := { asked := true, tags := r.1 } }] }

theorem farRead_of_none {s : State} (h : s.cur.far = []) (a : Access) (pends : List Pend) (lat : Nat) :
    s.farRead a pends lat =
      if !s.asksFirst a ∧ (!inOrder s.cur a ∨ a.pieces.any (s.pieceWaitsAt a.id) ∨ a.pieces.any (s.portTaken s.curSess)) then
        s.outcome .stalled
      else (s.asksFar a).outcome .stalled := by
  simp only [farRead, h, List.find?_nil]
  rfl

theorem askKey_eq : (fun p : Piece => if (farOf p.home).isSome then (some p.home, p.off, p.len) else (none, p.off, p.len)) =
    askKey := by
  funext p
  unfold askKey
  split <;> rfl

theorem farRead_of_asked {s : State} {f : FarRead} (h : s.cur.far = [f]) (hslot : f.slot = s.curSlot) (a : Access)
    (pends : List Pend) (lat : Nat) : s.farRead a pends lat =
      if f.pieces.map askKey ≠ a.pieces.map askKey then (s.dropFar f).outcome .stalled
      else if !s.answered f.pieces f.src.tags then s.outcome .stalled
      else match s.refusedAt f.pieces f.src.tags with
        | some va => (s.dropFar f).trapWith 0x07 0 va
        | none => s.farLands a pends lat f := by
  have hfind : s.cur.far.find? (·.slot == s.curSlot) = some f := by simp [h, hslot]
  simp only [farRead, hfind, askKey_eq]
  rfl

/-! ## What the cases leave -/

section
variable {s : State} (h : s.InHand)
include h

theorem asksFar_becomes (a : Access) : ∃ ts, CurBecomes s (s.asksFar a) { s.cur with
    far := s.cur.far ++ [{ slot := s.curSlot, pieces := a.pieces, src := { asked := true, tags := ts } }] } := by
  have hask := s.askAll_sameCtxs s.curSess (.access s.curCore s.curCtx a.id) a.pieces
  rw [← hask.curSlot]
  exact ⟨_, hask.curBecomes.modCur h _⟩

theorem dropFar_becomes {f : FarRead} (hfar : s.cur.far = [f]) : CurBecomes s (s.dropFar f) { s.cur with far := [] } := by
  have hnone : s.cur.far.filter (·.slot != f.slot) = [] := by simp [hfar]
  rw [← hnone]
  exact (s.dropRequests_sameCtxs f.pieces f.src.tags).curBecomes.modCur h _

end

@[simp] theorem asksFar_stored (s : State) (a : Access) : (s.asksFar a).stored = s.stored := by simp [asksFar]

end State

/-- The waiting of a bundle for the far device, whatever its access is: `lands` is what the access comes to once the far device
has allowed it. -/
theorem farWait_of_farRead {s : State} {op : Instr} {ps : List Piece} {free : Prop} {lands : FarRead → State → Prop}
    {a : Access} {pends : List Pend} {lat : Nat} (h : s.InHand) (hpieces : a.pieces = State.cutPieces ps) (hid : a.id = s.seq)
    (hexec : exec op s = .next (s.numbered.farRead a pends lat))
    (hland : ∀ g, s.cur.far = [g] → free → CurBecomes s.numbered (s.numbered.dropFar g) { s.cur with far := [] } → ∃ k,
      CurBecomes s (s.numbered.farLands a pends lat g) k ∧ (s.numbered.farLands a pends lat g).stored = s.stored ∧
      k.out = s.cur.out ∧ k.far = [] ∧ k.regs = s.cur.regs ∧ k.sys = s.cur.sys ∧
      lands g (s.numbered.farLands a pends lat g)) :
    FarWait s op ps free lands := by
  have hnum := s.numbered_sameCtxs
  have hbase := hnum.curBecomes
  have hin := hnum.inHand h
  have hstall := hbase.outcome h .stalled
  constructor
  · intro hfar hacc
    have hrun := State.farRead_of_none (s := s.numbered) (by rw [hnum.cur]; exact hfar) a pends lat
    obtain ⟨ts, hask⟩ := State.asksFar_becomes hin a
    have hasked := (hbase.trans hask).outcome h .stalled
    by_cases hq : !s.numbered.asksFirst a ∧ (!State.inOrder s.numbered.cur a ∨
        a.pieces.any (s.numbered.pieceWaitsAt a.id) ∨ a.pieces.any (s.numbered.portTaken s.numbered.curSess))
    · refine ⟨_, hexec.trans (congrArg _ (hrun.trans (if_pos hq))), by rw [hstall.cur], by rw [hstall.cur],
        by rw [hstall.cur]; exact hacc, hstall.sameRegs rfl rfl, sameBytes_of_stored (by simp), fun hwait hport => ?_⟩
      rcases hq.2 with hord | hw | hp
      · rw [State.inOrder, hnum.cur, hacc] at hord
        exact nomatch hord
      · rw [hpieces, hid] at hw
        exact absurd hw (by rw [Bool.not_eq_true]; exact hwait)
      · rw [hpieces] at hp
        exact absurd hp (by rw [Bool.not_eq_true]; exact hport)
    · refine ⟨_, hexec.trans (congrArg _ (hrun.trans (if_neg hq))), by rw [hasked.cur], by rw [hasked.cur, hnum.cur],
        by rw [hasked.cur, hnum.cur]; exact hacc, hasked.sameRegs (by rw [hnum.cur]) (by rw [hnum.cur]),
        sameBytes_of_stored (by simp), fun _ _ => ⟨_, by rw [hasked.cur, hnum.cur, hfar]; rfl, rfl, hpieces, rfl⟩⟩
  · intro g hfar hslot
    have hrun := State.farRead_of_asked (s := s.numbered) (by rw [hnum.cur]; exact hfar) hslot a pends lat
    have hdrop := State.dropFar_becomes hin (f := g) (by rw [hnum.cur]; exact hfar)
    rw [hnum.cur] at hdrop
    rw [hpieces] at hrun
    refine ⟨fun hkey => ?_, fun hkey hans => ?_, fun hkey hans => ⟨fun va href hpend hacc htvec hhnd => ?_, fun href hfree => ?_⟩⟩
    · have hz := (hbase.trans hdrop).outcome h .stalled
      exact ⟨_, hexec.trans (congrArg _ (hrun.trans (if_pos hkey))), by rw [hz.cur], by rw [hz.cur], by rw [hz.cur],
        hz.sameRegs rfl rfl, sameBytes_of_stored (by simp)⟩
    · have hno : (!s.numbered.answered g.pieces g.src.tags) = true := congrArg (! ·) hans
      exact ⟨_, hexec.trans (congrArg _ (hrun.trans ((if_neg (not_not.2 hkey)).trans (if_pos hno)))), by rw [hstall.cur],
        by rw [hstall.cur], by rw [hstall.cur]; exact hfar, hstall.sameRegs rfl rfl, sameBytes_of_stored (by simp)⟩
    · have hyes : ¬ (!s.numbered.answered g.pieces g.src.tags) = true := by
        rw [show s.numbered.answered g.pieces g.src.tags = true from hans]
        exact Bool.false_ne_true
      have href' : s.numbered.refusedAt g.pieces g.src.tags = some va := href
      have hcur := (hbase.trans hdrop).cur
      have ht := State.trapWith_enters (hdrop.inHand hin) 0x07 0 va (by rw [hcur]; exact hacc) (by rw [hcur]; exact hpend)
        (by rw [hcur]; exact htvec) (by rw [hcur]; exact hhnd)
      rw [hcur] at ht
      rw [if_neg (not_not.2 hkey), if_neg hyes, href'] at hrun
      exact ⟨_, hexec.trans (congrArg _ hrun), ht.1, ht.2.1, ht.2.2.1, ht.2.2.2, sameBytes_of_stored (by simp)⟩
    · have hyes : ¬ (!s.numbered.answered g.pieces g.src.tags) = true := by
        rw [show s.numbered.answered g.pieces g.src.tags = true from hans]
        exact Bool.false_ne_true
      have href' : s.numbered.refusedAt g.pieces g.src.tags = none := href
      rw [if_neg (not_not.2 hkey), if_neg hyes, href'] at hrun
      obtain ⟨k, hk, hst, hout, hgone, hregs, hsys, hl⟩ := hland g hfar hfree hdrop
      exact ⟨_, hexec.trans (congrArg _ hrun), by rw [hk.cur]; exact hout, by rw [hk.cur]; exact hgone, hl,
        hk.sameRegs hregs hsys, sameBytes_of_stored hst⟩

end Sys2Proof.Machine
end

section
/-! PROOFS. Gathers and scatters (20 R417, R418, 04 R85, R94, R99): O21. -/

namespace Sys2Proof.Machine

/-! ## A load of peer memory lands with its bundle (04 R94, R99) -/

theorem State.farLands_load {s : State} {a : Access} {g : FarRead} (h : s.InHand) (hact : a.act = .load)
    (hfirst : ∀ b ∈ s.cur.accesses, b.bundle ≠ s.cur.issue) (hwait : a.pieces.any (s.pieceWaitsAt a.id) = false)
    (hport : a.pieces.any (s.portTaken s.curSess) = false) (herr : s.errors = [])
    (hdrop : CurBecomes s (s.dropFar g) { s.cur with far := [] }) (pends : List Pend) (lat : Nat) :
    let ps := pends.map fun p => { p with
      data := valueOf a.size a.sext (ofBytes (s.gather (spanOf a.pieces) a.pieces g.src.tags)) p, due := s.dueIn lat }
    s.farLands a pends lat g = (((s.dropFar g).claimArrays s.curSess a.pieces).heatOf s.curSess a.pieces).awaiting ps := by
  have hnot : s.asksFirst a = false := by
    simp only [asksFirst, hact, Bool.false_or, List.any_eq_false, Bool.and_eq_true, beq_iff_eq]
    exact fun b hb hand => hfirst b hb hand.1
  have hgo : ¬ (a.pieces.any (s.pieceWaitsAt a.id) = true ∨ a.pieces.any (s.portTaken s.curSess) = true) := by
    simp [hwait, hport]
  have hclaim := hdrop.trans ((claimArrays_sameCtxs _ s.curSess a.pieces).trans (heatOf_sameCtxs _ s.curSess a.pieces)).curBecomes
  have hcur := hdrop.cur
  rw [hcur] at hclaim
  have hin := hclaim.inHand h
  simp only [farLands, hnot, Bool.false_eq_true, if_false, if_neg hgo, takeBytes_of_no_errors herr]
  rw [foldl_push hin (f := fun t p => { p with
    data := valueOf a.size a.sext (ofBytes (s.gather (spanOf a.pieces) a.pieces g.src.tags)) p, due := t.dueIn lat })
    fun l p => by rw [dueIn_awaiting hin]]
  simp only [hclaim.dueIn rfl rfl]

/-- A load of peer memory that is issued in a scoreboard region waits with its bundle for the far device. -/
theorem farReads_of_issue {s : State} {f : Form} {turn : Bool} {a : Access} (h : s.InHand) (hact : a.act = .load)
    (hsize : a.size = f.size) (hsext : a.sext = f.sext) (hflags : ∀ p ∈ f.pends, p.flags = 0) (hfix : s.cur.fixed = false)
    (hexec : ∀ ps, Passes s .read turn f.parts ps → exec f.op s = .next (s.issueOk a .read ps f.pends f.lat)) :
    FarReads s f turn := by
  intro ps hpass hpeer
  have hrun := (hexec ps hpass).trans (congrArg _ (State.issueOk_far (a := a) (pends := f.pends) (lat := f.lat) rfl hfix hpeer))
  have hnum := s.numbered_sameCtxs
  have hin := hnum.inHand h
  refine farWait_of_farRead h rfl rfl hrun fun g hfar hfree hdrop => ?_
  obtain ⟨hfirst, hwait, hport, herr⟩ := hfree
  have hdrop' : CurBecomes s.numbered (s.numbered.dropFar g) { s.numbered.cur with far := [] } := by
    rw [hnum.cur]
    exact hdrop
  have hland := State.farLands_load (a := s.issued a ps f.lat) hin hact (by rw [hnum.cur]; exact hfirst) hwait hport herr hdrop'
    f.pends f.lat
  have hk := ((hnum.curBecomes.trans hdrop).trans ((State.claimArrays_sameCtxs _ s.numbered.curSess (State.cutPieces ps)).trans
    (State.heatOf_sameCtxs _ s.numbered.curSess (State.cutPieces ps))).curBecomes)
  have hcur := hdrop.cur
  rw [hcur] at hk
  have hz := hk.awaiting h rfl (f.pends.map fun p => { p with
    data := State.valueOf f.size f.sext (ofBytes (s.gather (State.spanOf (State.cutPieces ps)) (State.cutPieces ps) g.src.tags)) p
    due := s.dueIn f.lat })
  dsimp only at hland
  rw [hnum.dueIn, show (s.issued a ps f.lat).size = f.size from hsize, show (s.issued a ps f.lat).sext = f.sext from hsext] at hland
  rw [hland]
  refine ⟨_, hz, by simp, rfl, rfl, rfl, rfl, (congrArg Ctx.accesses hz.cur).trans rfl, ?_⟩
  refine (congrArg Ctx.pend hz.cur).trans (congrArg (s.cur.pend ++ ·) ?_)
  rw [List.map_map]
  refine List.map_congr_left fun p hp => ?_
  simp only [Function.comp, ← hflags p hp]

/-! ## The elements of a gather or a scatter (20 R417) -/

section
variable {s : State} {a : Access} {els : List (DWord × List Part)} {n : Nat} {pends : List Pend} {lat : Nat}

theorem State.elements_beyond (h : s.cur.fixed = true ∧ leavesOwn s (els.flatMap (·.2))) :
    s.elements a .read els n pends lat = s.trapWith 0x04 3 0 := if_pos ⟨rfl, beyondOwn_iff.2 h⟩

/-- The elements before the first misaligned one are checked. -/
theorem State.elements_checked {why : Purpose} (hown : why = .read → ¬ (s.cur.fixed = true ∧ leavesOwn s (els.flatMap (·.2))))
    {l r : List (DWord × List Part)} (hels : els = l ++ r) (hl : ∀ e ∈ l, e.1.toNat % n = 0)
    (hr : ∀ e, r.head? = some e → e.1.toNat % n ≠ 0) :
    s.elements a why els n pends lat =
      s.checkAccessParts a why (why == .write) true (l.flatMap (·.2)) (r.head?.map (·.1)) pends lat := by
  have hgo : ¬ (why = .read ∧ s.beyondOwn (els.flatMap (·.2)) = true) := fun hno => hown hno.1 (beyondOwn_iff.1 hno.2)
  have htake : els.takeWhile (fun e => e.1.toNat % n == 0) = l := by
    rw [hels, List.takeWhile_append_of_pos (by simpa using hl)]
    cases r with
    | nil => rw [List.takeWhile_nil, List.append_nil]
    | cons e r => rw [List.takeWhile_cons_of_neg (by simpa using hr e rfl), List.append_nil]
  have hfind : els.find? (fun e => e.1.toNat % n != 0) = r.head? := by
    rw [hels, List.find?_append, List.find?_eq_none.2 (by simpa using hl), Option.none_or]
    cases r with
    | nil => rfl
    | cons e r => exact List.find?_cons_of_pos (by simpa using hr e rfl)
  refine (if_neg hgo).trans ?_
  rw [htake, hfind]

theorem State.elements_issues {why : Purpose} (hwhy : why = .read ∨ why = .write)
    (hown : why = .read → ¬ (s.cur.fixed = true ∧ leavesOwn s (els.flatMap (·.2)))) (hels : ∀ e ∈ els, e.1.toNat % n = 0)
    {ps : List Piece} (hp : Passes s why true (els.flatMap (·.2)) ps)
    (hsw : s.cur.fixed = true → why = .read → ps.any s.switching = false) :
    s.elements a why els n pends lat = s.issueOk a why ps pends lat := by
  rw [State.elements_checked hown (List.append_nil els).symm hels (fun e he => nomatch he)]
  refine State.checkAccessParts_passes ?_ hsw
  rcases hwhy with rfl | rfl <;> exact hp

end

/-- The instruction is a gather or scatter of the elements `els`, of `n` bytes each. -/
def IsElements (i : Instr) (s : State) (reads : Bool) (a : Access) (els : List (DWord × List Part)) (n : Nat) (pends : List Pend)
    (lat : Nat) : Prop :=
  exec i s = .next (s.elements a (if reads then .read else .write) els n pends lat)

section
variable {i : Instr} {s : State} {reads : Bool} {a : Access} {els : List (DWord × List Part)} {n : Nat} {pends : List Pend}
  {lat : Nat} (hi : IsElements i s reads a els n pends lat)
include hi

theorem IsElements.leaves (h : reads = true ∧ s.cur.fixed = true ∧ leavesOwn s (els.flatMap (·.2))) :
    exec i s = .next (s.trapWith 0x04 3 0) := by
  obtain ⟨rfl, h⟩ := h
  exact hi.trans (congrArg _ (State.elements_beyond h))

variable (hown : ¬ (reads = true ∧ s.cur.fixed = true ∧ leavesOwn s (els.flatMap (·.2))))
include hown

/-- Of a read, no element leaves the own slice in a fixed region. -/
theorem IsElements.stays : (if reads then Purpose.read else .write) = .read →
    ¬ (s.cur.fixed = true ∧ leavesOwn s (els.flatMap (·.2))) := by
  cases reads with
  | true => exact fun _ h => hown ⟨rfl, h⟩
  | false => exact fun h => nomatch h

theorem IsElements.issues (h : s.InHand) (hels : ∀ e ∈ els, e.1.toNat % n = 0) {ps : List Piece}
    (hp : Passes s (if reads then .read else .write) true (els.flatMap (·.2)) ps)
    (hnow : reads = true → s.cur.fixed = false ∧ ps.any State.isPeer = false) :
    Issues i s { a with own := ps.any (State.ownPiece s.curCore), pieces := State.cutPieces ps, landAt := s.now + lat } pends := by
  have hread : (if reads then Purpose.read else .write) = .read → reads = true := by cases reads <;> simp
  refine State.issues_of_issueOk h (hi.trans (congrArg _ (State.elements_issues ?_ (hi.stays hown) hels hp ?_)))
    fun hr => hnow (hread hr)
  · cases reads <;> simp
  · intro hfix hr
    rw [(hnow (hread hr)).1] at hfix
    exact nomatch hfix

/-- What the checks of the elements before the first misaligned one come to. -/
theorem IsElements.refusals {l r : List (DWord × List Part)} (hels : els = l ++ r) (hl : ∀ e ∈ l, e.1.toNat % n = 0)
    (hr : ∀ e, r.head? = some e → e.1.toNat % n ≠ 0) :
    let k := s.checkParts (if reads then .read else .write) true (l.flatMap (·.2))
    (∀ x, k.2.2 = some x → exec i s = .next (s.trapWith x.code 0 x.eva)) ∧
    (k.2.2 = none → ∀ e, r.head? = some e → exec i s = .next (s.trapWith 0x0C 0 e.1)) ∧
    (k.2.2 = none → r = [] → reads = false → s.granuleHold k.1 = true → exec i s = .next (s.outcome .held)) ∧
    (k.2.2 = none → r = [] → reads = true → s.cur.fixed = true → k.1.any s.switching = true →
      exec i s = .next (s.outcome .held)) := by
  intro k
  have hrun := hi.trans (congrArg _ (State.elements_checked (hi.stays hown) hels hl hr))
  have hk : s.checkParts (if ((if reads then Purpose.read else .write) == .write) then .write else .read) true
      (l.flatMap (·.2)) = k := by cases reads <;> rfl
  refine ⟨fun x hx => ?_, fun hx e he => ?_, fun hx hnil hw hg => ?_, fun hx hnil hread hfix hsw => ?_⟩
  · exact hrun.trans (congrArg _ (State.checkAccessParts_denied _ (by rw [hk]; exact hx)))
  · rw [he] at hrun
    exact hrun.trans (congrArg _ (State.checkAccessParts_misaligned _ (by rw [hk]; exact hx)))
  · subst hnil hw
    exact hrun.trans (congrArg _ (State.checkAccessParts_held hx (.inl ⟨rfl, hg⟩)))
  · subst hnil hread
    exact hrun.trans (congrArg _ (State.checkAccessParts_held hx (.inr ⟨hfix, .inr ⟨rfl, hsw⟩⟩)))

end

/-- A gather whose elements are all aligned takes its bytes at once in a fixed region, and waits for peer memory elsewhere. -/
theorem gather_reads {s : State} {f : Form} {a : Access} {els : List (DWord × List Part)} {n : Nat} (h : s.InHand)
    (hi : IsElements f.op s true a els n f.pends f.lat) (hact : a.act = .load) (hsize : a.size = f.size) (hsext : a.sext = f.sext)
    (hflags : ∀ p ∈ f.pends, p.flags = 0) (hels : ∀ e ∈ els, e.1.toNat % n = 0) (hparts : f.parts = els.flatMap (·.2)) :
    (s.cur.fixed = true → OwnRead s f true) ∧ (s.cur.fixed = false → FarReads s f true) := by
  refine ⟨fun hfix => ?_, fun hfix => ?_⟩
  · refine ownRead_of_issue h hact hsize hsext hfix fun hown ps hp hsw => hi.trans (congrArg _ ?_)
    rw [hparts] at hown hp
    exact State.elements_issues (.inl rfl) (fun _ hl => hown hl.2) hels hp fun _ _ => hsw
  · refine farReads_of_issue h hact hsize hsext hflags hfix fun ps hp => hi.trans (congrArg _ ?_)
    rw [hparts] at hp
    exact State.elements_issues (.inl rfl) (fun _ hl => by simp [hfix] at hl) hels hp fun hf => by simp [hfix] at hf

/-- The access, the results and the latency of a gather, and those of a scatter. -/
def elemUse (s : State) (c : BitVec 4) (q : BitVec 3) (d : BitVec 6) : Bool → Access × List Pend × Nat
  | true => ({ id := 0, cls := c, act := .load }, [{ dest := .line d.toNat, mask := s.cur.rq q, byLane := true }], 12)
  | false => ({ id := 0, cls := c, act := .store, data := (s.cur.rv d).setWidth 32768 }, [], 0)

/-- Settles O21: a gather or scatter is one access of the parts of its elements. -/
theorem gatherScatterForms : Obligations.GatherScatterForms := by
  intro s c q d a b h
  have hgather (f : Form) (hf : f ∈ gatherForms s c q d a b) :
      (s.cur.fixed = true → OwnRead s f true) ∧ (s.cur.fixed = false → FarReads s f true) := by
    obtain ⟨hmem, hels⟩ := List.mem_filter.1 hf
    simp only [List.all_eq_true, beq_iff_eq] at hels
    have hone (p : Pend) (hp : p ∈ [({ dest := .line d.toNat, mask := s.cur.rq q, byLane := true } : Pend)]) : p.flags = 0 := by
      rw [List.mem_singleton.1 hp]
    rcases List.mem_pair.1 hmem with rfl | rfl
    · exact gather_reads (a := { id := 0, cls := c, act := .load }) h rfl rfl rfl rfl hone hels rfl
    · exact gather_reads (a := { id := 0, cls := c, act := .load }) h rfl rfl rfl rfl hone hels rfl
  refine ⟨hgather, fun f hf => ?_⟩
  have hi : IsElements f.1 s f.2.1 (elemUse s c q d f.2.1).1 (s.elemParts q b a f.2.2) f.2.2 (elemUse s c q d f.2.1).2.1
      (elemUse s c q d f.2.1).2.2 := by
    simp only [List.mem_cons, List.not_mem_nil, or_false] at hf
    rcases hf with rfl | rfl | rfl | rfl <;> rfl
  obtain ⟨i, reads, n⟩ := f
  refine ⟨hi.leaves, fun hown hels ps hp => ⟨?_, ?_⟩, fun hown l r he hl hr => hi.refusals hown he hl hr⟩
  · rintro rfl hfix hpeer
    exact hi.issues hown h hels hp fun _ => ⟨hfix, hpeer⟩
  · rintro rfl
    exact hi.issues hown h hels hp fun hr => nomatch hr

end Sys2Proof.Machine
end

section
/-! PROOFS. Atomics (20 R419, 08 R193, R197, R204, 04 R85): O22. -/

namespace Sys2Proof.Machine

/-! ## A number in memory -/

theorem getElem?_toBytes {n k : Nat} (x : Nat) (h : k < n) : (toBytes n x)[k]? = some (BitVec.ofNat 8 (x / 2 ^ (8 * k))) := by
  induction n generalizing k x with
  | zero => omega
  | succ n ih =>
    cases k with
    | zero => simp [toBytes]
    | succ k =>
      rw [toBytes, List.getElem?_cons_succ, ih _ (by omega), Nat.div_div_eq_div_mul, show 8 * (k + 1) = 8 + 8 * k by omega,
        Nat.pow_add]

/-- A number written to memory stands there byte by byte, and no other byte changes. -/
theorem State.byteAt_of_write_toBytes {s t : State} (hs : MemOk s) {a n x : Nat}
    (ht : t.stored = (s.write a (toBytes n x)).stored) :
    (∀ k, k < n → t.byteAt (a + k) = BitVec.ofNat 8 (x / 2 ^ (8 * k))) ∧
    ∀ k, k < a ∨ a + n ≤ k → t.byteAt k = s.byteAt k := by
  refine ⟨fun k hk => ?_, fun k hk => ?_⟩ <;> rw [sameBytes_of_stored ht, Laws.Memory.write_get hs.1, length_toBytes]
  · rw [if_pos (by omega), Nat.add_sub_cancel_left, getElem?_toBytes x hk]
    rfl
  · rw [if_neg (by omega)]

namespace State

/-! ## What an atomic does to its home -/

theorem atomicHere_of_no_errors {s : State} (herr : s.errors = []) (sess : Nat) (p : Piece) (h : Nat) (op : BitVec 3) (sz : Bool)
    (v y : DWord) : s.atomicHere sess p h op sz v y =
      let w := atomNew op sz (s.readNat h p.len) v.toNat y.toNat
      (s.readNat h p.len, w.2, s.write h (toBytes p.len w.1)) := by
  simp [atomicHere, meetPieces, herr]

/-- A fixed-region atomic acts at its issue where nothing of the context is outstanding (08 R197). -/
theorem fixedRead_atomic {s : State} {a : Access} {op : BitVec 3} {sz : Bool} {v y : DWord} {pc : Piece} {h : Nat} (hin : s.InHand)
    (hact : a.act = .atomic op sz v y) (hps : a.pieces = [pc]) (hhome : pc.home = .here h) (hacc : s.cur.accesses = [])
    (herr : s.errors = []) (pends : List Pend) (lat : Nat) :
    let w := atomNew op sz (s.readNat h pc.len) v.toNat y.toNat
    s.fixedRead a pends lat =
      (((s.write h (toBytes pc.len w.1)).claimArrays s.curSess [pc]).heatOf s.curSess [pc]).awaiting (pends.map fun p =>
        { p with data := (atomOld op sz (s.readNat h pc.len)).setWidth 2048, due := s.dueIn lat, flags := w.2 }) := by
  intro w
  have hkeep := ((s.write_sameCtxs h (toBytes pc.len w.1)).trans (claimArrays_sameCtxs _ s.curSess [pc])).trans
    (heatOf_sameCtxs _ s.curSess [pc])
  have hin' := hkeep.inHand hin
  have hord : inOrder s.cur a = true := by rw [inOrder, hacc]; rfl
  simp only [fixedRead, hact, hps, List.head?_cons, performEarlier_of_none hacc, hord, hhome, atomicHere_of_no_errors herr]
  refine (foldl_push hin' (f := fun t p => { p with
    data := (atomOld op sz (s.readNat h pc.len)).setWidth 2048, due := t.dueIn lat, flags := w.2 })
    (fun l p => by rw [dueIn_awaiting hin']) pends).trans ?_
  simp only [hkeep.dueIn]

/-- The far device has allowed an atomic of peer memory: it takes its place among the accesses of the context (04 R99). -/
theorem farLands_atomic {s : State} {a : Access} {g : FarRead} {op : BitVec 3} {sz : Bool} {v y : DWord} (hin : s.InHand)
    (hact : a.act = .atomic op sz v y) (hdrop : CurBecomes s (s.dropFar g) { s.cur with far := [] }) (pends : List Pend)
    (lat : Nat) : s.farLands a pends lat g =
      ((s.dropFar g).awaiting (pends.map fun p => { p with due := .access a.id })).modCur
        fun c => { c with accesses := c.accesses ++ [a] } := by
  have hfirst : s.asksFirst a = true := by simp only [asksFirst, hact, Bool.true_or]
  rw [farLands, if_pos hfirst, foldl_push (hdrop.inHand hin) (f := fun _ p => { p with due := .access a.id }) fun _ _ => rfl]

/-! ## The issue of an access (20 R412, R418) -/

section
variable {s : State} {a : Access} {why : Purpose} {w : Bool} {p : DWord} {n : Nat} {l : List Part} {pends : List Pend} {lat : Nat}

theorem issueAccess_beyond (hread : why = .read) (h : s.cur.fixed = true ∧ leavesOwn s l) :
    s.issueAccess a why w p n l pends lat = s.trapWith 0x04 3 0 := if_pos ⟨hread, beyondOwn_iff.2 h⟩

variable (hown : ¬ (s.cur.fixed = true ∧ leavesOwn s l))
include hown

theorem issueAccess_misaligned (hl : l ≠ []) (hp : p.toNat % n ≠ 0) :
    s.issueAccess a why w p n l pends lat = s.trapWith 0x0C 0 p :=
  (if_neg fun h => hown (beyondOwn_iff.1 h.2)).trans (if_pos ⟨hl, hp⟩)

theorem issueAccess_aligned (hp : p.toNat % n = 0) :
    s.issueAccess a why w p n l pends lat = s.checkAccessParts a why w false l none pends lat :=
  (if_neg fun h => hown (beyondOwn_iff.1 h.2)).trans (if_neg fun h => h.2 hp)

end

/-! ## An access performs (08 R193) -/

/-- Access `a` has performed: its results take their values, and it leaves the queue of its context. -/
def retires (s : State) (sess c x : Nat) (a : Access) (fl : BitVec 5) (val : Pend → Line) : State :=
  (((s.modCtx c x fun t => fill t a.id (max a.landAt s.now) fl val).claimArrays sess a.pieces).heatOf sess a.pieces).finish
    c x a.id []

@[simp] theorem retires_stored (s : State) (sess c x : Nat) (a : Access) (fl : BitVec 5) (val : Pend → Line) :
    (s.retires sess c x a fl val).stored = s.stored := by simp [retires]

theorem ctx_retires {c x : Nat} (hc : c < 128) (hx : x < 4) {s t : State} (ht : SameCtxs s t) (sess : Nat) (a : Access)
    (fl : BitVec 5) (val : Pend → Line) :
    let z := (t.retires sess c x a fl val).ctx c x
    let at_ := max a.landAt s.now
    z.accesses = (s.ctx c x).accesses.filter (·.id != a.id) ∧ z.regs = (s.ctx c x).regs ∧
    z.pend = (s.ctx c x).pend.map fun p =>
      if p.due = .access a.id then { p with data := val p, due := .cycle at_, wall := at_, flags := fl } else p := by
  dsimp only
  rw [retires, finish, ctx_modCtx hc hx, (heatOf_sameCtxs ..).ctx, (claimArrays_sameCtxs ..).ctx, ctx_modCtx hc hx, ht.ctx, ht.now]
  exact ⟨rfl, rfl, rfl⟩

/-- The session that an access of a context performs for. -/
def ctxSess (s : State) (c x : Nat) : Nat := (((s.ctx c x).strand.bind s.strand?).map (·.sess)).getD 0

section
variable {s : State} {c x : Nat} {a : Access} {op : BitVec 3} {sz : Bool} {v y : DWord} {pc : Piece}
  (hfind : (s.ctx c x).accesses.find? (·.id == a.id) = some a) (hposted : a.posted = false)
  (hord : inOrder (s.ctx c x) a = true) (hwait : a.pieces.any (s.pieceWaitsAt a.id) = false)
  (hport : a.pieces.any (s.portTaken (s.ctxSess c x)) = false) (hclaim : s.claimedAway (s.ctxSess c x) a.pieces = none)
  (hact : a.act = .atomic op sz v y) (hps : a.pieces = [pc])
include hfind hposted hord hwait hport hclaim hact hps

theorem perform_atomic_here {h : Nat} (hasked : a.src.asked = false) (hhome : pc.home = .here h) (herr : s.errors = []) :
    let w := atomNew op sz (s.readNat h pc.len) v.toNat y.toNat
    s.perform c x a.id = (s.write h (toBytes pc.len w.1)).retires (s.ctxSess c x) c x a w.2
      fun _ => (atomOld op sz (s.readNat h pc.len)).setWidth 2048 := by
  have hgo : ¬ (a.posted = true ∨ ¬ inOrder (s.ctx c x) a = true ∨ a.pieces.any (s.pieceWaitsAt a.id) = true ∨
      a.pieces.any (s.portTaken (s.ctxSess c x)) = true) := by simp [hposted, hord, hwait, hport]
  simp only [ctxSess] at hgo hclaim
  simp only [perform, hfind, if_neg hgo, hasked, hclaim, hact]
  simp only [hps, List.head?_cons, hhome, atomicHere_of_no_errors herr, retires]
  rfl

theorem perform_atomic_far {l h : Nat} {b : List Byte} {old : DWord} (hasked : a.src.asked = true) (hhome : pc.home = .peer l h)
    (hans : s.answered a.pieces a.src.tags = true) (href : s.refusedAt a.pieces a.src.tags = none)
    (hreply : s.replyOf pc ((a.src.tags.head?).join) = some (0, b, old)) :
    s.perform c x a.id = (s.dropRequests a.pieces a.src.tags).retires (s.ctxSess c x) c x a
      (atomNew op sz old.toNat v.toNat y.toNat).2 fun _ => (atomOld op sz old.toNat).setWidth 2048 := by
  have hgo : ¬ (a.posted = true ∨ ¬ inOrder (s.ctx c x) a = true ∨ a.pieces.any (s.pieceWaitsAt a.id) = true ∨
      a.pieces.any (s.portTaken (s.ctxSess c x)) = true) := by simp [hposted, hord, hwait, hport]
  simp only [ctxSess] at hgo hclaim
  simp only [perform, hfind, if_neg hgo, hasked, hans, href, hclaim, hact]
  simp only [hps, List.head?_cons, hhome, hreply, retires]
  rfl

end

/-! ## Pieces of peer memory (04 R88, 08 R210, 13 R282) -/

section
variable {pc : Piece} {l h : Nat} (hhome : pc.home = .peer l h)
include hhome

theorem pieceMacro_peer : pieceMacro pc = none := by simp only [pieceMacro, hhome]

theorem pieceWaitsAt_peer (hmig : pc.mig = false) (s : State) (n : Nat) : s.pieceWaitsAt n pc = false := by
  have hbank (ch bank : Nat) : pieceInBank ch bank pc = false := by simp only [pieceInBank, hhome]
  have hbusy : s.bankBusy pc = false := by
    refine List.any_eq_false.2 fun u _ => ?_
    simp only [hbank]
    cases u.rowOp <;> cases u.guaranteed <;> simp
  simp [pieceWaitsAt, switchingAt, pieceMacro_peer hhome, hmig, hbusy]

theorem portTaken_peer (s : State) (sess : Nat) : s.portTaken sess pc = false := by simp only [portTaken, pieceMacro_peer hhome]

theorem claimedAway_peer (s : State) (sess : Nat) : s.claimedAway sess [pc] = none := by
  simp [claimedAway, foreignPiece, pieceMacro_peer hhome]

end

end State

end Sys2Proof.Machine
end

section
/-! PROOFS. The forms of the atomics, and O22 as a whole (20 R419, 08 R193, R197, R204, 04 R85). -/

namespace Sys2Proof.Machine

/-! ## The issue of an atomic -/

/-- The access of an atomic. -/
def atomicUse (s : State) (op : BitVec 3) (c : BitVec 4) (d x : BitVec 6) (z : BitVec 1) : Access :=
  { id := 0, cls := c, act := .atomic op (z == 1) (s.cur.rg x) (s.cur.rg d) }

theorem atomSize_eq (op : BitVec 3) (z : BitVec 1) : atomSize op (z == 1) = if op = 6 then 2 else if z = 1 then 8 else 4 := by
  simp [atomSize]

theorem exec_atomicForms {c : BitVec 4} {p : BitVec 2} {d b x : BitVec 6} {z : BitVec 1} {f : Instr × BitVec 3}
    (hf : f ∈ atomicForms c p d b x z) (s : State) :
    let n := if f.2 = 6 then 2 else if z = 1 then 8 else 4
    exec f.1 s = .next (s.issueAccess (atomicUse s f.2 c d x z) .read true (s.cur.rg b) n [(s.cur.rg b, 0, n)]
      [{ dest := .g d.toNat }] 10) := by
  intro n
  have hg : exec f.1 s = .next (s.atomicG f.2 c d b x z) := by
    simp only [atomicForms, List.mem_cons, List.not_mem_nil, or_false] at hf
    rcases hf with rfl | rfl | rfl | rfl | rfl | rfl | rfl <;> rfl
  rw [hg, State.atomicG, atomSize_eq]
  rfl

/-- The instruction is an atomic on `n` bytes at `p`, of access `a`, whose old value goes to register `d`. -/
def IsAtomic (i : Instr) (s : State) (a : Access) (p : DWord) (n d : Nat) : Prop :=
  exec i s = .next (s.issueAccess a .read true p n [(p, 0, n)] [{ dest := .g d }] 10)

section
variable {i : Instr} {s : State} {a : Access} {p : DWord} {n d : Nat} (hi : IsAtomic i s a p n d)
  (hown : ¬ (s.cur.fixed = true ∧ leavesOwn s [(p, 0, n)]))
include hi hown

theorem IsAtomic.misaligned (hp : p.toNat % n ≠ 0) : exec i s = .next (s.trapWith 0x0C 0 p) :=
  hi.trans (congrArg _ (State.issueAccess_misaligned hown (by simp) hp))

variable (hp : p.toNat % n = 0)
include hp

theorem IsAtomic.checked : exec i s = .next
    (s.checkAccessParts a .read true false [(p, 0, n)] none [{ dest := .g d }] 10) :=
  hi.trans (congrArg _ (State.issueAccess_aligned hown hp))

theorem IsAtomic.issueOk {ps : List Piece} (hpass : Passes s .write false [(p, 0, n)] ps)
    (hsw : s.cur.fixed = true → ps.any s.switching = false) :
    exec i s = .next (s.issueOk a .read ps [{ dest := .g d }] 10) :=
  (hi.checked hown hp).trans (congrArg _ (State.checkAccessParts_passes hpass fun hfix _ => hsw hfix))

/-- Peer memory: the bundle waits for the far device, and then the atomic is issued (04 R99, 08 R204). -/
theorem IsAtomic.far (h : s.InHand) {op : BitVec 3} {sz : Bool} {v y : DWord} (hact : a.act = .atomic op sz v y)
    {ps : List Piece} (hpass : Passes s .write false [(p, 0, n)] ps) (hfix : s.cur.fixed = false)
    (hpeer : ps.any State.isPeer = true) :
    FarWait s i ps True fun _ t => t.cur.accesses = s.cur.accesses ++ [s.issued a ps 10] ∧
      t.cur.pend = s.cur.pend ++ [{ dest := .g d, due := .access s.seq, order := s.slotOrder }] := by
  have hrun := (hi.issueOk hown hp hpass fun hf => by simp [hfix] at hf).trans
    (congrArg _ (State.issueOk_far (a := a) (lat := 10) rfl hfix hpeer))
  have hnum := s.numbered_sameCtxs
  have hin := hnum.inHand h
  refine farWait_of_farRead h rfl rfl hrun fun g _ _ hdrop => ?_
  have hdrop' : CurBecomes s.numbered (s.numbered.dropFar g) { s.numbered.cur with far := [] } := by
    rw [hnum.cur]
    exact hdrop
  rw [State.farLands_atomic (a := s.issued a ps 10) hin hact hdrop']
  have hz := ((hnum.curBecomes.trans hdrop).awaiting h rfl [{ dest := .g d, due := .access s.seq }]).modCur h
    fun c => { c with accesses := c.accesses ++ [s.issued a ps 10] }
  exact ⟨_, hz, by simp [State.dropFar], rfl, rfl, rfl, rfl, (congrArg Ctx.accesses hz.cur).trans rfl,
    (congrArg Ctx.pend hz.cur).trans rfl⟩

/-- A fixed region: the atomic acts at its issue, and its old value lands in ten cycles (08 R197). -/
theorem IsAtomic.fixed (h : s.InHand) {op : BitVec 3} {sz : Bool} {v y : DWord} (hact : a.act = .atomic op sz v y)
    {pc : Piece} {at_ : Nat} (hpass : Passes s .write false [(p, 0, n)] [pc]) (hfix : s.cur.fixed = true) (hmem : MemOk s)
    (hacc : s.cur.accesses = []) (hhome : pc.home = .here at_) (hlen : pc.len = n) (hreach : Reach s s.curSess [pc]) :
    let old := s.readNat at_ n
    let w := atomNew op sz old v.toNat y.toNat
    ∃ t, exec i s = .next t ∧ (∀ k, k < n → t.byteAt (at_ + k) = BitVec.ofNat 8 (w.1 / 2 ^ (8 * k))) ∧
      (∀ k, k < at_ ∨ at_ + n ≤ k → t.byteAt k = s.byteAt k) ∧ SameRegs s t ∧ t.cur.accesses = [] ∧
      t.cur.pend = s.cur.pend ++
        [{ dest := .g d, data := (atomOld op sz old).setWidth 2048, due := s.dueIn 10, wall := s.wallOf (s.dueIn 10),
           order := s.slotOrder, flags := w.2 }] := by
  subst hlen
  intro old w
  have hnum := s.numbered_sameCtxs
  have hrun := (hi.issueOk hown hp hpass fun _ => hreach.switching).trans
    (congrArg _ ((State.issueOk_fixed (a := a) (lat := 10) rfl hfix).trans
      (State.fixedRead_atomic (a := s.issued a [pc] 10) (hnum.inHand h) hact
        (State.cutPieces_of_home fun q hq => ⟨at_, by rw [List.mem_singleton.1 hq, hhome]⟩) hhome (by rw [hnum.cur]; exact hacc)
        hreach.2.2 _ 10)))
  have hkeep := ((hnum.trans (s.numbered.write_sameCtxs at_ (toBytes pc.len w.1))).trans
    (State.claimArrays_sameCtxs _ s.numbered.curSess [pc])).trans (State.heatOf_sameCtxs _ s.numbered.curSess [pc])
  have hz := hkeep.curBecomes.awaiting h rfl
    [{ dest := .g d, data := (atomOld op sz old).setWidth 2048, due := s.dueIn 10, flags := w.2 }]
  rw [hnum.dueIn] at hrun
  obtain ⟨hbytes, hrest⟩ := State.byteAt_of_write_toBytes (s := s.numbered) hmem (a := at_) (n := pc.len) (x := w.1)
    (t := (((s.numbered.write at_ (toBytes pc.len w.1)).claimArrays s.numbered.curSess [pc]).heatOf s.numbered.curSess
      [pc]).awaiting [{ dest := .g d, data := (atomOld op sz old).setWidth 2048, due := s.dueIn 10, flags := w.2 }]) (by simp)
  exact ⟨_, hrun, hbytes, hrest, hz.sameRegs rfl rfl, (congrArg Ctx.accesses hz.cur).trans hacc,
    (congrArg Ctx.pend hz.cur).trans rfl⟩

end

/-! ## The values of an atomic (20 R419) -/

/-- What gd receives of an integer atomic is the old value, sign-extended. -/
theorem atomOld_integer {k : BitVec 3} (hk : k.toNat ≤ 4) (z : Bool) (old : Nat) :
    atomOld k z old = BitVec.ofInt 64 (signed (if z then 64 else 32) old) := by
  have hne : k ≠ 6 := by rintro rfl; simp at hk
  rw [atomOld, atomSize, if_neg hne, decide_eq_true hk]
  cases z <;> rfl

/-- What gd receives of a floating atomic is the old bits. -/
theorem atomOld_floating {k : BitVec 3} (hk : 4 < k.toNat) (z : Bool) {old : Nat} (h : old < 2 ^ (8 * atomSize k z)) :
    atomOld k z old = BitVec.ofNat 64 old := by
  rw [atomOld, decide_eq_false (by omega)]
  exact congrArg (BitVec.ofNat 64) (Nat.mod_eq_of_lt h)

theorem atomic_values (old x y : Nat) (z : Bool) :
    let w := if z then 64 else 32
    let u := x % 2 ^ w
    (old < 2 ^ w →
      atomNew 0 z old x y = ((old + u) % 2 ^ w, 0) ∧
      atomNew 1 z old x y = (if signed w u < signed w old then u else old, 0) ∧
      atomNew 2 z old x y = (if signed w old < signed w u then u else old, 0) ∧
      atomNew 3 z old x y = (u, 0) ∧ atomNew 4 z old x y = (if old = y % 2 ^ w then u else old, 0) ∧
      atomNew 5 z old x y =
        (let F := if z then f64F else f32F; (faddV .rne (F.decode old) (F.decode u)).put F .rne 0 false) ∧
      (∀ k : BitVec 3, k.toNat ≤ 4 → atomOld k z old = BitVec.ofInt 64 (signed w old)) ∧
      atomOld 5 z old = BitVec.ofNat 64 old) ∧
    (old < 2 ^ 16 →
      atomNew 6 z old x y =
        (let F := if z then bf16F else f16F; (faddV .rne (F.decode old) (F.decode (x % 2 ^ 16))).put F .rne 0 false) ∧
      atomOld 6 z old = BitVec.ofNat 64 old) := by
  intro w u
  refine ⟨fun h => ?_, fun h => ⟨by cases z <;> rfl, atomOld_floating (by decide) z h⟩⟩
  have hold : atomOld 5 z old = BitVec.ofNat 64 old := atomOld_floating (by decide) z (by cases z <;> exact h)
  refine ⟨?_, ?_, ?_, ?_, ?_, ?_, fun k hk => atomOld_integer hk z old, hold⟩ <;> cases z <;> rfl

theorem atomicForms_hold : AtomicForms := by
  refine ⟨fun s c p d b x z h f hf => ?_, atomic_values⟩
  intro n a leaves r
  have hi : IsAtomic f.1 s (atomicUse s f.2 c d x z) a n d.toNat := exec_atomicForms hf s
  refine ⟨fun hl => hi.trans (congrArg _ (State.issueAccess_beyond rfl hl)), fun hown => hi.misaligned hown,
    fun hown hp e he => ?_, fun hown hp hnone hheld => ?_, fun hown hp hnone hroom hfix hwait => ?_, fun hown hp ps hpass =>
      ⟨fun hfix hpeer => ?_, fun hfix hpeer => hi.far hown hp h rfl hpass hfix hpeer,
        fun hfix hmem hacc pc at_ hps hhome hlen _ hreach => ?_⟩⟩
  · exact (hi.checked hown hp).trans (congrArg _ (State.checkAccessParts_denied none he))
  · refine (hi.checked hown hp).trans (congrArg _ (State.checkAccessParts_held hnone ?_))
    exact hheld.imp (⟨rfl, ·⟩) (And.imp_right fun hq => hq.symm.imp_right (⟨rfl, ·⟩))
  · exact (hi.checked hown hp).trans (congrArg _ (State.checkAccessParts_stalled hnone hfix (fun _ => hroom) hwait))
  · exact State.issues_of_issueOk h (hi.issueOk hown hp hpass fun hf => by simp [hfix] at hf) fun _ => ⟨hfix, hpeer⟩
  · subst hps
    exact hi.fixed hown hp h rfl hpass hfix hmem hacc hhome hlen hreach

/-! ## The performing of an atomic -/

theorem atomicPerforms_hold : AtomicPerforms := by
  constructor
  · intro s c x id a op sz v y pc l h b old hc hx hcore hctx hn t hfind hid hposted hord hact hps hhome hmig hasked hans href
      hreply at_
    subst hid
    have hrun := State.perform_atomic_far hfind hposted hord
      (by simp [hps, State.pieceWaitsAt_peer hhome hmig]) (by simp [hps, State.portTaken_peer hhome])
      (by rw [hps, State.claimedAway_peer hhome]) hact hps hasked hhome hans href hreply
    have hexec : exec .accessPerform s = .next (s.perform c x a.id) := by rw [← hcore, ← hctx, ← hn]; rfl
    have hz := State.ctx_retires hc hx (s.dropRequests_sameCtxs a.pieces a.src.tags) (s.ctxSess c x) a
      (atomNew op sz old.toNat v.toNat y.toNat).2 fun _ => (atomOld op sz old.toNat).setWidth 2048
    exact ⟨_, hexec.trans (congrArg _ hrun), sameBytes_of_stored (by simp), hz⟩
  · intro s c x id a op sz v y h pc hperf hact hmem t n hps hhome hlen old r at_
    obtain ⟨hc, hx, hcore, hctx, hn, hfind, hid, hposted, hasked, hord, ⟨⟨hwait, hport, herr⟩, hclaim⟩, -⟩ := hperf
    subst hid
    have hrun := State.perform_atomic_here hfind hposted hord hwait hport hclaim hact hps hasked hhome herr
    have hexec : exec .accessPerform s = .next (s.perform c x a.id) := by rw [← hcore, ← hctx, ← hn]; rfl
    rw [hlen] at hrun
    have hz := State.ctx_retires hc hx (s.write_sameCtxs h (toBytes n r.1)) (s.ctxSess c x) a r.2
      fun _ => (atomOld op sz old).setWidth 2048
    obtain ⟨hbytes, hrest⟩ := State.byteAt_of_write_toBytes hmem (State.retires_stored (s.write h (toBytes n r.1))
      (s.ctxSess c x) c x a r.2 fun _ => (atomOld op sz old).setWidth 2048)
    exact ⟨_, hexec.trans (congrArg _ hrun), hbytes, hrest, hz⟩

/-- Settles O22: the issue of an atomic and its values, and its performing at home and of peer memory. -/
theorem atomics : Obligations.Atomics := ⟨atomicForms_hold, atomicPerforms_hold⟩

end Sys2Proof.Machine
end

section
/-! PROOFS. One context changes, as an event names it; halts, and the end of an interval without issue (05 R118, R125, R131). -/

namespace Sys2Proof.Machine

/-! ## The context that an event names -/

/-- Context `x` of core `c` is now `k`, and every other one is as before. -/
structure CtxBecomes (s z : State) (c x : Nat) (k : Ctx) : Prop where
  ctx : z.ctx c x = k
  others : ∀ d y, d ≠ c ∨ y ≠ x → z.ctx d y = s.ctx d y

theorem SameCtxs.becomes {s t : State} (h : SameCtxs s t) (c x : Nat) : CtxBecomes s t c x (s.ctx c x) :=
  ⟨h.ctx c x, fun d y _ => h.ctx d y⟩

theorem State.setCtx_becomes {c x : Nat} (hc : c < 128) (hx : x < 4) (s : State) (k : Ctx) :
    CtxBecomes s (s.setCtx c x k) c x k := by
  refine ⟨ctx_setCtx s c x k hc hx, fun d y hdy => ?_⟩
  by_cases hd : c = d
  · subst hd
    exact ctx_setCtx_ne _ _ _ _ _ fun hy => by simp [hy] at hdy
  · exact congrArg (fun q : Core => q.ctxs[y]?.getD {}) (core_setCtx_ne _ _ _ _ _ hd)

theorem State.modStrand_sameCtxs (s : State) (a : Nat) (f : Strand → Strand) : SameCtxs s (s.modStrand a f) :=
  ⟨fun _ _ => rfl, rfl, rfl, rfl, rfl⟩

/-- A switch back to a context that ran last counts cycles alone (05 R131). -/
theorem State.switchBack_sameCtxs (s z : State) (c x : Nat) : SameCtxs z (s.switchBack c x z) := by
  unfold switchBack
  split
  · exact modCore_sameCtxs _ _ fun _ => rfl
  · exact .refl z

@[simp] theorem State.switchBack_strands (s z : State) (c x : Nat) : (s.switchBack c x z).strands = z.strands := by
  unfold switchBack
  split <;> rfl

/-- No context has become issuable where nothing has changed. -/
theorem State.switchBack_self (s : State) (c x : Nat) : s.switchBack c x s = s := if_neg fun h => h.1 h.2.1

namespace CtxBecomes

variable {s t u : State} {c x : Nat} {k l : Ctx}

theorem trans (h : CtxBecomes s t c x k) (g : CtxBecomes t u c x l) : CtxBecomes s u c x l :=
  ⟨g.ctx, fun d y hdy => (g.others d y hdy).trans (h.others d y hdy)⟩

/-- What leaves the contexts alone may follow. -/
theorem then_same (h : CtxBecomes s t c x k) (g : SameCtxs t u) : CtxBecomes s u c x k :=
  ⟨(g.ctx c x).trans h.ctx, fun d y hdy => (g.ctx d y).trans (h.others d y hdy)⟩

theorem setCtx (h : CtxBecomes s t c x k) (hc : c < 128) (hx : x < 4) (l : Ctx) : CtxBecomes s (t.setCtx c x l) c x l :=
  h.trans (State.setCtx_becomes hc hx t l)

theorem modCtx (h : CtxBecomes s t c x k) (hc : c < 128) (hx : x < 4) (f : Ctx → Ctx) :
    CtxBecomes s (t.modCtx c x f) c x (f k) :=
  have hm := h.setCtx hc hx (f (t.ctx c x))
  ⟨hm.ctx.trans (congrArg f h.ctx), hm.others⟩

theorem switchBack (h : CtxBecomes s t c x k) : CtxBecomes s (s.switchBack c x t) c x k :=
  h.then_same (State.switchBack_sameCtxs ..)

theorem otherCtxs (h : CtxBecomes s t c x k) (hb : t.stored = s.stored) : OtherCtxs s t c x :=
  ⟨h.others, sameBytes_of_stored hb⟩

theorem sameRegs (h : CtxBecomes s t c x k) (hr : k.regs = (s.ctx c x).regs) (hy : k.sys = (s.ctx c x).sys) : SameRegs s t := by
  intro d y
  by_cases hdy : d = c ∧ y = x
  · obtain ⟨rfl, rfl⟩ := hdy
    rw [h.ctx]
    exact ⟨hr, hy⟩
  · rw [h.others d y (by tauto)]
    exact ⟨rfl, rfl⟩

end CtxBecomes

/-! ## A halt begins (05 R118, R125) -/

/-- A halt of a resident strand that has not issued EXIT. -/
theorem State.startHalt_halted {s : State} {c x a : Nat} (hc : c < 128) (hx : x < 4) (ha : (s.ctx c x).strand = some a)
    (he : (s.ctx c x).exits = false) (park : Bool) : Halted s (s.startHalt c x park) c x a park := by
  simp only [startHalt, ha, he, Bool.false_eq_true, if_false]
  generalize s.requests.filter _ = q
  have h := (((⟨fun _ _ => rfl, rfl, rfl, rfl, rfl⟩ : SameCtxs s { s with requests := q }).becomes c x).modCtx hc hx fun t =>
    { t with st := .draining, halt := some park, since := some s.now, far := [], holds := [] }).then_same
      (modStrand_sameCtxs _ a fun t => { t with st := .saving })
  refine ⟨?_, ?_, ?_, ?_, ?_, h.otherCtxs (by simp), rfl⟩
  all_goals exact (congrArg _ h.ctx).trans rfl

end Sys2Proof.Machine
end

section
/-! PROOFS. Strands begun, halted and ended, and crews (05 R118, R128, R129, 16 R349 to R354): O9. -/

namespace Sys2Proof.Machine

/-- A scalar slot whose predicate holds performs (06 R137). -/
theorem scalar_of_pred {s : State} {pn : BitVec 1} {pk : BitVec 3} (h : s.cur.pred pn pk = true) (f : State → State) :
    scalar pn pk s f = .next (f s) := by simp [scalar, h]

/-! ## YIELD and EXIT -/

theorem exits_addWait_exit (c : Ctx) : (c.addWait .exit).exits = true := by
  unfold Ctx.addWait
  split <;> simp [Ctx.exits]

theorem wait_addWait_of_none {c : Ctx} (h : c.wait = .none) (w : Wait) : (c.addWait w).wait = w := by simp [Ctx.addWait, h]

theorem addWait_regs (c : Ctx) (w : Wait) : (c.addWait w).regs = c.regs := by
  unfold Ctx.addWait
  split <;> rfl

theorem addWait_pend (c : Ctx) (w : Wait) : (c.addWait w).pend = c.pend := by
  unfold Ctx.addWait
  split <;> rfl

/-- YIELD halts its strand where a ready one of its core has at least its effective priority. -/
theorem exec_yield {s : State} {pn : BitVec 1} {pk : BitVec 3} {t : Strand} (hp : s.cur.pred pn pk = true)
    (ht : s.curStrand = some t) : exec (.yield pn pk) s = .next
      (if ∃ u ∈ s.strands, u.core = s.curCore ∧ u.st = .ready ∧ s.effective t ≤ s.effective u then
        s.startHalt s.curCore s.curCtx false else s) := by
  show execYield pn pk s = _
  rw [execYield, scalar_of_pred hp]
  simp [ht, and_assoc]

theorem exec_exit {s : State} {pn : BitVec 1} {pk : BitVec 3} (hp : s.cur.pred pn pk = true) : exec (.exit pn pk) s =
    .next ((s.modCur fun c => c.addWait .exit).modStrand s.curAge fun t => { t with ended := true }) := by
  show execExit pn pk s = _
  rw [execExit, scalar_of_pred hp]

theorem yieldAndExit_hold : YieldAndExit := by
  intro s pn pk t hin hp hage ht hexits rival
  refine ⟨fun h => ?_, fun h => ?_, ?_⟩
  · obtain ⟨hst, hhalt, hsince, -, hregs, ⟨-, hbytes⟩, hstrands⟩ := State.startHalt_halted hin.1 hin.2 hage hexits false
    have hcur : (s.startHalt s.curCore s.curCtx false).cur = (s.startHalt s.curCore s.curCtx false).ctx s.curCore s.curCtx := by
      rw [State.cur, (State.startHalt_haltsOnly ..).same State.curCore fun _ _ _ => rfl,
        (State.startHalt_haltsOnly ..).same State.curCtx fun _ _ _ => rfl]
    refine ⟨_, (exec_yield hp ht).trans (by rw [if_pos h]), ?_, ?_, ?_, ?_, hbytes, hstrands⟩
    all_goals rw [hcur]; assumption
  · exact (exec_yield hp ht).trans (by rw [if_neg h])
  · have hcurAge : s.curAge = t.age := by rw [State.curAge, hage]; rfl
    refine ⟨_, exec_exit hp, ?_⟩
    have hcur : ((s.modCur fun c => c.addWait .exit).modStrand s.curAge fun t => { t with ended := true }).cur =
        s.cur.addWait .exit := State.cur_modCur hin fun c => c.addWait .exit
    rw [hcur]
    refine ⟨exits_addWait_exit _, fun h => wait_addWait_of_none h _, addWait_regs .., addWait_pend .., rfl,
      sameBytes_of_stored (by simp), ?_⟩
    rw [hcurAge]
    rfl

/-! ## SPAWN (05 R128, 16 R351) -/

namespace State

/-- The strand that SPAWN creates: the next of its launch, with its entry and g1. -/
def newborn (s : State) (t : Strand) (l : Launch) (a b : BitVec 6) : Strand where
  age := s.ageCounter
  launch := t.launch
  sess := t.sess
  index := BitVec.ofNat 32 l.nextIndex
  core := s.curCore
  prio := t.prio
  readyAt := s.now
  image := startCtx s.cur.fixed (s.cur.rg a) (s.cur.rg b) (BitVec.ofNat 64 (ofBytes ((l.body.drop 16).take 2) + 1)) 0

/-- The new strand has entered the pool, and its launch counts it. -/
def spawned (s : State) (t : Strand) (l : Launch) (a b : BitVec 6) : State :=
  State.modLaunch { s with strands := s.strands ++ [s.newborn t l a b], ageCounter := s.ageCounter + 1 } l.id
    fun l => { l with nextIndex := l.nextIndex + 1, created := l.created + 1 }

end State

theorem exec_spawn {s : State} {pn : BitVec 1} {pk : BitVec 3} {d a b : BitVec 6} {t : Strand} {l : Launch}
    (hp : s.cur.pred pn pk = true) (ht : s.curStrand = some t) (hl : s.launch? t.launch = some l) : exec (.spawn pn pk d a b) s =
      .next (if State.poolMax ≤ s.pooled ∨ 0xFFFF_FFFF < l.nextIndex then s.putG d (BitVec.allOnes 64) 48
        else (s.spawned t l a b).putG d (BitVec.ofNat 64 l.nextIndex) 48) := by
  show execSpawn pn pk d a b s = _
  rw [execSpawn, scalar_of_pred hp]
  simp only [ht, hl]
  rfl

theorem startCtx_fixed (f : Bool) (pc g1 g2 g3 : DWord) : (State.startCtx f pc g1 g2 g3).fixed = f := by
  cases f <;> simp [Ctx.fixed, State.startCtx]

theorem startCtx_rg (f : Bool) (pc g1 g2 g3 : DWord) :
    (State.startCtx f pc g1 g2 g3).rg 1 = g1 ∧ (State.startCtx f pc g1 g2 g3).rg 3 = g3 := by
  simp [Ctx.rg, State.startCtx]

theorem spawnCreatesAStrand_hold : SpawnCreatesAStrand := by
  intro s pn pk d a b t l hin hp ht hl
  refine ⟨fun hroom hindex => ?_, fun hfull => (exec_spawn hp ht hl).trans (by rw [if_pos (.inl hfull)]; rfl)⟩
  have hcur : ((s.spawned t l a b).putG d (BitVec.ofNat 64 l.nextIndex) 48).cur = _ :=
    State.cur_push (s := s.spawned t l a b) hin _
  refine ⟨_, s.newborn t l a b, (exec_spawn hp ht hl).trans (by rw [if_neg (by omega)]), rfl, rfl, rfl, rfl, rfl, rfl, rfl, rfl,
    rfl, rfl, (startCtx_rg ..).1, (startCtx_rg ..).2, startCtx_fixed .., ?_⟩
  rw [hcur]
  exact ⟨rfl, rfl, sameBytes_of_stored rfl⟩

/-! ## Crews (05 R129, 16 R352 to R355) -/

/-- The slot in hand blocks on a condition that may park its strand (05 R123). -/
theorem CurBecomes.blockOn {s t : State} {k : Ctx} (h : CurBecomes s t k) (hs : s.InHand) (w : ParkCond) :
    CurBecomes s (t.blockOn w)
      { k with out := .blocked true, conds := (s.curSlot, w) :: k.conds.filter (·.1 != s.curSlot) } := by
  rw [← h.curSlot]
  exact h.modCur hs _

@[simp] theorem closeEpisode_members (k : Crew) : (State.closeEpisode k).members = k.members := by
  unfold State.closeEpisode
  split <;> rfl

@[simp] theorem closeEpisode_id (k : Crew) : (State.closeEpisode k).id = k.id := by
  unfold State.closeEpisode
  split <;> rfl

/-- Strand `a` arrives in the open episode of crew `k`. -/
def Crew.arrive (k : Crew) (a : Nat) : Crew := State.closeEpisode { k with arrived := k.arrived ++ [a] }

@[simp] theorem arrive_id (k : Crew) (a : Nat) : (k.arrive a).id = k.id := closeEpisode_id _

/-- The last member to arrive completes the episode. -/
theorem arrive_last {k : Crew} {a : Nat} (h : ∀ m ∈ k.members, m = a ∨ m ∈ k.arrived) :
    k.arrive a = { k with episode := k.episode + 1, arrived := [] } :=
  if_pos ⟨by simp, by simpa [or_comm] using h⟩

theorem arrive_before_last {k : Crew} {a : Nat} (h : ∃ m ∈ k.members, m ≠ a ∧ m ∉ k.arrived) :
    k.arrive a = { k with arrived := k.arrived ++ [a] } := by
  obtain ⟨m, hm, hma, hmk⟩ := h
  refine if_neg fun hall => ?_
  have hin := List.all_eq_true.1 hall.2 m hm
  simp [hma, hmk] at hin

namespace State

/-- The crew with the id of `k` is now `k`. -/
def withCrew (s : State) (k : Crew) : State := { s with crews := s.crews.map fun j => if j.id = k.id then k else j }

theorem eq_of_mem_withCrew {s : State} {k j : Crew} (hj : j ∈ (s.withCrew k).crews) (hid : j.id = k.id) : j = k := by
  obtain ⟨i, -, rfl⟩ := List.mem_map.1 hj
  split at hid
  next h => exact if_pos h
  next h => exact absurd hid h

theorem not_mem_of_leaveCrew {s : State} {a : Nat} {k : Crew} (h : k ∈ (s.leaveCrew a).crews) : a ∉ k.members := by
  obtain ⟨hk, -⟩ := List.mem_filter.1 h
  obtain ⟨j, -, rfl⟩ := List.mem_map.1 hk
  split
  · simp
  next hj => simpa using hj

theorem mem_leaveCrew {s : State} {a : Nat} {k : Crew} (hk : k ∈ s.crews) (ha : a ∉ k.members) (hne : k.members ≠ []) :
    k ∈ (s.leaveCrew a).crews :=
  List.mem_filter.2 ⟨List.mem_map.2 ⟨k, hk, if_neg (by simpa using ha)⟩, by simpa using hne⟩

end State

section
variable {s : State} {pn : BitVec 1} {pk : BitVec 3} (hp : s.cur.pred pn pk = true)
include hp

theorem exec_cnew_of_free (d : BitVec 6) (hc : s.crewOf? s.curAge = none) {k : Nat} (hk : s.freeCrew 0 s.curAge = some k) :
    exec (.cnew pn pk d) s = .next (State.putG { s with
      crews := s.crews ++ [{ id := k, sess := s.curSess, members := [s.curAge] }] } d (BitVec.ofNat 64 k) 48) := by
  show execCnew pn pk d s = _
  rw [execCnew, scalar_of_pred hp, hc, hk]
  rfl

theorem exec_cnew_of_none (d : BitVec 6) (hc : s.crewOf? s.curAge = none) (hk : s.freeCrew 0 s.curAge = none) :
    exec (.cnew pn pk d) s = .next (s.putG d 0 48) := by
  show execCnew pn pk d s = _
  rw [execCnew, scalar_of_pred hp, hc, hk]
  rfl

theorem exec_cnew_of_member (d : BitVec 6) (hc : s.crewOf? s.curAge ≠ none) :
    exec (.cnew pn pk d) s = .next (s.trap 0x0D) := by
  show execCnew pn pk d s = _
  rw [execCnew, scalar_of_pred hp, if_pos (Option.isSome_iff_ne_none.2 hc)]

theorem exec_cjoin (a : BitVec 6) : exec (.cjoin pn pk a) s = .next
    (if (s.crewOf? s.curAge).isSome ∨ ¬ s.crews.any (fun k => k.id == (s.cur.rg a).toNat && k.sess == s.curSess) then s.trap 0x0D
    else { s with crews := s.crews.map fun k =>
      if k.id = (s.cur.rg a).toNat then { k with members := k.members ++ [s.curAge] } else k }) := by
  show execCjoin pn pk a s = _
  rw [execCjoin, scalar_of_pred hp]

theorem exec_cleave : exec (.cleave pn pk) s = .next (s.leaveCrew s.curAge) := by
  show execCleave pn pk s = _
  rw [execCleave, scalar_of_pred hp]

theorem exec_cbar_of_none (h : s.barCrew = none) : exec (.cbar pn pk) s = .next s := by
  show execCbar pn pk s = _
  rw [execCbar, scalar_of_pred hp, h]
  simp

/-- A CBAR that has not been met arrives in the episode that is open, and waits for it unless it was the last. -/
theorem exec_cbar_of_open {k : Crew} (hk : s.barCrew = some (k, k.episode)) (hmet : s.cur.parkMet = false)
    (hslot : s.curSlot ∉ s.cur.met) (harr : s.cur.arrivedIn = none) (hacc : s.cur.accesses = []) :
    exec (.cbar pn pk) s = .next (if k.episode < (k.arrive s.curAge).episode then s.withCrew (k.arrive s.curAge)
      else ((s.withCrew (k.arrive s.curAge)).modCur fun c => { c with arrivedIn := some (k.id, k.episode) }).blockOn
        (.cbar k.id k.episode)) := by
  show execCbar pn pk s = _
  rw [execCbar, scalar_of_pred hp]
  simp only [hmet, hk, harr, hacc, hslot, State.acknowledgedAll, List.contains_iff_mem, Bool.false_eq_true, or_self, if_false,
    lt_irrefl, beq_self_eq_true, Bool.not_true]
  rw [State.withCrew, arrive_id]
  rfl

end

theorem crewForms_hold : CrewForms := by
  intro s pn pk d a hin hp
  refine ⟨fun hc hfree => ?_, fun hc hfull => ?_, fun hc => ⟨exec_cnew_of_member hp d hc, ?_⟩, fun hc hk => ?_, ?_, fun h => ?_,
    fun k hk hmet hslot harr hacc hlast => ?_, fun k hk hmet hslot harr hacc hlate => ?_⟩
  · obtain ⟨k, hk⟩ := Option.ne_none_iff_exists'.1 fun h => by
      obtain ⟨k, h1, hle, hne⟩ := hfree
      obtain ⟨j, hj, hjk⟩ := State.freeCrew_eq_none.1 h k h1 hle
      exact hne j hj hjk
    obtain ⟨h1, hle, hne⟩ := State.freeCrew_spec hk
    have hcur := State.cur_push (s := { s with crews := s.crews ++ [{ id := k, sess := s.curSess, members := [s.curAge] }] }) hin
      { dest := .g d.toNat, data := (BitVec.ofNat 64 k).setWidth 2048, due := s.dueIn 48 }
    exact ⟨k, _, exec_cnew_of_free hp d hc hk, h1, hle, hne, rfl, congrArg Ctx.pend hcur,
      (congrArg Ctx.regs hcur).trans rfl, sameBytes_of_stored rfl⟩
  · exact exec_cnew_of_none hp d hc (State.freeCrew_eq_none.2 hfull)
  · rw [exec_cjoin hp, if_pos (.inl (Option.isSome_iff_ne_none.2 hc))]
  · rw [exec_cjoin hp, if_neg (by simpa [hc] using hk)]
  · exact ⟨_, exec_cleave hp, fun k => State.not_mem_of_leaveCrew, fun k => State.mem_leaveCrew, fun _ _ => ⟨rfl, rfl⟩,
      sameBytes_of_stored (by simp)⟩
  · exact ⟨s, exec_cbar_of_none hp h, rfl, fun _ _ => ⟨rfl, rfl⟩, sameBytes_of_stored rfl, rfl⟩
  · have hall := arrive_last hlast
    refine ⟨s.withCrew (k.arrive s.curAge), (exec_cbar_of_open hp hk hmet hslot harr hacc).trans (by rw [if_pos (by simp [hall])]),
      rfl, fun _ _ => ⟨rfl, rfl⟩, sameBytes_of_stored rfl, fun j hj hid => ?_⟩
    rw [State.eq_of_mem_withCrew hj (by simpa using hid), hall]
    exact ⟨rfl, rfl, rfl⟩
  · have hopen := arrive_before_last hlate
    have hz := ((⟨fun _ _ => rfl, rfl, rfl, rfl, rfl⟩ : SameCtxs s (s.withCrew (k.arrive s.curAge))).curBecomes.modCur hin fun c =>
      { c with arrivedIn := some (k.id, k.episode) }).blockOn hin (.cbar k.id k.episode)
    refine ⟨_, (exec_cbar_of_open hp hk hmet hslot harr hacc).trans (by rw [if_neg (by simp [hopen])]), ?_, ?_,
      hz.sameRegs rfl rfl, sameBytes_of_stored (by simp; rfl)⟩
    · exact congrArg Ctx.out hz.cur
    · exact congrArg Ctx.arrivedIn hz.cur

/-- Settles O9: the forms of the life of a strand, and those of a crew with the arrival in an episode. -/
theorem strandForms : Obligations.StrandForms := ⟨yieldAndExit_hold, spawnCreatesAStrand_hold, crewForms_hold⟩

end Sys2Proof.Machine
end

section
/-! PROOFS. What the device itself reads and writes of a save area (05 R124 to R126, 04 R104, R107, 13 R282). -/

namespace Sys2Proof.Machine

/-! ## Writes of memory with their heat -/

/-- `t` differs from `s` in memory with the records of what is dirty or logged, in the heat of pages, and in the writes that are
held up, at most. -/
def WritesOnly (s t : State) : Prop :=
  t = { s with
    mem := t.mem, dirty := t.dirty, logged := t.logged, logArea := t.logArea, pageHeat := t.pageHeat
    regionHeat := t.regionHeat, lateWrites := t.lateWrites }

namespace WritesOnly

theorem refl (s : State) : WritesOnly s s := rfl

theorem trans {s t u : State} (h : WritesOnly s t) (g : WritesOnly t u) : WritesOnly s u :=
  Eq.trans g (congrArg (fun x : State => { x with
    mem := u.mem, dirty := u.dirty, logged := u.logged, logArea := u.logArea, pageHeat := u.pageHeat
    regionHeat := u.regionHeat, lateWrites := u.lateWrites }) h)

/-- What a reading of the state gives apart from those fields. -/
theorem same {α : Sort _} {s t : State} (h : WritesOnly s t) (f : State → α)
    (hf : ∀ m d l a p r w, f { s with
      mem := m, dirty := d, logged := l, logArea := a, pageHeat := p, regionHeat := r, lateWrites := w } = f s) : f t = f s := by
  rw [h, hf]

variable {s t : State}

theorem sameCtxs (h : WritesOnly s t) : SameCtxs s t :=
  ⟨fun c x => h.same (State.ctx · c x) fun _ _ _ _ _ _ _ => rfl, h.same _ fun _ _ _ _ _ _ _ => rfl,
    h.same _ fun _ _ _ _ _ _ _ => rfl, h.same _ fun _ _ _ _ _ _ _ => rfl, h.same _ fun _ _ _ _ _ _ _ => rfl⟩

theorem strands (h : WritesOnly s t) : t.strands = s.strands := h.same _ fun _ _ _ _ _ _ _ => rfl
theorem seq (h : WritesOnly s t) : t.seq = s.seq := h.same _ fun _ _ _ _ _ _ _ => rfl
theorem areaVa (h : WritesOnly s t) (u : Strand) : t.areaVa u = s.areaVa u :=
  h.same (State.areaVa · u) fun _ _ _ _ _ _ _ => rfl

end WritesOnly

namespace State

theorem logGranule_writesOnly (s : State) (g : Nat) : WritesOnly s (s.logGranule g) := by
  unfold logGranule
  split <;> rfl

theorem touch_writesOnly (s : State) (a n : Nat) : WritesOnly s (s.touch a n) := by
  unfold touch
  split
  · rfl
  · split
    · exact Laws.Memory.foldl_keeps (WritesOnly s) _ (fun _ _ h => h.trans (logGranule_writesOnly ..)) _ (.refl s)
    · rfl

theorem write_writesOnly (s : State) (a : Nat) (b : List Byte) : WritesOnly s (s.write a b) :=
  (touch_writesOnly s a _).trans rfl

theorem heatOf_writesOnly (s : State) (sess : Nat) (ps : List Piece) : WritesOnly s (s.heatOf sess ps) := by
  unfold heatOf
  refine Laws.Memory.foldl_keeps (WritesOnly s) _ (fun t v h => h.trans ?_) _ (.refl s)
  rfl

theorem writeVa_writesOnly (s : State) (sess n : Nat) (va : DWord) (b : List Byte) : WritesOnly s (s.writeVa sess n va b) := by
  induction n generalizing s va b with
  | zero => exact .refl s
  | succ n ih =>
    simp only [writeVa]
    split
    · exact .refl s
    · refine .trans ?_ (ih ..)
      split
      · split
        · rfl
        · exact (write_writesOnly ..).trans (heatOf_writesOnly ..)
      · exact .refl s

theorem clearParked_writesOnly (s : State) (t : Strand) (mode : Nat) : WritesOnly s (s.clearParked t mode) := by
  unfold clearParked
  split
  · split
    · exact writeVa_writesOnly ..
    · exact .refl s
  · exact .refl s

/-! ## Reads, where no error waits (03 R72) -/

theorem readVa_of_no_errors {s : State} (h : s.errors = []) (sess : Nat) (va : DWord) (n : Nat) :
    WritesOnly s (s.readVa sess va n).2 ∧ (s.readVa sess va n).2.stored = s.stored := by
  simp only [readVa]
  split
  next ps _ =>
    have hmeet : s.meetPieces sess ps = s := if_pos h
    rw [hmeet]
    exact ⟨heatOf_writesOnly .., heatOf_stored ..⟩
  · exact ⟨.refl s, rfl⟩

theorem areaImage_of_no_errors {s : State} (h : s.errors = []) (t : Strand) :
    WritesOnly s (s.areaImage t).2 ∧ (s.areaImage t).2.stored = s.stored := by
  unfold areaImage
  split
  · exact readVa_of_no_errors h ..
  · exact ⟨.refl s, rfl⟩

/-- A save area that cannot be read leaves the state as it is. -/
theorem areaImage_of_none {s : State} {t : Strand} (h : (s.areaImage t).1 = none) : (s.areaImage t).2 = s := by
  unfold areaImage at h ⊢
  split at h
  · simp only [readVa] at h ⊢
    split at h <;> simp_all
  · rfl

/-! ## Writes to a session's space, page by page -/

theorem writeVa_nil (s : State) (sess n : Nat) (va : DWord) : s.writeVa sess n va [] = s := by
  cases n <;> simp [writeVa]

/-- A run of one page that can be written now. -/
theorem writeVa_of_page {s : State} {sess f h : Nat} {va : DWord} {w : Window} {b : List Byte} (hb : b ≠ [])
    (hlen : b.length ≤ runLength va b.length) (hok : s.checkByte sess .engRead va = .ok w (.here h) false)
    (hlate : ∀ k ∈ s.lateWrites, k.1 ≠ sess)
    (hbank : s.bankBusy { home := .here h, off := 0, len := b.length, va := va } = false) :
    s.writeVa sess (f + 1) va b = (s.write h b).heatOf sess [{ home := .here h, off := 0, len := b.length, va := va }] := by
  have hrun : runLength va b.length = b.length := le_antisymm (Nat.min_le_left ..) hlen
  have hnone : s.lateWrites.any (·.1 == sess) = false := by simpa using hlate
  simp only [writeVa, if_neg hb, hrun, hok, hbank, hnone, Bool.false_eq_true, or_self, if_false, List.take_length,
    List.drop_length, writeVa_nil]

theorem byteAt_writeVa_of_page {s : State} {sess f h : Nat} {va : DWord} {w : Window} {b : List Byte} (hmem : MemOk s)
    (hb : b ≠ []) (hlen : b.length ≤ runLength va b.length) (hok : s.checkByte sess .engRead va = .ok w (.here h) false)
    (hlate : ∀ k ∈ s.lateWrites, k.1 ≠ sess)
    (hbank : s.bankBusy { home := .here h, off := 0, len := b.length, va := va } = false) (y : Nat) :
    (s.writeVa sess (f + 1) va b).byteAt y = if h ≤ y ∧ y < h + b.length then b.getD (y - h) 0 else s.byteAt y := by
  rw [writeVa_of_page hb hlen hok hlate hbank, sameBytes_of_stored (heatOf_stored ..) y]
  exact (Laws.Memory.write_get hmem.1 ..).trans (by split <;> simp)

end State

end Sys2Proof.Machine
end

section
/-! PROOFS. The dispatcher and the selector: which strand begins to load, is halted or runs (05 R117, R120 to R122, R131). -/

namespace Sys2Proof.Machine

namespace State

/-! ## Where strands are -/

theorem lt_of_freeCtx {s : State} {c x : Nat} (h : s.freeCtx c = some x) : x < 4 :=
  List.mem_range.1 (List.mem_of_find?_eq_some h)

theorem of_ctxOf? {s : State} {c x age : Nat} (h : s.ctxOf? c age = some x) : x < 4 ∧ (s.ctx c x).strand = some age :=
  ⟨List.mem_range.1 (List.mem_of_find?_eq_some h), by simpa using List.find?_some h⟩

theorem age_of_strand? {s : State} {a : Nat} {t : Strand} (h : s.strand? a = some t) : t.age = a := by
  simpa using List.find?_some h

/-! ## Dispatch order -/

theorem mem_of_best {s : State} {l : List Strand} {t : Strand} (h : s.best l = some t) : t ∈ l := by
  induction l generalizing t with
  | nil => exact nomatch h
  | cons v r ih =>
    simp only [best] at h
    split at h
    next u hu =>
      obtain rfl := Option.some.inj h
      split
      · exact List.mem_cons_self
      · exact List.mem_cons_of_mem _ (ih hu)
    next => exact Option.some.inj h ▸ List.mem_cons_self

theorem best_congr {s t : State} (h : ∀ u, t.effective u = s.effective u) (l : List Strand) : t.best l = s.best l := by
  induction l with
  | nil => rfl
  | cons v r ih =>
    have hout (u w : Strand) : t.outranks u w = s.outranks u w := by simp [outranks, h]
    simp only [best, ih, hout]

theorem mem_of_first {lt : Strand → Strand → Bool} {l : List Strand} {t : Strand} (h : first lt l = some t) : t ∈ l := by
  induction l generalizing t with
  | nil => exact nomatch h
  | cons v r ih =>
    simp only [first] at h
    split at h
    next u hu =>
      obtain rfl := Option.some.inj h
      split
      · exact List.mem_cons_self
      · exact List.mem_cons_of_mem _ (ih hu)
    next => exact Option.some.inj h ▸ List.mem_cons_self

/-- A strand that comes before every other one of a list is the first of it. -/
theorem first_of_least {lt : Strand → Strand → Bool} {l : List Strand} {v : Strand} (hv : v ∈ l)
    (h : ∀ u ∈ l, u ≠ v → lt v u = true ∧ lt u v = false) : first lt l = some v := by
  induction l with
  | nil => exact nomatch hv
  | cons t r ih =>
    have hr : ∀ u ∈ r, u ≠ v → lt v u = true ∧ lt u v = false := fun u hu => h u (List.mem_cons_of_mem _ hu)
    simp only [first]
    by_cases hvr : v ∈ r
    · rw [ih hvr hr]
      by_cases ht : t = v
      · simp [ht]
      · simp [(h t List.mem_cons_self ht).2]
    · obtain rfl : v = t := (List.mem_cons.1 hv).resolve_right hvr
      split
      next u hu =>
        have hur := mem_of_first hu
        rw [if_pos (hr u hur fun he => hvr (he ▸ hur)).1]
      next => rfl

/-! ## Dispatch (05 R120, R133) -/

/-- One look more than a list has numbers finds one below `n` that is not in the list. -/
theorem firstFree_ne_none {r n : Nat} {l : List Nat} (h : l.length < n) : firstFree r n (l.length + 1) l.contains ≠ none := by
  rw [Ne, firstFree_eq_none]
  intro hall
  have hcard := Finset.card_le_card_of_injOn (s := Finset.range (l.length + 1)) (t := l.toFinset) (fun i => (r + i) % n)
    (fun i hi => by simpa using hall i (by simpa using hi))
    (fun i hi j hj hij => rotation_injective (by simp at hi; omega) (by simp at hj; omega) hij)
  have hlen := List.toFinset_card_le l
  rw [Finset.card_range] at hcard
  omega

theorem freeArea_spec {s : State} {age k : Nat} {w : Session} (h : s.freeArea age w = some k) :
    k < areaCount w ∧ ∀ u ∈ s.strands, u.sess = w.id → u.st ≠ .done → u.area ≠ some k := by
  simp only [freeArea] at h
  split at h
  next hroom =>
    have hlt : (s.usedAreas w).length < areaCount w := of_decide_eq_true hroom
    obtain ⟨hk, hused⟩ := firstFree_spec (by omega) h
    refine ⟨hk, fun u hu hsess hst harea => ?_⟩
    have hmem : k ∈ s.usedAreas w := List.mem_filterMap.2 ⟨u, hu, by rw [if_pos ⟨hsess, hst⟩, harea]⟩
    simp [hmem] at hused
  next => exact nomatch h

/-- The save area of a strand that is dispatched: its own, or one that is free. -/
def areaFor (s : State) (t : Strand) : Option Nat := t.area.or ((s.session? t.sess).bind (s.freeArea t.age))

/-- What the dispatcher takes has a save area, or there is one for it. -/
theorem areaFor_of_nextReady {s : State} {c : Nat} {t : Strand} (h : s.nextReady c = some t) : ∃ k, s.areaFor t = some k ∧
    (t.area = some k ∨ (t.area = none ∧ ∃ w, s.session? t.sess = some w ∧ k < areaCount w ∧
      ∀ u ∈ s.strands, u.sess = w.id → u.st ≠ .done → u.area ≠ some k)) := by
  have hcan := (List.mem_filter.1 (mem_of_best h)).2
  simp only [canDispatch, Bool.and_eq_true, Bool.or_eq_true, Option.isSome_iff_exists, Option.any_eq_true] at hcan
  rw [areaFor]
  rcases ha : t.area with - | k
  · obtain ⟨-, -, ⟨k, hk⟩ | ⟨w, hw, hroom⟩⟩ := hcan
    · exact absurd (ha.symm.trans hk) (by simp)
    · obtain ⟨k, hk⟩ := Option.ne_none_iff_exists'.1
        (firstFree_ne_none (r := Config.freeChoice 1 t.age s.now) (of_decide_eq_true hroom))
      have hfree : s.freeArea t.age w = some k := (if_pos hroom).trans hk
      exact ⟨k, by simp [hw, hfree], .inr ⟨rfl, w, hw, freeArea_spec hfree⟩⟩
  · exact ⟨k, rfl, .inl rfl⟩

theorem dispatch_eq {s : State} {c x k : Nat} {t : Strand} (hck : s.ckpt = none) (hx : s.freeCtx c = some x)
    (ht : s.nextReady c = some t) (hk : s.areaFor t = some k) : s.dispatch c =
      (s.modStrand t.age fun u => { u with st := .loading, eff := s.effective t, ctx := x, area := some k }).setCtx c x
        { st := .loading, strand := some t.age, since := some s.now } := by
  simp only [dispatch, hx, hck, ht, Option.isSome_none, Bool.false_eq_true, if_false]
  rw [← hk, areaFor]
  cases t.area <;> rfl

theorem dispatch_of_none {s : State} {c : Nat} (h : s.ckpt ≠ none ∨ s.freeCtx c = none ∨ s.nextReady c = none) :
    s.dispatch c = s := by
  unfold dispatch
  rcases h with h | h | h
  · rw [if_pos (Option.isSome_iff_ne_none.2 h)]
    cases s.freeCtx c <;> rfl
  · rw [h]
  · rw [h, ite_self]
    cases s.freeCtx c <;> rfl

/-! ## Pre-emption and the quantum (05 R121, R122) -/

section
variable {s : State} {c x : Nat} {v : Strand} (hc : c < 128) (hv : v ∈ s.victims c) (hx : s.ctxOf? c v.age = some x)
include hx

theorem haltStrand_frozen (hf : s.heatFrozen c x = true) (park : Bool) : s.haltStrand c v park = s := by
  simp [haltStrand, hx, hf]

include hc hv

theorem haltStrand_halted (hf : s.heatFrozen c x = false) (park : Bool) : Halted s (s.haltStrand c v park) c x v.age park := by
  have hexits : (s.ctx c x).exits = false := by
    have hcan := (List.mem_filter.1 hv).2
    simp only [hx, Bool.and_eq_true, Bool.not_eq_true'] at hcan
    exact hcan.1
  simp only [haltStrand, hx, hf, Bool.false_eq_true, if_false]
  exact startHalt_halted hc (of_ctxOf? hx).1 (of_ctxOf? hx).2 hexits park

end

section
variable {s : State} {c : Nat} {h : Strand} (hall : s.allHeld c = true) (hready : s.nextReady c = some h)
include hall hready

/-- The victim of lowest effective priority, the youngest of those, is halted where the waiting strand has a higher one. -/
theorem preempt_eq {v : Strand} (hv : v ∈ s.victims c)
    (hleast : ∀ u ∈ s.victims c, u ≠ v → v.eff < u.eff ∨ (v.eff = u.eff ∧ u.age < v.age)) :
    s.preempt c = if v.eff < s.effective h then s.haltStrand c v false else s := by
  have hfirst : first (fun t u => t.eff < u.eff || (t.eff == u.eff && u.age < t.age)) (s.victims c) = some v := by
    refine first_of_least hv fun u hu hne => ?_
    have hlt := hleast u hu hne
    simp only [Bool.or_eq_true, Bool.and_eq_true, decide_eq_true_eq, beq_iff_eq, Bool.or_eq_false_iff, Bool.and_eq_false_iff,
      decide_eq_false_iff_not, beq_eq_false_iff_ne]
    omega
  simp only [preempt, hall, hready, hfirst, Bool.not_true, Bool.false_eq_true, if_false]

/-- The strand of longest residency among those whose quantum is over at the waiting strand's priority is halted. -/
theorem quantum_eq {v : Strand} (hv : v ∈ s.victims c) (heff : v.eff = s.effective h) (hover : v.residentAt + 2200000 ≤ s.now)
    (hprio : v.prio < 120)
    (hleast : ∀ u ∈ s.victims c, u ≠ v → u.eff = s.effective h → u.residentAt + 2200000 ≤ s.now → u.prio < 120 →
      v.residentAt < u.residentAt ∨ (v.residentAt = u.residentAt ∧ u.age < v.age)) :
    s.quantum c = s.haltStrand c v false := by
  have hfirst : first (fun t u => t.residentAt < u.residentAt || (t.residentAt == u.residentAt && u.age < t.age))
      ((s.victims c).filter fun t => t.eff == s.effective h && decide (t.residentAt + Config.quantum ≤ s.now) &&
        decide (t.prio < 120)) = some v := by
    refine first_of_least (List.mem_filter.2 ⟨hv, by simp [heff, hprio]; exact hover⟩) fun u hu hne => ?_
    obtain ⟨hu, hok⟩ := List.mem_filter.1 hu
    simp only [Bool.and_eq_true, decide_eq_true_eq, beq_iff_eq] at hok
    have hlt := hleast u hu hne hok.1.1 hok.1.2 hok.2
    simp only [Bool.or_eq_true, Bool.and_eq_true, decide_eq_true_eq, beq_iff_eq, Bool.or_eq_false_iff, Bool.and_eq_false_iff,
      decide_eq_false_iff_not, beq_eq_false_iff_ne]
    omega
  simp only [quantum, hall, hready, hfirst, Bool.not_true, Bool.false_eq_true, if_false]

end

/-- Where a context can be given, none waits for one, or none can be halted, no strand is. -/
theorem preempt_quantum_of_none {s : State} {c : Nat}
    (h : s.allHeld c = false ∨ s.nextReady c = none ∨ s.victims c = []) : s.preempt c = s ∧ s.quantum c = s := by
  unfold preempt quantum
  rcases h with h | h | h
  · simp [h]
  · simp [h]
  · rw [h]
    simp only [List.filter_nil, first]
    constructor <;> repeat' split
    all_goals rfl

/-! ## The re-push of entries (05 R126) -/

theorem chan_modChan {c h : Nat} (hc : c < 128) (hh : h < 2) (s : State) (f : Chan → Chan) :
    (s.modChan c h f).chan c h = f (s.chan c h) := by
  simp [chan, modChan, modCore, hc, hh]

theorem modChan_sameCtxs (s : State) (c h : Nat) (f : Chan → Chan) : SameCtxs s (s.modChan c h f) :=
  modCore_sameCtxs s c fun _ => rfl

theorem chan_setCtx (s : State) (c x d h : Nat) (t : Ctx) : (s.setCtx c x t).chan d h = s.chan d h := by
  by_cases hd : c = d
  · subst hd
    by_cases hc : c < 128
    · simp [chan, setCtx, modCore, hc]
    · simp [chan, core, setCtx, modCore, setCore, hc]
  · simp [chan, hd]

/-- A context after commands of its re-push list of a channel have entered the queue. -/
def refilled (s : State) (c h : Nat) (t : Ctx) : Ctx :=
  let l := if h = 1 then t.repush1 else t.repush0
  let n := 16 - (s.chan c h).queue.length
  if h = 1 then { t with repush1 := l.drop n } else { t with repush0 := l.drop n }

theorem refillChan_becomes {c x : Nat} (hc : c < 128) (hx : x < 4) (s : State) (h : Nat) :
    CtxBecomes s (s.refillChan c x h) c x (s.refilled c h (s.ctx c x)) := by
  unfold refillChan
  exact ((modChan_sameCtxs ..).becomes c x).modCtx hc hx _

theorem refillChan_chan {c h : Nat} (hc : c < 128) (hh : h < 2) (s : State) (x : Nat) :
    ((s.refillChan c x h).chan c h).queue = (s.chan c h).queue ++
      (if h = 1 then (s.ctx c x).repush1 else (s.ctx c x).repush0).take (16 - (s.chan c h).queue.length) := by
  rw [refillChan, modCtx, chan_setCtx, chan_modChan hc hh]

/-- Nothing is pushed again where the list is empty. -/
theorem refilled_of_nil (s : State) (c h : Nat) {t : Ctx} (h0 : t.repush0 = []) (h1 : t.repush1 = []) : s.refilled c h t = t := by
  have e0 : { t with repush0 := [] } = t := by rw [← h0]
  have e1 : { t with repush1 := [] } = t := by rw [← h1]
  by_cases hh : h = 1
  · simpa only [refilled, hh, if_true, h1, List.drop_nil] using e1
  · simpa only [refilled, hh, if_false, h0, List.drop_nil] using e0

/-! ## The selector (05 R130, R131) -/

/-- Core `c` after a freeze that has ended before another context has issued: its context runs on. -/
def thawed (s : State) (c : Nat) : Core :=
  match (s.core c).thawTo with
  | some y => if s.canIssue c y then { s.core c with running := y, switching := 0, thawTo := none } else s.core c
  | none => s.core c

/-- Core `c` has another running context; what the selector reads besides is as before. -/
structure SelectorOnly (s t : State) (c : Nat) : Prop where
  core : ∃ r w f, t.core c = { s.core c with running := r, switching := w, thawTo := f }
  others : ∀ d, d ≠ c → t.core d = s.core d
  strands : t.strands = s.strands
  now : t.now = s.now

namespace SelectorOnly

theorem modCore {c : Nat} (hc : c < 128) (s : State) (r w : Nat) (f : Option Nat) :
    SelectorOnly s (s.modCore c fun k => { k with running := r, switching := w, thawTo := f }) c :=
  ⟨⟨r, w, f, core_setCore _ _ _ hc⟩, fun _ hd => core_setCore_ne _ _ _ _ hd.symm, rfl, rfl⟩

variable {s t : State} {c : Nat} (h : SelectorOnly s t c)
include h

theorem heatFrozen (x : Nat) : t.heatFrozen c x = s.heatFrozen c x := by
  obtain ⟨r, w, f, hcore⟩ := h.core
  simp [State.heatFrozen, entryBusy, matrixBusy, tableBusy, ctx, hcore]

theorem canIssue (x : Nat) : t.canIssue c x = s.canIssue c x := by
  obtain ⟨r, w, f, hcore⟩ := h.core
  simp [State.canIssue, h.heatFrozen, ctx, hcore]

theorem strandOf (x : Nat) : t.strandOf c x = s.strandOf c x := by
  obtain ⟨r, w, f, hcore⟩ := h.core
  have hfind (a : Nat) : t.strand? a = s.strand? a := by rw [State.strand?, h.strands]; rfl
  simp [State.strandOf, ctx, hcore, funext hfind]

theorem ctxOf? (age : Nat) : t.ctxOf? c age = s.ctxOf? c age := by
  obtain ⟨r, w, f, hcore⟩ := h.core
  simp [State.ctxOf?, ctx, hcore]

theorem effective (u : Strand) : t.effective u = s.effective u := by
  unfold State.effective
  rw [h.now]

theorem best_issuables : t.best (t.issuables c) = s.best (s.issuables c) := by
  rw [best_congr h.effective, issuables, issuables, funext h.canIssue, funext h.strandOf]

end SelectorOnly

theorem thaw_selectorOnly {c : Nat} (hc : c < 128) (s : State) :
    SelectorOnly s (s.thaw c) c ∧ (s.thaw c).core c = s.thawed c := by
  have hself : SelectorOnly s s c := ⟨⟨_, _, _, rfl⟩, fun _ _ => rfl, rfl, rfl⟩
  rcases hto : (s.core c).thawTo with - | y
  · simp [thaw, thawed, hto, hself]
  · by_cases hy : s.canIssue c y = true
    · simp only [thaw, thawed, hto, hy, if_true]
      exact ⟨.modCore hc .., core_setCore _ _ _ hc⟩
    · simp [thaw, thawed, hto, hy, hself]

/-- The selector after a thaw: it keeps the running context, or another one runs 2 cycles later. -/
theorem contextSwitch_eq {s : State} {c x : Nat} {t : Strand} (hc : c < 128) (ht : s.best (s.issuables c) = some t)
    (hx : s.ctxOf? c t.age = some x) :
    let k := s.thawed c
    let keeps : Prop := s.canIssue c k.running = true ∧ ∃ r, s.strandOf c k.running = some r ∧ s.effective t ≤ s.effective r
    (x = k.running ∨ keeps → s.contextSwitch c = s.thaw c) ∧
    (x ≠ k.running → ¬ keeps → s.contextSwitch c = (s.thaw c).modCore c fun j => { j with
      running := x, switching := 2, thawTo := if s.heatFrozen c k.running then some k.running else k.thawTo }) := by
  intro k keeps
  obtain ⟨hsel, hk⟩ := s.thaw_selectorOnly hc
  have hrest (b : Bool) (hb : b = false ↔ ∃ r, s.strandOf c k.running = some r ∧ s.effective t ≤ s.effective r) :
      (x = k.running ∨ s.canIssue c k.running = true ∧ (!b) = true) ↔ x = k.running ∨ keeps := by
    rw [Bool.not_eq_true', hb]
  rcases hr : s.strandOf c k.running with - | r
  · have hkeeps := hrest true (by simp [hr])
    simp only [contextSwitch, hsel.best_issuables, ht, hsel.ctxOf?, hx, hk, hsel.strandOf, hsel.canIssue, hsel.heatFrozen,
      hsel.effective]
    rw [show s.strandOf c (s.thawed c).running = none from hr]
    exact ⟨fun h => if_pos (hkeeps.2 h), fun hne h => if_neg fun h' => (hkeeps.1 h').elim hne h⟩
  · have hkeeps := hrest (decide (s.effective r < s.effective t)) (by simp [hr])
    simp only [contextSwitch, hsel.best_issuables, ht, hsel.ctxOf?, hx, hk, hsel.strandOf, hsel.canIssue, hsel.heatFrozen,
      hsel.effective]
    rw [show s.strandOf c (s.thawed c).running = some r from hr]
    exact ⟨fun h => if_pos (hkeeps.2 h), fun hne h => if_neg fun h' => (hkeeps.1 h').elim hne h⟩

end State

end Sys2Proof.Machine
end

section
/-! PROOFS. The end of a load, of a save and of a switch (05 R125, R126, R131, 08 R199, 20 R414): O44. -/

namespace Sys2Proof.Machine

namespace State

/-! ## The end of a load (05 R126) -/

/-- The context of a strand that has been loaded from `img`. -/
def loadedCtx (n age : Nat) (img : Ctx) : Ctx :=
  { releaseAgain n img with
    st := .issuable, strand := some age, since := none, halt := none, wait := .none, wait2 := .none }

/-- Strand `t` is resident in a context, with its entries re-pushed. -/
def install (s : State) (c x : Nat) (t : Strand) (img : Ctx) : State :=
  ((((setCtx { s with seq := s.seq + 1 } c x (loadedCtx s.seq t.age img)).modStrand t.age fun u =>
    { u with st := .resident, residentAt := s.now, ctx := x, image := {} }).refillChan c x 0).refillChan c x 1)

section
variable {c x : Nat} (hc : c < 128) (hx : x < 4) (s : State) (t : Strand) {img : Ctx} (h0 : img.repush0 = [])
  (h1 : img.repush1 = [])
include hc hx h0 h1

theorem install_becomes : CtxBecomes s (s.install c x t img) c x (loadedCtx s.seq t.age img) := by
  have hset := (((⟨fun _ _ => rfl, rfl, rfl, rfl, rfl⟩ : SameCtxs s { s with seq := s.seq + 1 }).becomes c x).setCtx hc hx
    (loadedCtx s.seq t.age img)).then_same (modStrand_sameCtxs _ t.age fun u =>
      { u with st := .resident, residentAt := s.now, ctx := x, image := {} })
  have hnone (z : State) (h : Nat) : z.refilled c h (loadedCtx s.seq t.age img) = loadedCtx s.seq t.age img :=
    refilled_of_nil _ _ _ (congrArg (List.map _) h0) (congrArg (List.map _) h1)
  have hfill {z : State} (hz : CtxBecomes s z c x (loadedCtx s.seq t.age img)) (h : Nat) :
      CtxBecomes s (z.refillChan c x h) c x (loadedCtx s.seq t.age img) := by
    have hr := hz.trans (refillChan_becomes hc hx z h)
    rwa [hz.ctx, hnone] at hr
  exact hfill (hfill hset 0) 1

end

theorem install_strands (s : State) (c x : Nat) (t : Strand) (img : Ctx) : (s.install c x t img).strands = s.strands.map fun u =>
    if u.age = t.age then { u with st := .resident, residentAt := s.now, ctx := x, image := {} } else u := rfl

@[simp] theorem install_stored (s : State) (c x : Nat) (t : Strand) (img : Ctx) : (s.install c x t img).stored = s.stored := by
  simp [install]

section
variable {s : State} {c x a n : Nat} {t : Strand} (hst : (s.ctx c x).st = .loading) (ha : (s.ctx c x).strand = some a)
  (ht : s.strand? a = some t) (hn : (s.ctx c x).since = some n)
include hst ha ht hn

theorem loadComplete_early (h : s.now < n + moveCycles (savedEntries t.image) ∨ (t.saved = true ∧ s.areaMoves t = true)) :
    s.loadComplete c x = s := by
  simp only [loadComplete, hst, ha, Option.bind_some, ht, hn, Option.getD_some]
  exact if_pos h

variable (hlate : ¬ (s.now < n + moveCycles (savedEntries t.image) ∨ (t.saved = true ∧ s.areaMoves t = true)))
include hlate

/-- A strand whose state does not stand in its save area is loaded from its own record. -/
theorem loadComplete_of_record (h : t.saved = false ∨ (s.areaImage t).1 = none) :
    s.loadComplete c x = s.install c x t t.image := by
  have hsrc : (if t.saved = true then s.areaImage t else (none, s)) = (none, s) := by
    split
    next hs =>
      have hnone := h.resolve_left (by simp [hs])
      exact Prod.ext hnone (areaImage_of_none hnone)
    next => rfl
  simp only [loadComplete, hst, ha, Option.bind_some, ht, hn, Option.getD_some]
  rw [if_neg hlate, hsrc]
  rfl

theorem loadComplete_of_area {b : List Byte} (hs : t.saved = true) (hb : (s.areaImage t).1 = some b) :
    s.loadComplete c x = ((s.areaImage t).2.clearParked t (imageSys b.toArray 15).toNat).install c x t
      (restoreArea t.image b.toArray) := by
  have hsrc : (if t.saved = true then s.areaImage t else (none, s)) = (some b, (s.areaImage t).2) := by
    rw [if_pos hs]
    exact Prod.ext hb rfl
  simp only [loadComplete, hst, ha, Option.bind_some, ht, hn, Option.getD_some]
  rw [if_neg hlate, hsrc]
  rfl

end

theorem clearParked_of_bit {s : State} {t : Strand} {mode : Nat} {va : DWord} (hbit : bit mode 2 = 1)
    (hva : s.areaVa t = some va) : s.clearParked t mode = s.writeVa t.sess 2 (va + 0x1_CCF8) (toBytes 8 (mode - 4)) := by
  simp only [clearParked, hbit, hva, if_true]
  rfl

theorem clearParked_of_clear {s : State} {t : Strand} {mode : Nat} (hbit : bit mode 2 = 0) : s.clearParked t mode = s := by
  simp [clearParked, hbit]

/-! ## What a save keeps (05 R124) -/

/-- What lands of claims changes registers, flags and status bits above the region's, and takes the claims away. -/
structure LandsOnly (c d : Ctx) : Prop where
  rest : d = { c with regs := d.regs, sys := d.sys, claims := d.claims }
  fixed : d.fixed = c.fixed

theorem LandsOnly.trans {c d e : Ctx} (h : LandsOnly c d) (g : LandsOnly d e) : LandsOnly c e :=
  ⟨g.rest.trans (congrArg (fun z : Ctx => { z with regs := e.regs, sys := e.sys, claims := e.claims }) h.rest),
    g.fixed.trans h.fixed⟩

theorem LandsOnly.same {α : Type} {c d : Ctx} (h : LandsOnly c d) (f : Ctx → α)
    (hf : ∀ r y k, f { c with regs := r, sys := y, claims := k } = f c) : f d = f c :=
  (congrArg f h.rest).trans (hf ..)

theorem landClaim_landsOnly (c : Ctx) (k : MClaim) : LandsOnly c (c.landClaim k) := by
  unfold Ctx.landClaim
  extract_lets laid later d dwc
  have hd : LandsOnly c d := by
    refine Laws.Memory.foldl_keeps (LandsOnly c) _ (fun e p h => h.trans ?_) _ ⟨rfl, rfl⟩
    exact ⟨rfl, rfl⟩
  refine hd.trans ⟨rfl, ?_⟩
  simp only [Ctx.fixed, BitVec.getLsbD_or]
  cases k.sat <;> cases dwc <;> simp

theorem landClaims_landsOnly (c : Ctx) (f : MClaim → Bool) : LandsOnly c (c.landClaims f) :=
  Laws.Memory.foldl_keeps (LandsOnly c) _ (fun d k h => h.trans (landClaim_landsOnly d k)) _ ⟨rfl, rfl⟩

theorem drawBytes_eq (s : State) (n : Nat) : ∃ l : List Byte, l.length = n ∧
    s.drawBytes n = (l, { s with drawn := s.drawn + n }) := by
  induction n generalizing s with
  | zero => exact ⟨[], rfl, rfl⟩
  | succ n ih =>
    obtain ⟨l, hl, hd⟩ := ih s.draw.2
    refine ⟨s.draw.1.setWidth 8 :: l, by simp [hl], ?_⟩
    simp only [drawBytes, hd]
    simp only [draw, Nat.add_comm n 1, Nat.add_assoc]

/-! ## The end of a save (05 R125) -/

theorem saveBytes_snd (s : State) (t img : Ctx) (sess : Nat) (park : Bool) : (s.saveBytes t img sess park).2 =
    { s with drawn := s.drawn + 32 * (img.repush0.length + img.repush1.length + img.tableQ.length) } := by
  obtain ⟨l, -, hd⟩ := s.drawBytes_eq (32 * (img.repush0.length + img.repush1.length + img.tableQ.length))
  simp only [saveBytes, hd]

/-- The bytes of a save that does not park: the fixed part, the matrix entries, and free bytes for the others. -/
theorem saveBytes_fst (s : State) (t img : Ctx) (sess : Nat) :
    let w := t.landClaims (·.done)
    ∃ free : List Byte, free.length = 32 * (img.repush0.length + img.repush1.length + img.tableQ.length) ∧
      (s.saveBytes t img sess false).1 = padTo (0x1_E000 + 32 * (savedEntries img - 149))
        (fixedPart w t.pc (s.statusOfCtx w sess) (s.feedRecords w) (t.fixed.toNat + 2 * t.locked.toNat) ++
          (w.streams.toList.flatMap fun q => q.entries.flatMap fun e => entryBytes e (entryWord e) t.issue) ++ free) := by
  intro w
  have hw : LandsOnly t w := landClaims_landsOnly ..
  obtain ⟨l, hl, hd⟩ := s.drawBytes_eq (32 * (img.repush0.length + img.repush1.length + img.tableQ.length))
  refine ⟨l, hl, ?_⟩
  rw [← hw.same Ctx.pc fun _ _ _ => rfl, ← hw.same Ctx.issue fun _ _ _ => rfl, ← hw.same Ctx.locked fun _ _ _ => rfl, ← hw.fixed]
  simp only [saveBytes, hd]
  rfl

/-- The bytes of a save are written where the strand's pool is mapped. -/
def putArea (s : State) (u : Strand) (b : List Byte) : State :=
  match s.areaVa u with
  | some va => s.writeVa u.sess 4 va b
  | none => s

theorem putArea_writesOnly (s : State) (u : Strand) (b : List Byte) : WritesOnly s (s.putArea u b) := by
  unfold putArea
  split
  · exact writeVa_writesOnly ..
  · exact .refl s

/-- The state after a save: the bytes in the save area, the context free, the core and the strand changed. -/
def saved (s : State) (c x : Nat) (u : Strand) (b : List Byte) (f : Core → Core) (g : Strand → Strand) : State :=
  (((s.putArea u b).modCore c f).setCtx c x {}).modStrand u.age g

theorem saved_becomes {s y : State} {c x : Nat} (hc : c < 128) (hx : x < 4) (hy : SameCtxs s y) (u : Strand) (b : List Byte)
    {f : Core → Core} (hf : ∀ k, (f k).ctxs = k.ctxs) (g : Strand → Strand) : CtxBecomes s (y.saved c x u b f g) c x {} :=
  ((((hy.trans (putArea_writesOnly y u b).sameCtxs).trans (modCore_sameCtxs _ c hf)).becomes c x).setCtx hc hx {}).then_same
    (modStrand_sameCtxs ..)

theorem saved_stored (s : State) (c x : Nat) (u : Strand) (b : List Byte) (f : Core → Core) (g : Strand → Strand) :
    (s.saved c x u b f g).stored = (s.putArea u b).stored := by
  simp [saved]

theorem saveBytes_sameCtxs (s : State) (t img : Ctx) (sess : Nat) (park : Bool) : SameCtxs s (s.saveBytes t img sess park).2 := by
  rw [saveBytes_snd]
  exact ⟨fun _ _ => rfl, rfl, rfl, rfl, rfl⟩

/-- A strand of a given age after a change of the strand of that age. -/
theorem of_mem_modStrand {s : State} {a : Nat} {f : Strand → Strand} {v : Strand} (hv : v ∈ (s.modStrand a f).strands)
    (ha : v.age = a) : ∃ u ∈ s.strands, v = f u ∧ u.age = a := by
  obtain ⟨u, hu, rfl⟩ := List.mem_map.1 hv
  split at ha
  next h => exact ⟨u, hu, if_pos h, h⟩
  next h => exact absurd ha h

section
variable {s : State} {c x : Nat}

theorem saveComplete_not_drained (h : s.drainedHalt c x = false) : s.saveComplete c x = s := by
  simp only [saveComplete, h]
  split <;> simp

variable {u : Strand} (hd : s.drainedHalt c x = true) (hu : (s.ctx c x).strand.bind s.strand? = some u)
  (hmoves : s.areaMoves u = false)
include hd hu hmoves

theorem saveComplete_begins (hat : (s.ctx c x).savingAt = none) :
    s.saveComplete c x = s.setCtx c x { s.ctx c x with savingAt := some s.now } := by
  simp [saveComplete, hd, hu, hmoves, hat]

variable (hhalt : (s.ctx c x).halt = some false) {b : Nat} (hat : (s.ctx c x).savingAt = some b)
include hhalt hat

theorem saveComplete_writing (h : s.now < b + moveCycles (savedEntries (s.savedCtx c (s.ctx c x) u.age false))) :
    s.saveComplete c x = s := by
  simp [saveComplete, hd, hu, hmoves, hat, hhalt, h]

/-- The save ends: its bytes are written, the context is free, and the strand is READY with what was saved. -/
theorem saveComplete_ends (h : b + moveCycles (savedEntries (s.savedCtx c (s.ctx c x) u.age false)) ≤ s.now)
    {y : List Byte × State} (hy : s.saveBytes (s.ctx c x) (s.savedCtx c (s.ctx c x) u.age false) u.sess false = y) :
    ∃ (f : Core → Core) (g : Strand → Strand), (∀ k, (f k).ctxs = k.ctxs) ∧
      (∀ v, (g v).st = .ready ∧ (g v).readyAt = s.now ∧ (g v).image = s.savedCtx c (s.ctx c x) u.age false) ∧
      s.saveComplete c x = y.2.saved c x u y.1 f g := by
  have hnow : (y.2.putArea u y.1).now = s.now :=
    (putArea_writesOnly ..).sameCtxs.now.trans (hy ▸ (saveBytes_sameCtxs ..).now)
  simp only [saveComplete, hd, hu, hmoves, hat, hhalt, hy, Option.getD_some, Bool.not_true, Bool.false_eq_true, or_self, if_false]
  rw [if_neg (by omega)]
  rcases hva : y.2.areaVa u with - | va
  all_goals
    simp only [putArea, hva, saved] at hnow ⊢
    refine ⟨_, _, ?_, ?_, rfl⟩
    · exact fun _ => rfl
    · exact fun _ => ⟨rfl, hnow, rfl⟩

end

end State

end Sys2Proof.Machine
end

section
/-! PROOFS. The events of the dispatcher and the selector, at the context that each names: O44. -/

namespace Sys2Proof.Machine

open State

theorem exec_dispatch (s : State) : exec .dispatch s = .next (s.dispatch s.arg.core) := rfl
theorem exec_preemption (s : State) : exec .preemption s = .next (s.preempt s.arg.core) := rfl
theorem exec_quantumExpiry (s : State) : exec .quantumExpiry s = .next (s.quantum s.arg.core) := rfl
theorem exec_contextSwitch (s : State) : exec .contextSwitch s = .next (s.contextSwitch s.arg.core) := rfl

/-- The lists of commands to be pushed again are not part of a save area. -/
theorem restoreArea_repush (t : Ctx) (b : Array Byte) :
    (restoreArea t b).repush0 = t.repush0 ∧ (restoreArea t b).repush1 = t.repush1 := by
  unfold restoreArea restoreImage
  exact ⟨rfl, rfl⟩

section
variable {s : State} {c x : Nat} (hat : AtCtx s c x)
include hat

theorem exec_loadComplete : exec .loadComplete s = .next (s.switchBack c x (s.loadComplete c x)) := by
  obtain ⟨rfl, rfl, -, -⟩ := hat
  rfl

theorem exec_saveComplete : exec .saveComplete s = .next (s.saveComplete c x) := by
  obtain ⟨rfl, rfl, -, -⟩ := hat
  rfl

theorem exec_repushEntry {h : Nat} (hh : s.arg.chan = h) :
    exec .repushEntry s = .next (if (s.ctx c x).st = .draining then s else s.refillChan c x h) := by
  obtain ⟨rfl, rfl, -, -⟩ := hat
  subst hh
  rfl

/-- What the end of a load leaves, by what it was loaded from. -/
theorem installed {a : Nat} {t : Strand} (ht : s.strand? a = some t) {w : State} (hw : WritesOnly s w) {img : Ctx}
    (h0 : img.repush0 = []) (h1 : img.repush1 = []) :
    (s.switchBack c x (w.install c x t img)).ctx c x = { releaseAgain s.seq img with
      st := .issuable, strand := some a, since := none, halt := none, wait := .none, wait2 := .none } ∧
    (∀ d y, d ≠ c ∨ y ≠ x → (s.switchBack c x (w.install c x t img)).ctx d y = s.ctx d y) ∧
    (s.switchBack c x (w.install c x t img)).strands = s.strands.map fun u =>
      if u.age = a then { u with st := .resident, residentAt := s.now, ctx := x, image := {} } else u := by
  obtain ⟨-, -, hc, hx⟩ := hat
  obtain rfl := age_of_strand? ht
  have hz := ((hw.sameCtxs.becomes c x).trans (install_becomes hc hx w t h0 h1)).switchBack (s := s)
  refine ⟨?_, hz.others, ?_⟩
  · rw [hz.ctx, hw.seq]
    rfl
  · rw [switchBack_strands, install_strands, hw.strands, hw.sameCtxs.now]

end

/-- A save keeps the registers with what has landed in them, and the rest as it is. -/
theorem savedCtx_keeps (s : State) (c : Nat) (t : Ctx) (age : Nat) (park : Bool) :
    let img := s.savedCtx c t age park
    img.regs = (t.landClaims (·.done)).regs ∧ img.sys = (t.landClaims (·.done)).sys ∧ img.pc = t.pc ∧ img.loops = t.loops ∧
      img.streams = t.streams ∧ img.tableQ = t.tableQ := by
  have hw := landClaims_landsOnly t (·.done)
  exact ⟨rfl, rfl, hw.same Ctx.pc fun _ _ _ => rfl, hw.same Ctx.loops fun _ _ _ => rfl, hw.same Ctx.streams fun _ _ _ => rfl,
    hw.same Ctx.tableQ fun _ _ _ => rfl⟩

/-- The bytes after a save are those of the write of the save area, where there is one. -/
theorem byteAt_saved (s y : State) (hy : y.stored = s.stored) (ha : ∀ u, y.areaVa u = s.areaVa u) (c x : Nat) (u : Strand)
    (b : List Byte) (f : Core → Core) (g : Strand → Strand) :
    (s.areaVa u = none → SameBytes s (y.saved c x u b f g)) ∧
      ∀ va, s.areaVa u = some va → ∀ a, (y.saved c x u b f g).byteAt a = (y.writeVa u.sess 4 va b).byteAt a := by
  refine ⟨fun hva => sameBytes_of_stored ?_, fun va hva => sameBytes_of_stored ?_⟩
  · rw [saved_stored, putArea, ha, hva, hy]
  · rw [saved_stored, putArea, ha, hva]

/-- What a save leaves of the context and the strand. -/
theorem ctx_saved {s y : State} {c x : Nat} (hc : c < 128) (hx : x < 4) (hy : SameCtxs s y) (u : Strand) (b : List Byte)
    {f : Core → Core} (hf : ∀ k, (f k).ctxs = k.ctxs) {g : Strand → Strand} {park : Bool}
    (hg : ∀ v, (g v).st = .ready ∧ (g v).readyAt = s.now ∧ (g v).image = s.savedCtx c (s.ctx c x) u.age park) :
    let t := s.ctx c x
    let w := t.landClaims (·.done)
    let z := y.saved c x u b f g
    z.ctx c x = {} ∧ (∀ d y, d ≠ c ∨ y ≠ x → z.ctx d y = s.ctx d y) ∧
      ∀ v ∈ z.strands, v.age = u.age → v.st = .ready ∧ v.readyAt = s.now ∧ v.image.regs = w.regs ∧ v.image.sys = w.sys ∧
        v.image.pc = t.pc ∧ v.image.loops = t.loops ∧ v.image.streams = t.streams ∧ v.image.tableQ = t.tableQ := by
  obtain ⟨hctx, hothers⟩ := saved_becomes hc hx hy u b hf g
  refine ⟨hctx, hothers, fun v hv hage => ?_⟩
  obtain ⟨v, -, rfl, -⟩ := of_mem_modStrand hv hage
  obtain ⟨hst, hready, himage⟩ := hg v
  rw [himage]
  exact ⟨hst, hready, savedCtx_keeps ..⟩

/-! ## The selector -/

theorem contextSwitch_settles {s : State} {c x : Nat} {t : Strand} (hc : c < 128) (ht : s.best (s.issuables c) = some t)
    (hx : s.ctxOf? c t.age = some x) :
    let k := s.thawed c
    let keeps : Prop := s.canIssue c k.running = true ∧ ∃ r, s.strandOf c k.running = some r ∧ s.effective t ≤ s.effective r
    (∀ d, d ≠ c → (s.contextSwitch c).core d = s.core d) ∧ (x = k.running ∨ keeps → (s.contextSwitch c).core c = k) ∧
      (x ≠ k.running → ¬ keeps → (s.contextSwitch c).core c = { k with
        running := x, switching := 2, thawTo := if s.heatFrozen c k.running then some k.running else k.thawTo }) := by
  intro k keeps
  obtain ⟨hkeep, hswitch⟩ := contextSwitch_eq hc ht hx
  obtain ⟨hsel, hk⟩ := s.thaw_selectorOnly hc
  refine ⟨fun d hd => ?_, fun h => by rw [hkeep h, hk], fun hne h => ?_⟩
  · by_cases h : x = k.running ∨ keeps
    · rw [hkeep h, hsel.others d hd]
    · rw [hswitch (fun he => h (.inl he)) fun hk => h (.inr hk)]
      exact (core_setCore_ne _ _ _ _ hd.symm).trans (hsel.others d hd)
  · rw [hswitch hne h, modCore, core_setCore _ _ _ hc, hk]

/-! ## O44 -/

/-- Settles O44: each event of the dispatcher and the selector by what it changes, and the cases in which it changes nothing. -/
theorem schedulerEvents : Obligations.SchedulerEvents := by
  refine ⟨?_, ?_, ?_, ?_, ?_, ?_, ?_, ?_, ?_⟩
  · rintro s c x t rfl hc hck hx ht
    obtain ⟨k, hk, harea⟩ := areaFor_of_nextReady ht
    have hz := ((modStrand_sameCtxs s t.age fun u =>
      { u with st := .loading, eff := s.effective t, ctx := x, area := some k }).becomes s.arg.core x).setCtx hc
        (lt_of_freeCtx hx) { st := .loading, strand := some t.age, since := some s.now }
    rw [exec_dispatch, dispatch_eq hck hx ht hk]
    refine ⟨k, _, harea, rfl, ?_, ?_, ?_, hz.otherCtxs (by simp), rfl⟩
    all_goals rw [hz.ctx]
  · rintro s c rfl h
    rw [exec_dispatch, dispatch_of_none h]
  · rintro s c x a n t hat hst ha ht hn h0 h1 moves ready loaded
    refine ⟨fun hready hmoves herr => ?_, fun h => ?_⟩
    · have hlate : ¬ (s.now < n + moveCycles (savedEntries t.image) ∨ moves) := not_or.2 ⟨Nat.not_lt.2 hready, hmoves⟩
      refine ⟨fun h => ?_, fun b hs hb => ?_⟩
      · rw [exec_loadComplete hat, loadComplete_of_record hst ha ht hn hlate h]
        exact ⟨_, rfl, installed hat ht (.refl s) h0 h1, sameBytes_of_stored (by simp)⟩
      · obtain ⟨hread, hstored⟩ := areaImage_of_no_errors herr t
        obtain ⟨r0, r1⟩ := restoreArea_repush t.image b.toArray
        rw [exec_loadComplete hat, loadComplete_of_area hst ha ht hn hlate hs hb]
        refine ⟨_, rfl, installed hat ht (hread.trans (clearParked_writesOnly ..)) (r0.trans h0) (r1.trans h1), fun hbit => ?_,
          fun hbit va hva => ?_⟩
        · refine sameBytes_of_stored ?_
          rw [switchBack_stored, install_stored, clearParked_of_clear hbit, hstored]
        · rw [← clearParked_of_bit hbit ((hread.areaVa t).trans hva)]
          exact sameBytes_of_stored (by simp)
    · rw [exec_loadComplete hat, loadComplete_early hst ha ht hn h, switchBack_self]
  · rintro s c x h v ⟨rfl, hc, hall, hready⟩ hv hx
    refine ⟨fun hleast => ?_, fun heff hover hprio hleast => ?_⟩
    · rw [exec_preemption, preempt_eq hall hready hv hleast]
      refine ⟨fun hlt hf => ?_, fun h => ?_⟩
      · rw [if_pos hlt]
        exact ⟨_, rfl, haltStrand_halted hc hv hx hf false⟩
      · rcases h with hle | hf
        · rw [if_neg (Nat.not_lt.2 hle)]
        · rw [haltStrand_frozen hx hf, ite_self]
    · rw [exec_quantumExpiry, quantum_eq hall hready hv heff hover hprio hleast]
      exact ⟨fun hf => ⟨_, rfl, haltStrand_halted hc hv hx hf false⟩, fun hf => by rw [haltStrand_frozen hx hf]⟩
  · rintro s c rfl h
    obtain ⟨hpre, hqua⟩ := preempt_quantum_of_none h
    rw [exec_preemption, exec_quantumExpiry, hpre, hqua]
    exact ⟨rfl, rfl⟩
  · intro s c x u hat t img n w
    obtain ⟨-, -, hc, hx⟩ := id hat
    rw [exec_saveComplete hat]
    refine ⟨fun hd => by rw [saveComplete_not_drained hd], fun hd hu hhalt hmoves => ⟨fun hat => by
      rw [saveComplete_begins hd hu hmoves hat], fun b hb => ⟨fun hearly => by
      rw [saveComplete_writing hd hu hmoves hhalt hb hearly], fun hend => ?_⟩⟩⟩
    obtain ⟨f, g, hf, hg, hz⟩ := saveComplete_ends hd hu hmoves hhalt hb hend rfl
    obtain ⟨hctx, hothers, hstrand⟩ := ctx_saved hc hx (saveBytes_sameCtxs s t img u.sess false) u
      (s.saveBytes t img u.sess false).1 hf hg
    obtain ⟨hnone, hsome⟩ := byteAt_saved s (s.saveBytes t img u.sess false).2 (by simp)
      (fun v => by rw [saveBytes_snd]; rfl) c x u (s.saveBytes t img u.sess false).1 f g
    exact ⟨_, congrArg Host.Outcome.next hz, hctx, hothers, hstrand, hnone, hsome, saveBytes_fst ..⟩
  · intro s sess f h va w b hmem hb hlen hok hlate hbank z
    have hbyte := byteAt_writeVa_of_page (f := f) hmem hb hlen hok hlate hbank
    refine ⟨fun k hk => ?_, fun y hy => ?_⟩
    · rw [hbyte, if_pos (by omega), Nat.add_sub_cancel_left]
    · rw [hbyte, if_neg (by omega)]
  · intro s c x h hat hchan hh t l n
    obtain ⟨-, -, hc, hx⟩ := id hat
    have hz := refillChan_becomes hc hx s h
    rw [exec_repushEntry hat hchan]
    refine ⟨fun hst => by rw [if_pos hst], fun hst => ⟨_, by rw [if_neg hst], refillChan_chan hc hh s x, ?_,
      hz.otherCtxs (by simp), ?_⟩⟩
    all_goals
      rw [hz.ctx, refilled]
      by_cases h1 : h = 1
      · simp only [h1, if_true, l, n, t]
      · simp only [h1, if_false, l, n, t]
  · rintro s c x t rfl hc ht hx k keeps
    rw [exec_contextSwitch]
    exact ⟨_, rfl, sameBytes_of_stored (by simp), contextSwitch_settles hc ht hx⟩

end Sys2Proof.Machine
end

section
/-! PROOFS. What ends a wait: parked strands, results, traps, EXIT and MODE (05 R118, R123, 06 R142, R146, R150, 16 R350). -/

namespace Sys2Proof.Machine

/-- The bits of a STATUS word that is put together from them (06 R154). -/
theorem getLsbD_statusOf (f h p : Bool) (old : DWord) : (Ctx.statusOf f h p old).getLsbD 0 = f ∧
    (Ctx.statusOf f h p old).getLsbD 1 = h ∧ (Ctx.statusOf f h p old).getLsbD 2 = p := by
  have hall : ∀ (n : Fin 4) (f h p : Bool), let w := BitVec.ofNat 64 (f.toNat + 2 * h.toNat + 4 * p.toNat + n.val * 8)
      w.getLsbD 0 = f ∧ w.getLsbD 1 = h ∧ w.getLsbD 2 = p := by
    decide
  exact hall ⟨old.toNat / 8 % 4, Nat.mod_lt _ (by decide)⟩ f h p

namespace State

/-! ## Parked strands (05 R123) -/

theorem strand?_modStrand {s : State} {a : Nat} {t : Strand} (h : s.strand? a = some t) {f : Strand → Strand}
    (hf : ∀ u, (f u).age = u.age) : (s.modStrand a f).strand? a = some (f t) := by
  have hsame : ((·.age == a) ∘ fun u : Strand => if u.age = a then f u else u) = (·.age == a) := by
    funext u
    simp only [Function.comp]
    split <;> simp [hf]
  rw [strand?] at h
  rw [strand?, modStrand, List.find?_map, hsame, h, Option.map_some, if_pos (age_of_strand? h)]

/-- The conditions of a parked strand that do not hold where they are looked at. -/
def unmet (s : State) (t : Strand) : List ParkCond := t.conds.filter fun k => !s.parkHolds t.sess k

/-- A strand that is looked at: READY where no condition is left. -/
def looked (s : State) (left : List ParkCond) (u : Strand) : Strand :=
  if left = [] then { u with st := .ready, readyAt := s.now, conds := [], asked := [] } else { u with conds := left }

theorem looked_pollAt (s : State) (left : List ParkCond) (u : Strand) : (s.looked left u).pollAt = u.pollAt := by
  unfold looked
  split <;> rfl

section
variable {s : State} {t : Strand}

theorem wakeStrand_of_not_parked (h : t.st ≠ .parked) : s.wakeStrand t = s := if_pos h

variable (hst : t.st = .parked) (hask : t.asked = [])
include hst hask

/-- A strand without reads outstanding goes on with the conditions that do not hold. -/
theorem wakeStrand_eq : s.wakeStrand t =
    if s.unmet t = t.conds ∧ s.unmet t ≠ [] then s else s.modStrand t.age (s.looked (s.unmet t)) := by
  simp only [wakeStrand, hst, hask, ne_eq, not_true, if_false, List.filter_nil, List.any_nil, Bool.not_false, Bool.and_true,
    List.flatMap_nil, acquireAway, if_true]
  rfl

theorem wakeStrand_of_all_hold (h : ∀ k ∈ t.conds, s.parkHolds t.sess k = true) :
    s.wakeStrand t = s.modStrand t.age (s.looked []) := by
  have hleft : s.unmet t = [] := List.filter_eq_nil_iff.2 (by simpa using h)
  rw [wakeStrand_eq hst hask, hleft, if_neg (by simp)]

theorem wakeStrand_of_none_holds (hne : t.conds ≠ []) (h : ∀ k ∈ t.conds, s.parkHolds t.sess k = false) : s.wakeStrand t = s := by
  have hleft : s.unmet t = t.conds := List.filter_eq_self.2 (by simpa using h)
  rw [wakeStrand_eq hst hask, hleft, if_pos ⟨rfl, hne⟩]

end

/-- A parked strand whose words are read again now. -/
def polled (s : State) (u : Strand) : Strand := { u with pollAt := s.now + Config.parkAfter, asked := [] }

section
variable {s : State} {t : Strand} {a : Nat} (ht : s.strand? a = some t)
include ht

theorem parkPoll_of_not_due (h : t.st ≠ .parked ∨ s.now < t.pollAt) : s.parkPoll a = s := by
  simp only [parkPoll, ht]
  exact if_pos h

variable (hst : t.st = .parked) (hdue : t.pollAt ≤ s.now)
  (hhere : ∀ k ∈ t.conds, ∃ p h q v, k = .waitw p q v ∧ s.parkHome t.sess p = some (.here h))
include hst hdue hhere

/-- Words on the device are looked at where they are, and nothing is asked for. -/
theorem parkPoll_eq : s.parkPoll a = (s.modStrand a s.polled).wakeStrand (s.polled t) := by
  have hdue' : ¬ (t.st ≠ .parked ∨ s.now < t.pollAt) := by simpa [hst] using hdue
  simp only [parkPoll, ht]
  rw [if_neg hdue', foldl_fixed]
  · have hstrand := strand?_modStrand ht (f := fun u => { u with pollAt := s.now + Config.parkAfter, asked := [] }) fun _ => rfl
    rw [hstrand]
    rfl
  · intro k hk
    obtain ⟨p, h, q, v, rfl, hhome⟩ := hhere k hk
    have hmod (f : Strand → Strand) : (s.modStrand a f).parkHome t.sess p = some (.here h) := hhome
    simp only [hmod, Option.bind_some, farOf]

theorem parkPoll_sameCtxs : SameCtxs s (s.parkPoll a) := by
  rw [parkPoll_eq ht hst hdue hhere, wakeStrand_eq (t := s.polled t) hst rfl]
  split
  · exact modStrand_sameCtxs ..
  · exact (modStrand_sameCtxs ..).trans (modStrand_sameCtxs ..)

/-- A polled strand is polled again 17,600 cycles later, and is READY where all its conditions hold. -/
theorem of_mem_parkPoll {u : Strand} (hu : u ∈ (s.parkPoll a).strands) (hage : u.age = a) : u.pollAt = s.now + 17600 ∧
    ((∀ k ∈ t.conds, s.parkHolds t.sess k = true) → u.st = .ready) := by
  have hpolled {v : Strand} (hv : v ∈ (s.modStrand a s.polled).strands) (hv' : v.age = a) : v.pollAt = s.now + 17600 := by
    obtain ⟨w, -, rfl, -⟩ := of_mem_modStrand hv hv'
    rfl
  have ha : (s.polled t).age = a := show t.age = a from age_of_strand? ht
  rw [parkPoll_eq ht hst hdue hhere] at hu
  refine ⟨?_, fun hall => ?_⟩
  · rw [wakeStrand_eq (t := s.polled t) hst rfl, ha] at hu
    split at hu
    · exact hpolled hu hage
    · obtain ⟨v, hv, rfl, hv'⟩ := of_mem_modStrand hu hage
      exact (looked_pollAt ..).trans (hpolled hv hv')
  · rw [wakeStrand_of_all_hold (s := s.modStrand a s.polled) (t := s.polled t) hst rfl hall, ha] at hu
    obtain ⟨v, -, rfl, -⟩ := of_mem_modStrand hu hage
    rfl

end

/-! ## Results, and a trap that waited (06 R142, R150) -/

section
variable {c x : Nat} (hc : c < 128) (hx : x < 4) (s : State)
include hc hx

/-- What is due lands, and a wait for the last of it ends. -/
theorem landEnd_becomes : let u := (s.ctx c x).landDue s.now
    let z := (s.modCtx c x fun t => t.landDue s.now).landEnd c x
    (u.wait ≠ .land ∨ u.pend ≠ [] → CtxBecomes s z c x u) ∧ (u.wait = .land → u.pend = [] → CtxBecomes s z c x (resume u)) := by
  intro u z
  have hland : CtxBecomes s (s.modCtx c x fun t => t.landDue s.now) c x u :=
    ((SameCtxs.refl s).becomes c x).modCtx hc hx fun t => t.landDue s.now
  simp only [z, landEnd, hland.ctx]
  refine ⟨fun h => ?_, fun hw hp => ?_⟩
  · rwa [if_neg (by tauto)]
  · rw [if_pos ⟨hw, hp⟩]
    exact hland.setCtx hc hx _

/-- The entry of a trap that may be taken. -/
def trapped (t : Ctx) (cause eva : DWord) : Ctx :=
  { t with
    sys := { t.sys with epc := t.pc, cause := cause, eva := eva, status := Ctx.statusOf false true t.fixed t.sys.status }
    pc := t.sys.tvec, nextPc := none, wait := .none, wait2 := .none, holds := [], since := none, met := [], parkMet := false
    far := [], mwait := false, stall := 3, out := .trapped
    st := if t.st = .draining ∨ t.halt.isSome then .draining else .issuable }

theorem enterTrap_becomes (htvec : (s.ctx c x).sys.tvec ≠ 0) (hhnd : (s.ctx c x).hnd = false) (cause eva : DWord) :
    CtxBecomes s (s.enterTrap c x cause eva) c x (trapped (s.ctx c x) cause eva) := by
  rw [enterTrap, if_neg fun h => h.elim htvec (by simp [hhnd])]
  exact ((SameCtxs.refl s).becomes c x).setCtx hc hx _

end

section
variable {s : State} {c x : Nat} {cause eva : DWord} (hwait : (s.ctx c x).wait = .trap cause eva)
include hwait

theorem trapEntry_waits (h : performedAll (s.ctx c x) = false ∨ (s.ctx c x).pend ≠ []) : s.trapEntry c x = s := by
  simp only [trapEntry, hwait]
  rcases h with h | h <;> simp [h]

theorem trapEntry_enters (hperf : performedAll (s.ctx c x) = true) (hpend : (s.ctx c x).pend = [])
    (hfault : (s.ctx c x).fault = none) :
    s.trapEntry c x = (s.setCtx c x { s.ctx c x with fault := none }).enterTrap c x cause eva := by
  simp only [trapEntry, hwait]
  rw [if_pos ⟨hperf, hpend⟩, hfault]
  rfl

end

/-- A fault that is met while the context waits for nothing becomes a trap that waits. -/
theorem trapEntry_of_fault {s : State} {c x : Nat} (hwait : (s.ctx c x).wait = .none) {f : DWord × DWord}
    (hf : (s.ctx c x).fault = some f) : s.trapEntry c x =
      s.setCtx c x { s.ctx c x with wait := .trap f.1 f.2, fault := none, since := none, met := [] } := by
  simp only [trapEntry, hwait, hf]

/-! ## The end of EXIT (16 R350) -/

section
variable {s : State} {c x a : Nat} {u : Strand} (hwait : (s.ctx c x).wait = .exit) (ha : (s.ctx c x).strand = some a)
include hwait ha

theorem strandDone_waits (h : (s.ctx c x).pend ≠ [] ∨ (s.ctx c x).repush0 ≠ [] ∨ (s.ctx c x).repush1 ≠ [] ∨
    s.matrixBusy c x = true ∨ s.tableBusy c x = true) : s.strandDone c x = s := by
  simp only [strandDone, hwait, ha]
  exact if_pos (by tauto)

theorem strandDone_ends (hu : s.strand? a = some u) (hk : u.killed = false) (hpend : (s.ctx c x).pend = [])
    (hacc : (s.ctx c x).accesses = []) (h0 : (s.ctx c x).repush0 = []) (h1 : (s.ctx c x).repush1 = [])
    (hm : s.matrixBusy c x = false) (ht : s.tableBusy c x = false) (hf : s.fwrAccepted c x = true) : s.strandDone c x =
      ((((s.leaveCrew a).releaseFeed a none).modStrand a fun v => { v with st := .done, ended := true, image :=
        { regs := (s.ctx c x).regs, sys := (s.ctx c x).sys, doneXfers := (s.ctx c x).doneXfers } }).setCtx c x
          { regs := (s.ctx c x).regs }) := by
  simp only [strandDone, hwait, ha]
  exact if_neg (by simp [hpend, hu, hk, acknowledgedAll, hacc, h0, h1, hm, ht, hf])

end

/-- What the end of an EXIT leaves. -/
theorem strandDone_leaves {s : State} {c x a : Nat} (hc : c < 128) (hx : x < 4) (r : Regs) (left : Ctx) :
    let z := (((s.leaveCrew a).releaseFeed a none).modStrand a fun v =>
      { v with st := .done, ended := true, image := left }).setCtx c x { regs := r }
    z.ctx c x = { regs := r } ∧ OtherCtxs s z c x ∧
      (∀ v ∈ z.strands, v.age = a → v.st = .done ∧ v.ended = true ∧ v.image = left) ∧
      (∀ v ∈ s.strands, v.age ≠ a → v ∈ z.strands) ∧ ∀ k ∈ z.crews, a ∉ k.members := by
  intro z
  have hleave : SameCtxs s ((s.leaveCrew a).releaseFeed a none) := ⟨fun _ _ => rfl, rfl, rfl, rfl, rfl⟩
  have hz : CtxBecomes s z c x { regs := r } := ((hleave.trans (modStrand_sameCtxs ..)).becomes c x).setCtx hc hx _
  refine ⟨hz.ctx, hz.otherCtxs (by simp [z]), fun v hv hage => ?_, fun v hv hage => ?_, fun k => not_mem_of_leaveCrew⟩
  · obtain ⟨u, -, rfl, -⟩ := of_mem_modStrand hv hage
    exact ⟨rfl, rfl, rfl⟩
  · exact List.mem_map.2 ⟨v, hv, if_neg hage⟩

/-! ## The end of MODE (06 R146) -/

section
variable {s : State} {c x : Nat} {f : Bool} (hwait : (s.ctx c x).wait = .mode f)
include hwait

theorem modeComplete_waits (h : s.drained c x = false ∨ s.fwrAccepted c x = false) : s.modeComplete c x = s := by
  simp only [modeComplete, hwait]
  exact if_pos (by simp; tauto)

theorem modeComplete_ends (hst : (s.ctx c x).st ≠ .draining) (hfault : (s.ctx c x).fault = none) (hd : s.drained c x = true)
    (hacc : s.fwrAccepted c x = true) : s.modeComplete c x =
      s.setCtx c x (retire { s.ctx c x with
        wait := .none, nextPc := none
        sys := { (s.ctx c x).sys with status := Ctx.statusOf f (s.ctx c x).hnd (s.ctx c x).pfixed (s.ctx c x).sys.status } }
          s.now (s.ctx c x).pend.length) := by
  simp only [modeComplete, hwait]
  exact if_neg (by simp [hst, hfault, hd, hacc])

end

/-- A bundle that closes no loop and is in no handler retires to the next one. -/
theorem retire_of_no_loops {t : Ctx} (hnext : t.nextPc = none) (hhnd : t.hnd = false) (hloops : t.loops = [])
    (hst : t.st ≠ .draining) (hhalt : t.halt = none) (now before : Nat) : let u := retire t now before
    u.pc = t.pc + 32 ∧ u.st = .issuable ∧ u.wait = t.wait ∧ u.sys = t.sys ∧ u.regs = t.regs := by
  have hbuffer : loopBuffer now 4 t [] = (t.pc + 32, t, []) := by simp [loopBuffer, hloops]
  simp [retire, hnext, hhnd, hbuffer, hst, hhalt]

/-- The end of MODE retires its bundle with the new FIXED bit. -/
theorem modeComplete_retires {s : State} {c x : Nat} {f : Bool} (hwait : (s.ctx c x).wait = .mode f)
    (hst : (s.ctx c x).st ≠ .draining) (hhalt : (s.ctx c x).halt = none) (hfault : (s.ctx c x).fault = none)
    (hd : s.drained c x = true) (hacc : s.fwrAccepted c x = true) (hloops : (s.ctx c x).loops = [])
    (hhnd : (s.ctx c x).hnd = false) : ∃ u, s.modeComplete c x = s.setCtx c x u ∧
      u.pc = (s.ctx c x).pc + 32 ∧ u.st = .issuable ∧ u.wait = .none ∧ u.fixed = f ∧ u.regs = (s.ctx c x).regs := by
  obtain ⟨hf, hh, -⟩ := getLsbD_statusOf f (s.ctx c x).hnd (s.ctx c x).pfixed (s.ctx c x).sys.status
  obtain ⟨hpc, hissue, hnone, hsys, hregs⟩ := retire_of_no_loops (t := { s.ctx c x with
    wait := .none, nextPc := none
    sys := { (s.ctx c x).sys with status := Ctx.statusOf f (s.ctx c x).hnd (s.ctx c x).pfixed (s.ctx c x).sys.status } })
      rfl (hh.trans hhnd) hloops hst hhalt s.now (s.ctx c x).pend.length
  exact ⟨_, modeComplete_ends hwait hst hfault hd hacc, hpc, hissue, hnone,
    (congrArg (·.status.getLsbD 0) hsys).trans hf, hregs⟩

end State
end Sys2Proof.Machine
end

section
/-! PROOFS. The end of CSAVE, of CLOAD and of a poll (20 R421, 21 R437, R438). -/

namespace Sys2Proof.Machine

/-! ## What an image holds (05 R124) -/

section
variable {b : List Byte} {o w : Nat}

/-- The bytes of an image that are read one by one are a stretch of it. -/
theorem map_getElem?_range (h : o + w ≤ b.length) : (List.range w).map (fun j => (b[o + j]?).getD 0) = (b.drop o).take w := by
  refine List.ext_getElem (by simp; omega) fun i hi _ => ?_
  have hib : o + i < b.length := by
    rw [List.length_map, List.length_range] at hi
    omega
  simp [hib]

theorem getD_imageRegs {n i : Nat} (hi : i < n) (h : o + n * w ≤ b.length) :
    (imageRegs b.toArray o w n).getD i 0 = ofBytes ((b.drop (o + i * w)).take w) := by
  have hiw : i * w + w ≤ n * w := by
    have := Nat.mul_le_mul_right w hi
    rwa [Nat.succ_mul] at this
  rw [← map_getElem?_range (by omega)]
  simp [imageRegs, hi]

/-- A word of an image. -/
def imageWord (b : List Byte) (o : Nat) : DWord := BitVec.ofNat 64 (ofBytes ((b.drop o).take 8))

theorem imageWord_eq (i : Nat) (ho : sysOff + 8 * i = o) (h : o + 8 ≤ b.length) : imageWord b o = imageSys b.toArray i := by
  rw [imageWord, ← map_getElem?_range h, ← ho]
  simp [imageSys, imageRegs]

end

theorem getD_vecOf {n w i : Nat} (hi : i < n) (l : List Nat) :
    ((vecOf l : Vector (BitVec w) n)[i]?).getD 0 = BitVec.ofNat w (l.getD i 0) := by
  simp [vecOf, hi]

section
variable {b : List Byte} (hb : b.length = 131072) {t k : Ctx}
include hb

/-- A context with the registers of an image. -/
theorem registers_of_image (hk : k.regs = (restoreImage t b.toArray).regs) :
    (∀ n : BitVec 6, n ≠ 0 → k.rg n = imageWord b (0x1_C000 + 8 * n.toNat)) ∧
      (∀ n, n < 8 → k.rm n = imageWord b (0x1_C200 + 8 * n)) ∧
      (∀ n, n < 16 → k.rfmt n = imageWord b (0x1_C380 + 8 * n)) ∧
      (∀ n, n < 384 → k.line n = BitVec.ofNat 2048 (ofBytes ((b.drop (256 * n)).take 256))) ∧
      ∀ n, n < 64 → k.acc n = BitVec.ofNat 2048 (ofBytes ((b.drop (0x1_8000 + 256 * n)).take 256) % 2 ^ 1200) := by
  unfold restoreImage at hk
  refine ⟨fun n hn => ?_, fun n hn => ?_, fun n hn => ?_, fun n hn => ?_, fun n hn => ?_⟩
  · rw [Ctx.rg, if_neg hn, hk, getD_vecOf n.isLt, getD_imageRegs n.isLt (by omega), imageWord, Nat.mul_comm]
  · rw [Ctx.rm, hk, getD_vecOf hn, getD_imageRegs hn (by omega), imageWord, Nat.mul_comm]
  · rw [Ctx.rfmt, hk, getD_vecOf hn, getD_imageRegs hn (by omega), imageWord, Nat.mul_comm]
  · rw [Ctx.line, hk, getD_vecOf hn, getD_imageRegs hn (by omega), Nat.zero_add, Nat.mul_comm]
  · rw [Ctx.acc, hk, getD_vecOf hn]
    have hmap := List.getD_map (l := imageRegs b.toArray 0x1_8000 256 64) (d := 0) (f := (· % 2 ^ 1200)) (n := n)
    rw [Nat.zero_mod] at hmap
    rw [hmap, getD_imageRegs hn (by omega), Nat.mul_comm]

/-- A context with the system registers of an image. -/
theorem sys_of_image (hk : k.sys = (restoreImage t b.toArray).sys) :
    k.sys.epc = imageWord b 0x1_CC98 &&& ~~~0x1F ∧ k.sys.tvec = imageWord b 0x1_CCA8 &&& ~~~0x1F ∧
      k.sys.rseed0 = imageWord b 0x1_CCC0 ∧ k.sys.rseed1 = imageWord b 0x1_CCC8 ∧
      k.fixed = (imageWord b 0x1_CCF8).getLsbD 0 := by
  unfold restoreImage at hk
  refine ⟨?_, ?_, ?_, ?_, ?_⟩
  · rw [imageWord_eq (o := 0x1_CC98) 3 rfl (by omega), hk]
  · rw [imageWord_eq (o := 0x1_CCA8) 5 rfl (by omega), hk]
  · rw [imageWord_eq (o := 0x1_CCC0) 8 rfl (by omega), hk]
  · rw [imageWord_eq (o := 0x1_CCC8) 9 rfl (by omega), hk]
  · rw [imageWord_eq (o := 0x1_CCF8) 15 rfl (by omega), Ctx.fixed, hk]
    exact (getLsbD_statusOf ..).1

theorem pc_of_image (hk : k.pc = (restoreImage t b.toArray).pc) : k.pc = imageWord b 0x1_CC80 := by
  rw [imageWord_eq (o := 0x1_CC80) 0 rfl (by omega), hk, restoreImage]

theorem locked_of_image (hk : k.locked = (restoreImage t b.toArray).locked) : k.locked = (imageWord b 0x1_CCF8).getLsbD 1 := by
  rw [imageWord_eq (o := 0x1_CCF8) 15 rfl (by omega), hk, restoreImage]

end

namespace State

/-! ## A context goes on (21 R434 to R438) -/

/-- The second wait of the bundle, or the end of its waits; what is kept besides. -/
theorem resume_keeps (t : Ctx) : (resume t).wait = t.wait2 ∧ (resume t).regs = t.regs ∧ (resume t).sys = t.sys ∧
    (resume t).pc = t.pc ∧ (resume t).locked = t.locked := by
  unfold resume
  split
  next => exact ⟨rfl, rfl, rfl, rfl, rfl⟩
  next h => exact ⟨(not_not.1 h).symm, rfl, rfl, rfl, rfl⟩

theorem restoreImage_wait2 (t : Ctx) (b : Array Byte) : (restoreImage t b).wait2 = t.wait2 := by
  unfold restoreImage
  rfl

theorem endWait_of_tlbi {s : State} {c x : Nat} {v : DWord} (h : (s.ctx c x).wait = .tlbi v) :
    s.endWait c x = s.setCtx c x (resume (s.ctx c x)) := by
  simp only [endWait, h]

theorem endWait_of_idle {s : State} {c x n : Nat} (h : (s.ctx c x).wait = .idle n) :
    s.endWait c x = if n + 1100 ≤ s.now then s.setCtx c x (resume (s.ctx c x)) else s := by
  simp only [endWait, h]
  rfl

theorem cloadComplete_waits {s : State} {c x : Nat} {b : List Byte} (h : (s.ctx c x).wait = .cload b)
    (hp : (s.ctx c x).pend ≠ []) : s.cloadComplete c x = s := by
  simp only [cloadComplete, h]
  exact if_pos hp

theorem cloadComplete_ends {s : State} {c x : Nat} {b : List Byte} (h : (s.ctx c x).wait = .cload b)
    (hp : (s.ctx c x).pend = []) : s.cloadComplete c x = s.setCtx c x { resume (restoreImage (s.ctx c x) b.toArray) with
      mwait := false, stall := Nat.max (s.ctx c x).stall transferStall } := by
  simp only [cloadComplete, h]
  exact if_neg (not_not.2 hp)

/-- The end of CLOAD: the context with the registers of the image. -/
theorem cloadComplete_restores {s : State} {c x : Nat} {b : List Byte} (hwait : (s.ctx c x).wait = .cload b)
    (hpend : (s.ctx c x).pend = []) : ∃ u, s.cloadComplete c x = s.setCtx c x u ∧ u.wait = (s.ctx c x).wait2 ∧
      u.pc = (restoreImage (s.ctx c x) b.toArray).pc ∧ u.sys = (restoreImage (s.ctx c x) b.toArray).sys ∧
      u.locked = (restoreImage (s.ctx c x) b.toArray).locked ∧ u.regs = (restoreImage (s.ctx c x) b.toArray).regs := by
  obtain ⟨hw, hregs, hsys, hpc, hlocked⟩ := resume_keeps (restoreImage (s.ctx c x) b.toArray)
  exact ⟨_, cloadComplete_ends hwait hpend, hw.trans (restoreImage_wait2 ..), hpc, hsys, hlocked, hregs⟩

/-! ## The bytes of CSAVE (21 R437) -/

section
variable {s : State} {p q : Piece} {h1 h2 : Nat} (hp : p.home = .here h1) (hq : q.home = .here h2)
include hp hq

theorem storePieces_two (sess : Nat) (f : Piece → List Byte) :
    s.storePieces sess [p, q] f = ((s.write h1 (f p)).write h2 (f q), []) := by
  simp only [storePieces, List.foldl_cons, List.foldl_nil, hp, hq]

theorem roomFor_two : s.roomFor [p, q] = true := by
  simp [roomFor, hp, hq, farOf]

theorem cutPieces_two : cutPieces [p, q] = [p, q] :=
  cutPieces_of_home (by simp [hp, hq])

end

theorem csaveComplete_waits {s : State} {c x : Nat} {a pc : DWord} (h : (s.ctx c x).wait = .csave a pc)
    (hp : (s.ctx c x).pend ≠ []) : s.csaveComplete c x = s := by
  simp only [csaveComplete, h]
  exact if_pos hp

/-- The image that CSAVE writes. -/
def csaveImage (s : State) (t : Ctx) (pc : DWord) (sess : Nat) : List Byte :=
  padTo areaBytes (fixedPart t pc (s.statusOfCtx t sess) (s.feedRecords t) (t.fixed.toNat + 2 * t.locked.toNat))

/-- The bytes of a piece of an image. -/
def pieceOf (b : List Byte) (p : Piece) : List Byte := (List.range p.len).map fun i => (b.toArray[p.off + i]?).getD 0

/-- The state after an image has been written to two pages. -/
def imageWritten (s : State) (c x sess : Nat) (b : List Byte) (p q : Piece) (h1 h2 : Nat) : State :=
  ((((s.modCtx c x resume).numbered.write h1 (pieceOf b p)).write h2 (pieceOf b q)).claimArrays sess [p, q]).heatOf sess [p, q]

theorem csaveComplete_ends {s : State} {c x : Nat} {a pc : DWord} (h : (s.ctx c x).wait = .csave a pc)
    (hpend : (s.ctx c x).pend = []) {p q : Piece} {h1 h2 sess : Nat} {w : Bool} (hp : p.home = .here h1) (hq : q.home = .here h2)
    (hsess : ((s.strandOf c x).map (·.sess)).getD 0 = sess)
    (hcheck : s.checkAccess sess .write a areaBytes = ([p, q], w, none)) (hw1 : s.pieceWaits p = false)
    (hw2 : s.pieceWaits q = false) :
    s.csaveComplete c x = s.imageWritten c x sess (s.csaveImage (s.ctx c x) pc sess) p q h1 h2 := by
  have hroom : ¬ ([p, q].any s.pieceWaits = true ∨ (!s.roomFor [p, q]) = true) := by simp [hw1, hw2, roomFor_two hp hq]
  simp only [csaveComplete, h, hsess, hcheck, cutPieces_two hp hq]
  rw [if_neg (not_not.2 hpend), if_neg (by simp), if_neg hroom, storePieces_two hp hq]
  rfl

@[simp] theorem length_pieceOf (b : List Byte) (p : Piece) : (pieceOf b p).length = p.len := by
  simp [pieceOf]

theorem getElem?_pieceOf (b : List Byte) {p : Piece} {k : Nat} (hk : k < p.len) :
    ((pieceOf b p)[k]?).getD 0 = b.getD (p.off + k) 0 := by
  simp [pieceOf, hk]

section
variable {s : State} {c x sess : Nat} (b : List Byte) (p q : Piece) (h1 h2 : Nat)

theorem imageWritten_becomes (hc : c < 128) (hx : x < 4) :
    CtxBecomes s (s.imageWritten c x sess b p q h1 h2) c x (resume (s.ctx c x)) := by
  have hseq := (((SameCtxs.refl s).becomes c x).modCtx hc hx resume).then_same (numbered_sameCtxs _)
  exact ((((hseq.then_same (write_sameCtxs ..)).then_same (write_sameCtxs ..)).then_same (claimArrays_sameCtxs ..)).then_same
    (heatOf_sameCtxs ..))

theorem byteAt_imageWritten (hmem : MemOk s) (y : Nat) : (s.imageWritten c x sess b p q h1 h2).byteAt y =
    if h2 ≤ y ∧ y < h2 + q.len then ((pieceOf b q)[y - h2]?).getD 0
    else if h1 ≤ y ∧ y < h1 + p.len then ((pieceOf b p)[y - h1]?).getD 0 else s.byteAt y := by
  have hw : (s.modCtx c x resume).numbered.byteAt y = s.byteAt y := sameBytes_of_stored (by simp) y
  have hm : MemOk (s.modCtx c x resume).numbered := hmem
  rw [imageWritten, sameBytes_of_stored ((heatOf_stored ..).trans (claimArrays_stored ..)) y, 
    Laws.Memory.write_get (Laws.Memory.write_wf hm.1 ..), Laws.Memory.write_get hm.1, hw, length_pieceOf, length_pieceOf]

end

/-- The bytes of an image in two pages that are apart. -/
theorem imageWritten_bytes {s : State} {c x sess : Nat} {b : List Byte} {p q : Piece} {h1 h2 : Nat} (hmem : MemOk s)
    (hp : p.len = 65536) (hq : q.len = 65536) (hp0 : p.off = 0) (hq0 : q.off = 65536) (hap : h1 + 65536 ≤ h2 ∨ h2 + 65536 ≤ h1) :
    let z := s.imageWritten c x sess b p q h1 h2
    (∀ k, k < 65536 → z.byteAt (h1 + k) = b.getD k 0 ∧ z.byteAt (h2 + k) = b.getD (65536 + k) 0) ∧
      ∀ y, (y < h1 ∨ h1 + 65536 ≤ y) → (y < h2 ∨ h2 + 65536 ≤ y) → z.byteAt y = s.byteAt y := by
  have hbyte := byteAt_imageWritten (c := c) (x := x) (sess := sess) b p q h1 h2 hmem
  rw [hp, hq] at hbyte
  refine ⟨fun k hk => ⟨?_, ?_⟩, fun y hy1 hy2 => ?_⟩
  · rw [hbyte, if_neg (by omega), if_pos (by omega), Nat.add_sub_cancel_left, getElem?_pieceOf b (hp ▸ hk), hp0, Nat.zero_add]
  · rw [hbyte, if_pos (by omega), Nat.add_sub_cancel_left, getElem?_pieceOf b (hq ▸ hk), hq0]
  · rw [hbyte, if_neg (by omega), if_neg (by omega)]

/-! ## A poll of a word that is away (20 R421) -/

/-- A poll whose read has answered. -/
def pollAnswered (s : State) (p : Nat × Nat × Nat × Nat) : Bool :=
  decide (p.2.2.2 + 1100 ≤ s.now) && ((s.request? p.2.1 p.2.2.1).bind (·.reply)).isSome

theorem pollAnswered_iff (s : State) (p : Nat × Nat × Nat × Nat) : s.pollAnswered p = true ↔
    p.2.2.2 + 1100 ≤ s.now ∧ ∃ q r, s.request? p.2.1 p.2.2.1 = some q ∧ q.reply = some r := by
  rw [pollAnswered, Bool.and_eq_true, decide_eq_true_eq, Option.isSome_iff_exists]
  simp only [Option.bind_eq_some_iff]
  tauto

theorem waitwPoll_becomes {c x : Nat} (hc : c < 128) (hx : x < 4) (s : State) : CtxBecomes s (s.waitwPoll c x) c x
    { s.ctx c x with polls := (s.ctx c x).polls.filter (!s.pollAnswered ·) } := by
  have hreq (l : List Request) : SameCtxs s { s with requests := l } := ⟨fun _ _ => rfl, rfl, rfl, rfl, rfl⟩
  exact ((hreq _).becomes c x).setCtx hc hx _

end State

end Sys2Proof.Machine
end

section
/-! PROOFS. The events that end a wait, at the context that each names: O45. -/

namespace Sys2Proof.Machine

open State

section
variable {s : State} {c x : Nat} (hat : AtCtx s c x)
include hat

theorem exec_park : exec .park s = .next (s.park c x) := by
  obtain ⟨rfl, rfl, -, -⟩ := hat
  rfl

theorem exec_resultLanding :
    exec .resultLanding s = .next (s.switchBack c x ((s.modCtx c x fun t => t.landDue s.now).landEnd c x)) := by
  obtain ⟨rfl, rfl, -, -⟩ := hat
  rfl

theorem exec_trapEntry : exec .trapEntry s = .next (s.switchBack c x (s.trapEntry c x)) := by
  obtain ⟨rfl, rfl, -, -⟩ := hat
  rfl

theorem exec_strandDone : exec .strandDone s = .next (s.strandDone c x) := by
  obtain ⟨rfl, rfl, -, -⟩ := hat
  rfl

theorem exec_modeComplete : exec .modeComplete s = .next (s.switchBack c x (s.modeComplete c x)) := by
  obtain ⟨rfl, rfl, -, -⟩ := hat
  rfl

theorem exec_tlbiComplete {v : DWord} (h : (s.ctx c x).wait = .tlbi v) :
    exec .tlbiComplete s = .next (s.switchBack c x (s.endWait c x)) := by
  obtain ⟨rfl, rfl, -, -⟩ := hat
  show execTlbiComplete s = _
  rw [execTlbiComplete, h]

theorem exec_idleEnd {n : Nat} (h : (s.ctx c x).wait = .idle n) : exec .idleEnd s = .next (s.switchBack c x (s.endWait c x)) := by
  obtain ⟨rfl, rfl, -, -⟩ := hat
  show execIdleEnd s = _
  rw [execIdleEnd, h]

theorem exec_waitwPoll : exec .waitwPoll s = .next (s.waitwPoll c x) := by
  obtain ⟨rfl, rfl, -, -⟩ := hat
  rfl

theorem exec_csaveComplete : exec .csaveComplete s = .next (s.switchBack c x (s.csaveComplete c x)) := by
  obtain ⟨rfl, rfl, -, -⟩ := hat
  rfl

theorem exec_cloadComplete : exec .cloadComplete s = .next (s.switchBack c x (s.cloadComplete c x)) := by
  obtain ⟨rfl, rfl, -, -⟩ := hat
  rfl

end

theorem exec_parkWake {s : State} {t : Strand} (h : s.strand? s.arg.age = some t) :
    exec .parkWake s = .next (s.wakeStrand t) := by
  show execParkWake s = _
  rw [execParkWake, h]

theorem exec_parkPoll (s : State) : exec .parkPoll s = .next (s.parkPoll s.arg.age) := rfl

/-! ## O45 -/

/-- Settles O45: each event that ends a wait, by what it needs and what it leaves. -/
theorem waitsEnd : Obligations.WaitsEnd := by
  refine ⟨?_, ?_, ?_, ?_, ?_, ?_, ?_, ?_, ?_, ?_⟩
  · intro s c x a hat ha hst hout hconds hwait hexits n hn
    obtain ⟨-, -, hc, hx⟩ := id hat
    rw [exec_park hat, park]
    simp only [hst, hout, hwait, hn, Option.getD_some, ne_eq, hconds, not_false_eq_true, true_and]
    refine ⟨fun hdue hf => ?_, fun h => ?_⟩
    · rw [if_pos ⟨by simp [hf], hdue⟩]
      exact ⟨_, rfl, startHalt_halted hc hx ha hexits true⟩
    · rw [if_neg]
      rintro ⟨hf, hdue⟩
      exact h.elim (Nat.not_lt.2 hdue) (by simpa using hf)
  · intro s t ht
    rw [exec_parkWake ht, exec_parkPoll]
    refine ⟨fun hst => ?_, fun hst hask => ⟨fun hall => ?_, fun hne hnone => ?_⟩, fun hst hlt => ?_, fun hst hdue hhere => ?_⟩
    · rw [wakeStrand_of_not_parked hst, parkPoll_of_not_due ht (.inl hst)]
      exact ⟨rfl, rfl⟩
    · rw [wakeStrand_of_all_hold hst hask hall]
      exact ⟨_, rfl, fun _ _ => ⟨rfl, rfl⟩, sameBytes_of_stored (by simp), rfl⟩
    · rw [wakeStrand_of_none_holds hst hask hne hnone]
    · rw [parkPoll_of_not_due ht (.inr hlt)]
    · refine ⟨_, rfl, ?_, sameBytes_of_stored (by simp), fun u hu hage => ?_⟩
      · intro d y
        rw [(parkPoll_sameCtxs ht hst hdue hhere).ctx]
        exact ⟨rfl, rfl⟩
      · exact of_mem_parkPoll ht hst hdue hhere hu (hage.trans (age_of_strand? ht))
  · intro s c x hat
    obtain ⟨-, -, hc, hx⟩ := id hat
    rw [exec_resultLanding hat]
    obtain ⟨hkeep, hgo⟩ := landEnd_becomes hc hx s
    refine ⟨_, rfl, ?_, fun h => (hkeep h).switchBack.ctx, fun hw hp => (hgo hw hp).switchBack.ctx⟩
    by_cases hw : ((s.ctx c x).landDue s.now).wait = .land ∧ ((s.ctx c x).landDue s.now).pend = []
    · exact (hgo hw.1 hw.2).switchBack.otherCtxs (by simp)
    · exact (hkeep (not_and_or.1 hw)).switchBack.otherCtxs (by simp)
  · intro s c x cause eva hat hwait t
    obtain ⟨-, -, hc, hx⟩ := id hat
    rw [exec_trapEntry hat]
    refine ⟨fun h => by rw [trapEntry_waits hwait h, switchBack_self], fun hperf hpend hfault htvec hhnd => ?_⟩
    rw [trapEntry_enters hwait hperf hpend hfault]
    have hset := State.setCtx_becomes hc hx s { s.ctx c x with fault := none }
    have henter := enterTrap_becomes hc hx (s.setCtx c x { s.ctx c x with fault := none })
    rw [hset.ctx] at henter
    have hz := (hset.trans (henter htvec hhnd cause eva)).switchBack (s := s)
    obtain ⟨hfixed, hh, hpfixed⟩ := getLsbD_statusOf false true t.fixed t.sys.status
    refine ⟨_, rfl, hz.otherCtxs (by simp), ?_⟩
    rw [hz.ctx]
    exact ⟨rfl, rfl, rfl, rfl, rfl, rfl, hh, hfixed, hpfixed, rfl⟩
  · intro s c x f hat hwait hf
    obtain ⟨-, -, hc, hx⟩ := id hat
    have hz := (State.setCtx_becomes hc hx s
      { s.ctx c x with wait := .trap f.1 f.2, fault := none, since := none, met := [] }).switchBack (s := s)
    rw [exec_trapEntry hat, trapEntry_of_fault hwait hf]
    refine ⟨_, rfl, hz.otherCtxs (by simp), ?_⟩
    rw [hz.ctx]
    exact ⟨rfl, rfl, rfl, rfl⟩
  · intro s c x a u hat hwait ha hu t
    obtain ⟨-, -, hc, hx⟩ := id hat
    rw [exec_strandDone hat]
    refine ⟨fun h => by rw [strandDone_waits hwait ha h], fun hk hpend hacc h0 h1 hm ht hf => ?_⟩
    rw [strandDone_ends hwait ha hu hk hpend hacc h0 h1 hm ht hf]
    obtain ⟨hctx, hothers, hdone, hrest, hcrews⟩ := strandDone_leaves (s := s) (a := a) hc hx t.regs
      { regs := t.regs, sys := t.sys, doneXfers := t.doneXfers }
    refine ⟨_, rfl, hctx, hothers, fun v hv hage => ?_, hrest, hcrews⟩
    obtain ⟨hst, hended, himage⟩ := hdone v hv hage
    rw [himage]
    exact ⟨hst, hended, rfl, rfl⟩
  · intro s c x f hat hwait
    obtain ⟨-, -, hc, hx⟩ := id hat
    rw [exec_modeComplete hat]
    refine ⟨fun h => by rw [modeComplete_waits hwait h, switchBack_self], fun hst hhalt hfault hd hacc hloops hhnd => ?_⟩
    obtain ⟨u, hu, hpc, hissue, hnone, hfixed, hregs⟩ := modeComplete_retires hwait hst hhalt hfault hd hacc hloops hhnd
    have hz := (State.setCtx_becomes hc hx s u).switchBack (s := s)
    refine ⟨_, congrArg (fun z => Host.Outcome.next (s.switchBack c x z)) hu, hz.otherCtxs (by simp), ?_⟩
    rw [hz.ctx]
    exact ⟨hnone, hfixed, hissue, hpc, hregs⟩
  · intro s c x hat
    obtain ⟨-, -, hc, hx⟩ := id hat
    have hgo := (State.setCtx_becomes hc hx s (resume (s.ctx c x))).switchBack (s := s)
    refine ⟨fun v hv => ?_, fun n hn => ?_, ?_⟩
    · rw [exec_tlbiComplete hat hv, endWait_of_tlbi hv]
      exact ⟨_, rfl, hgo.otherCtxs (by simp), hgo.ctx⟩
    · rw [exec_idleEnd hat hn, endWait_of_idle hn]
      refine ⟨fun h => by rw [if_neg (Nat.not_le.2 h), switchBack_self], fun h => ?_⟩
      rw [if_pos h]
      exact ⟨_, rfl, hgo.otherCtxs (by simp), hgo.ctx⟩
    · have hz := waitwPoll_becomes hc hx s
      refine ⟨_, exec_waitwPoll hat, hz.otherCtxs (by simp), by rw [hz.ctx], fun p => ?_⟩
      rw [hz.ctx, ← pollAnswered_iff]
      simp [List.mem_filter]
  · intro s c x a pc h1 h2 w1 w2 hat hmem hwait sess t
    obtain ⟨-, -, hc, hx⟩ := id hat
    rw [exec_csaveComplete hat]
    refine ⟨fun h => by rw [csaveComplete_waits hwait h, switchBack_self], fun hpend hcheck hw1 hw2 hap => ?_⟩
    rw [csaveComplete_ends hwait hpend rfl rfl rfl hcheck hw1 hw2]
    have hz (p q : Piece) := (imageWritten_becomes (sess := sess) (s.csaveImage t pc sess) p q h1 h2 hc hx).switchBack (s := s)
    obtain ⟨hw, hregs, -⟩ := resume_keeps t
    refine ⟨_, rfl, by rw [(hz ..).ctx, hw], by rw [(hz ..).ctx, hregs], ?_⟩
    simp only [sameBytes_of_stored (State.switchBack_stored ..) _]
    exact imageWritten_bytes hmem rfl rfl rfl rfl hap
  · intro s c x b hat hwait word
    obtain ⟨-, -, hc, hx⟩ := id hat
    rw [exec_cloadComplete hat]
    refine ⟨fun h => by rw [cloadComplete_waits hwait h, switchBack_self], fun hpend hb => ?_⟩
    obtain ⟨u, hu, hw, hpc, hsys, hlocked, hregs⟩ := cloadComplete_restores hwait hpend
    have hz := (State.setCtx_becomes hc hx s u).switchBack (s := s)
    obtain ⟨hepc, htvec, hseed0, hseed1, hfixed⟩ := sys_of_image hb hsys
    rw [hu]
    refine ⟨_, rfl, hz.otherCtxs (by simp), ?_⟩
    rw [hz.ctx]
    exact ⟨hw, pc_of_image hb hpc, hepc, htvec, hseed0, hseed1, hfixed, locked_of_image hb hlocked, registers_of_image hb hregs⟩

end Sys2Proof.Machine
end

section
/-! PROOFS. The predicate of a scalar slot, and the privileged forms (06 R137, R150, 21 R432, R439): O10. -/

namespace Sys2Proof.Machine

/-! ## A false predicate -/

section
variable {s : State} {pn : BitVec 1} {pk : BitVec 3} (hp : s.cur.pred pn pk = false)
include hp

/-- A scalar slot whose predicate is false performs nothing (06 R137). -/
theorem scalar_of_not_pred (f : State → State) : scalar pn pk s f = .next s := by simp [scalar, hp]

theorem intOp_of_not_pred (d : BitVec 6) (lat : Nat) (x : Ctx → DWord) : intOp pn pk d lat x s = .next s :=
  scalar_of_not_pred hp _

theorem fpOp_of_not_pred (f : FFmt) (d : BitVec 6) (fn : BitVec 3) (x : RMode → (BitVec 6 → FVal) → FRes) :
    fpOp pn pk f d fn s x = .next s := scalar_of_not_pred hp _

theorem fpMinMax_of_not_pred (f : FFmt) (d a b : BitVec 6) (most : Bool) : fpMinMax pn pk f d a b most s = .next s :=
  scalar_of_not_pred hp _

theorem fpCmp_of_not_pred (f : FFmt) (d c : BitVec 3) (a b : BitVec 6) : fpCmp pn pk f d c a b s = .next s :=
  scalar_of_not_pred hp _

/-- A privileged slot has its privilege checked first (21 R432). -/
theorem privileged_of_not_pred (hsys : s.isSystem s.curSess = true) (f : State → State) : privileged pn pk s f = .next s := by
  simp [privileged, hsys, scalar_of_not_pred hp]

end

theorem sysPriv_eq_false {s : State} {i : BitVec 9} (h : 0x100 ≤ i.toNat → s.isSystem s.curSess = true) :
    sysPriv s i = false := by
  by_cases hi : 0x100 ≤ i.toNat
  · simp [sysPriv, h hi]
  · simp [sysPriv, hi]

/-- Settles O10: every form with a predicate is a scalar slot once its privilege has been checked. -/
theorem falsePredicateDoesNothing : Obligations.FalsePredicateDoesNothing := by
  intro i s pn pk hg hp hsys
  cases i with
  | add | sub | and | or | xor | andn | sel | shl | shr | sar | rotl | min | max | minu | maxu | mul | mulh | mulhu | div | divu
  | rem | remu | clz | ctz | popc | brev | bswap | extf | insf | addi | andi | ori | xori | shli | shri | sari | li | lih =>
    cases hg
    dsimp only [exec]
    exact intOp_of_not_pred hp ..
  | faddF32 | fsubF32 | fmulF32 | ffmaF32 | faddF64 | fsubF64 | fmulF64 | ffmaF64 =>
    cases hg
    dsimp only [exec]
    exact fpOp_of_not_pred hp ..
  | fminF32 | fmaxF32 | fminF64 | fmaxF64 =>
    cases hg
    dsimp only [exec]
    exact fpMinMax_of_not_pred hp ..
  | fcmpF32 | fcmpF64 =>
    cases hg
    dsimp only [exec]
    exact fpCmp_of_not_pred hp ..
  | cmp | cmpi | kop | fcvt | b | call | callr | jr | loop | loopi | brk | trap | yield | exit | spawn | cnew | cjoin | cleave
  | cbar | mput | mget | eret =>
    cases hg
    dsimp only [exec]
    exact scalar_of_not_pred hp _
  | mfs pn pk d i =>
    cases hg
    exact (if_neg (by simp [sysPriv_eq_false fun h => hsys (decide_eq_true h)])).trans (scalar_of_not_pred hp _)
  | mts pn pk m a i =>
    cases hg
    exact (if_neg (by simp [sysPriv_eq_false fun h => hsys (decide_eq_true h)])).trans (scalar_of_not_pred hp _)
  | tlbi | halt | idle | csave | cload =>
    cases hg
    dsimp only [exec]
    exact privileged_of_not_pred hp (hsys rfl) _
  | _ => exact nomatch hg

end Sys2Proof.Machine
end

section
/-! PROOFS. System registers, read and written by number (06 R153 to R156, 16 R356, R357, 07 R172): O11. -/

namespace Sys2Proof.Machine

/-! ## MFS and MTS -/

section
variable {s : State} {pn : BitVec 1} {pk : BitVec 3} (hp : s.cur.pred pn pk = true)
include hp

theorem exec_mfs {i : BitVec 9} (hi : 0x100 ≤ i.toNat → s.isSystem s.curSess = true) (d : BitVec 6) :
    exec (.mfs pn pk d i) s = .next (s.putG d (s.sysReg i.toNat) 2) := by
  show execMfs pn pk d i s = _
  rw [execMfs, sysPriv_eq_false hi, scalar_of_pred hp]
  rfl

/-- What MFS gives is what its number reads. -/
theorem givesG_mfs {i : BitVec 9} {x : DWord} (hi : 0x100 ≤ i.toNat → s.isSystem s.curSess = true) (hx : s.sysReg i.toNat = x)
    (d : BitVec 6) : GivesG (.mfs pn pk d i) s d x 2 := hx ▸ exec_mfs hp hi d

theorem exec_mts {i : BitVec 9} (hi : i.toNat < 0x100) (m : BitVec 1) (a : BitVec 6) : exec (.mts pn pk m a i) s = .next
    (if m = 1 then
      let p := mixSeed (s.cur.rg a) s.curSess ((s.curStrand.map Strand.index).getD 0)
      (s.putR (.sys 0x012) (p.1.setWidth 2048) 1).putR (.sys 0x013) (p.2.setWidth 2048) 1
    else s.putR (.sys i.toNat) ((s.cur.rg a).setWidth 2048) 1) := by
  have hpriv : sysPriv s i = false := sysPriv_eq_false fun h => absurd h (Nat.not_le.2 hi)
  have hkill : i ≠ 0x108 := by
    rintro rfl
    exact absurd hi (by decide)
  show execMts pn pk m a i s = _
  rw [execMts, hpriv, scalar_of_pred hp, if_neg hkill]
  rfl

end

/-! ## Privilege -/

theorem privilegedFormsTrap_hold : PrivilegedFormsTrap := by
  intro i s hform hsys
  cases i with
  | mfs pn pk d i | mts pn pk m a i => exact if_pos (by simpa [sysPriv, hsys, systemForm] using hform)
  | tlbi | halt | idle | csave | cload =>
    dsimp only [exec]
    exact if_pos (by simp [hsys])
  | _ => exact nomatch hform

theorem systemRegisterReads_hold : SystemRegisterReads := by
  intro s pn pk d hp y k
  refine ⟨?_, fun t ht => givesG_mfs hp (fun h => absurd h (by decide)) (by simp [State.sysReg, ht]) d,
    fun hsys => ⟨?_, fun u hu => ?_⟩⟩
  · simp only [List.forall_mem_cons, List.not_mem_nil, false_imp_iff, implies_true, and_true]
    refine ⟨?_, ?_, ?_, ?_, ?_, ?_, ?_, ?_, ?_, ?_, ?_, ?_, ?_, ?_, ?_, ?_, ?_, ?_⟩
    all_goals exact givesG_mfs hp (fun h => absurd h (by decide)) rfl d
  · simp only [List.forall_mem_cons, List.not_mem_nil, false_imp_iff, implies_true, and_true]
    refine ⟨?_, ?_, ?_, ?_⟩
    all_goals exact givesG_mfs hp (fun _ => hsys) rfl d
  · exact givesG_mfs hp (fun _ => hsys) (by simp [State.sysReg, hu]) d

/-! ## The landing of MTS -/

/-- A pending result of the context in hand leaves the latency of the next one as it was. -/
theorem State.dueIn_push (s : State) (p : Pend) (lat : Nat) : (s.push p).dueIn lat = s.dueIn lat := by
  rcases State.ctx_modCtx_cases s s.curCore s.curCtx s.curCore s.curCtx
    (fun c => { c with pend := c.pend ++ [{ p with wall := s.wallOf p.due, order := s.slotOrder }] }) with h | h <;>
  · have hcur : (s.push p).cur = _ := h
    rw [dueIn, hcur]
    rfl

/-- Two results of one latency are due at one moment. -/
theorem State.putR_putR (s : State) (d e : Dest) (x y : BitVec 2048) (lat : Nat) : (s.putR d x lat).putR e y lat =
    (s.push { dest := d, data := x, due := s.dueIn lat }).push { dest := e, data := y, due := s.dueIn lat } :=
  congrArg (fun n => (s.putR d x lat).push { dest := e, data := y, due := n }) (dueIn_push ..)

namespace Ctx

/-- What MTS has written lands. -/
theorem landOne_sys (c : Ctx) (n : Nat) (x : DWord) :
    c.landOne { dest := .sys n, data := x.setWidth 2048 } = { c with sys := mtsSys c.sys n x } := by
  have hx : (x.setWidth 2048).setWidth 64 = x := by
    rw [BitVec.setWidth_setWidth_of_le _ (by decide), BitVec.setWidth_eq]
  simp [landOne, hx]

theorem landOne_g_sys (c : Ctx) {p : Pend} {n : Nat} (h : p.dest = .g n) :
    (c.landOne p).sys = { c.sys with fpflags := c.sys.fpflags ||| p.flags.setWidth 64 } := by
  simp only [landOne, h]
  split <;> rfl

/-- The system registers that MTS writes: they land before the flags of the same cycle (16 R357). -/
def isSysDest (p : Pend) : Bool := match p.dest with | .sys _ => true | _ => false

theorem landAll_eq (c : Ctx) (ps : List Pend) :
    let z := (ps.filter isSysDest ++ ps.filter (!isSysDest ·)).foldl landOne c
    c.landAll ps = if anyCollision ps then { z with sys := { z.sys with status := z.sys.status ||| 0x8 } } else z := rfl

theorem fpflags_landAll (c : Ctx) (ps : List Pend) : (c.landAll ps).sys.fpflags =
    ((ps.filter isSysDest ++ ps.filter (!isSysDest ·)).foldl landOne c).sys.fpflags := by
  rw [landAll_eq]
  split <;> rfl

/-- A collision sets DWC (06 R143). -/
theorem dwc_landAll {c : Ctx} {ps : List Pend} (h : anyCollision ps = true) : (c.landAll ps).sys.status.getLsbD 3 = true := by
  simp [landAll_eq, h]

end Ctx

theorem systemRegisterWrites_hold : SystemRegisterWrites := by
  refine ⟨fun s pn pk a i hp hi => ⟨exec_mts hp hi 0 a, fun t ht => ?_⟩, fun c x => ?_⟩
  · intro x v turn p
    rw [exec_mts hp hi 1 a, if_pos rfl, State.putR_putR, ht]
    rfl
  · intro y w gives
    refine ⟨?_, ?_, ?_, ?_, ?_, ?_, ?_, ?_, ?_, fun p n hp => ?_, fun p q n hp hq hpl hql hpb hqb => ?_⟩
    iterate 9 exact Ctx.landOne_sys c _ x
    · have hland : ((c.landOne (w 0x010)).landOne p).sys.fpflags = (y.fpflags &&& ~~~(x &&& 0x1F)) ||| p.flags.setWidth 64 := by
        rw [Ctx.landOne_g_sys _ hp, Ctx.landOne_sys]
        rfl
      simp only [List.forall_mem_cons, List.not_mem_nil, false_imp_iff, implies_true, and_true]
      constructor
      · rw [Ctx.fpflags_landAll]
        simpa [List.filter_cons, Ctx.isSysDest, hp, w] using hland
      · rw [Ctx.fpflags_landAll]
        simpa [List.filter_cons, Ctx.isSysDest, hp, w] using hland
    · have hpq : Ctx.collide p q = true := by simp [Ctx.collide, hp, hq, hpl, hqb, hpb, Ctx.nothing, hql, Ctx.Dest.hard]
      have hany : Ctx.anyCollision [w 0x000, p, q] = true := by simp [Ctx.anyCollision, hpq]
      exact Ctx.dwc_landAll hany

/-- Settles O11: what MFS gives is what its number reads, and a write of MTS lands before the flags and the collisions of its
cycle. -/
theorem systemRegisters : Obligations.SystemRegisters :=
  ⟨privilegedFormsTrap_hold, systemRegisterReads_hold, systemRegisterWrites_hold⟩

end Sys2Proof.Machine
end

section
/-! PROOFS. The taking of a trap, software traps and the return (06 R149 to R154, 16 R348): O7. -/

namespace Sys2Proof.Machine

/-! ## STATUS and waits -/

/-- The sticky bits of STATUS outlive a change of its region (06 R154). -/
theorem getLsbD_statusOf_sticky (f h p : Bool) (old : DWord) : (Ctx.statusOf f h p old).getLsbD 3 = old.getLsbD 3 ∧
    (Ctx.statusOf f h p old).getLsbD 4 = old.getLsbD 4 := by
  have hall : ∀ (n : Fin 4) (f h p : Bool), let w := BitVec.ofNat 64 (f.toNat + 2 * h.toNat + 4 * p.toNat + n.val * 8)
      w.getLsbD 3 = n.val.testBit 0 ∧ w.getLsbD 4 = n.val.testBit 1 := by
    decide
  have hbit (k : Nat) (hk : k < 2) : (old.toNat / 8 % 4).testBit k = old.getLsbD (k + 3) := by
    rw [show (4 : Nat) = 2 ^ 2 from rfl, show (8 : Nat) = 2 ^ 3 from rfl, Nat.testBit_mod_two_pow, Nat.testBit_div_two_pow]
    simp [hk, BitVec.getLsbD]
  obtain ⟨h3, h4⟩ := hall ⟨old.toNat / 8 % 4, Nat.mod_lt _ (by decide)⟩ f h p
  exact ⟨h3.trans (hbit 0 (by decide)), h4.trans (hbit 1 (by decide))⟩

/-- A context that is to wait for something more keeps all else. -/
theorem addWait_eq (c : Ctx) (w : Wait) : c.addWait w = { c with wait := (c.addWait w).wait, wait2 := (c.addWait w).wait2 } := by
  unfold Ctx.addWait
  split <;> rfl

namespace State

/-! ## The taking of a trap -/

/-- Nothing of the context is outstanding that a trap entry waits for (06 R150, 08 R199). -/
def Quiet (k : Ctx) : Prop := k.pend = [] ∧ ∀ x ∈ k.accesses, x.posted = true

section
variable {s : State} (code sub : Nat) (eva : DWord)

theorem trapWith_of_quiet (hq : Quiet s.cur) : s.trapWith code sub eva =
    (s.enterTrap s.curCore s.curCtx (causeOf code s.curSlot sub) eva).outcome .trapped :=
  if_pos ⟨List.all_eq_true.2 hq.2, hq.1⟩

theorem trapWith_of_not_quiet (hq : ¬ Quiet s.cur) : s.trapWith code sub eva = s.modCur fun k =>
    { k with wait := .trap (causeOf code s.curSlot sub) eva, since := none, met := [], out := .trapped } :=
  if_neg fun h => hq ⟨h.2, List.all_eq_true.1 h.1⟩

/-- A trap enters its handler, where there is one and the context is not in one. -/
theorem trapWith_becomes_trapped (hs : s.InHand) (hq : Quiet s.cur) (htvec : s.cur.sys.tvec ≠ 0) (hhnd : s.cur.hnd = false) :
    CurBecomes s (s.trapWith code sub eva) (trapped s.cur (causeOf code s.curSlot sub) eva) := by
  have hno : ¬ ((s.ctx s.curCore s.curCtx).sys.tvec = 0 ∨ (s.ctx s.curCore s.curCtx).hnd = true) :=
    fun h => h.elim htvec (by simp [show (s.ctx s.curCore s.curCtx).hnd = false from hhnd])
  rw [trapWith_of_quiet code sub eva hq, enterTrap, if_neg hno]
  exact ((SameCtxs.refl s).curBecomes.modCur hs fun k => trapped k (causeOf code s.curSlot sub) eva).outcome hs .trapped

/-- A trap waits for what is outstanding. -/
theorem trapWith_becomes_waiting (hs : s.InHand) (hq : ¬ Quiet s.cur) : CurBecomes s (s.trapWith code sub eva)
    { s.cur with wait := .trap (causeOf code s.curSlot sub) eva, since := none, met := [], out := .trapped } := by
  rw [trapWith_of_not_quiet code sub eva hq]
  exact (SameCtxs.refl s).curBecomes.modCur hs _

end

/-! ## The return -/

theorem eretTo_becomes {s : State} (hs : s.InHand) : CurBecomes s s.eretTo { s.cur.addWait .land with
    sys := { s.cur.sys with status := Ctx.statusOf s.cur.pfixed false s.cur.pfixed s.cur.sys.status }
    nextPc := some s.cur.sys.epc } := by
  have h := (SameCtxs.refl s).curBecomes.modCur hs fun c => { c.addWait .land with
    sys := { c.sys with status := Ctx.statusOf c.pfixed false c.pfixed c.sys.status }, nextPc := some c.sys.epc }
  exact h

end State

/-- BRK and TRAP are traps of their slot. -/
theorem exec_brk_or_trap {s : State} {pn : BitVec 1} {pk : BitVec 3} {op : Instr} {code : Nat} (hp : s.cur.pred pn pk = true)
    (h : (op = .brk pn pk ∧ code = 0x12) ∨ (op = .trap pn pk ∧ code = 0x13)) : exec op s = .next (s.trapWith code 0 0) := by
  rcases h with ⟨rfl, rfl⟩ | ⟨rfl, rfl⟩
  · exact scalar_of_pred hp fun s => s.trap 0x12
  · exact scalar_of_pred hp fun s => s.trap 0x13

theorem exec_eret {s : State} {pn : BitVec 1} {pk : BitVec 3} (hp : s.cur.pred pn pk = true) : exec (.eret pn pk) s =
    .next (if !s.cur.hnd then s.trap 0x03 else s.eretTo.modCur fun c => { c with stall := 3 }) :=
  scalar_of_pred hp fun s => if !s.cur.hnd then s.trap 0x03 else s.eretTo.modCur fun c => { c with stall := State.transferStall }

theorem softwareTraps_hold : SoftwareTrapsEnterTheHandler := by
  intro s pn pk op code hs hp hop cause quiet
  have hcause : State.causeOf code s.curSlot 0 = cause := by
    have hcode : ¬ code ≤ 4 := by omega
    simp [State.causeOf, cause, hcode]
  have hbytes : SameBytes s (s.trapWith code 0 0) := sameBytes_of_stored (by simp)
  refine ⟨fun hq htvec hhnd => ⟨_, exec_brk_or_trap hp hop, ?_⟩, fun hq => ⟨_, exec_brk_or_trap hp hop, ?_⟩⟩
  · have h := State.trapWith_becomes_trapped code 0 0 hs hq htvec hhnd
    obtain ⟨hf, hh, hpf⟩ := getLsbD_statusOf false true s.cur.fixed s.cur.sys.status
    obtain ⟨h3, h4⟩ := getLsbD_statusOf_sticky false true s.cur.fixed s.cur.sys.status
    rw [hcause] at h
    rw [h.cur]
    exact ⟨rfl, rfl, rfl, hf, hh, hpf, h3, h4, rfl, rfl, rfl, rfl, hbytes⟩
  · have h := State.trapWith_becomes_waiting code 0 0 hs hq
    rw [hcause] at h
    rw [h.cur]
    exact ⟨rfl, rfl, rfl, rfl, rfl, rfl, rfl, hbytes⟩

theorem returnFromHandler_holds : ReturnFromHandler := by
  intro s pn pk hs hp
  refine ⟨fun hh => ⟨s.eretTo.modCur fun c => { c with stall := 3 }, by simp [exec_eret hp, hh], ?_⟩, fun hh => by
    simp [exec_eret hp, hh]⟩
  have h := (State.eretTo_becomes hs).modCur hs fun c => { c with stall := 3 }
  obtain ⟨hf, hnd, hpf⟩ := getLsbD_statusOf s.cur.pfixed false s.cur.pfixed s.cur.sys.status
  rw [h.cur, addWait_eq]
  exact ⟨rfl, hf, hnd, hpf, rfl, fun hw => wait_addWait_of_none hw _, rfl, rfl, rfl, rfl, rfl, sameBytes_of_stored (by simp)⟩

/-- Settles O7: a software trap enters its handler at once or waits for what is outstanding, and ERET undoes the entry. -/
theorem trapAndReturn : Obligations.TrapAndReturn := ⟨softwareTraps_hold, returnFromHandler_holds⟩

end Sys2Proof.Machine
end

section
/-! PROOFS. The end of a session by a trap or by KILL (06 R150, 05 R118, 21 R439): O8. -/

namespace Sys2Proof.Machine

namespace State

/-- The sessions that a kill does not name stay as they were, and those it names are marked. -/
theorem killSession_sessions (s : State) (n : Nat) :
    (∀ u ∈ (s.killSession n).sessions, u.id = n → u.killed = true) ∧
    (∀ u ∈ (s.killSession n).sessions, u.id ≠ n → u ∈ s.sessions) ∧
    (∀ u ∈ s.sessions, u.id ≠ n → u ∈ (s.killSession n).sessions) := by
  obtain ⟨-, -, hsessions, -⟩ := killSession_facts s n
  rw [hsessions]
  refine ⟨fun u hu hn => ?_, fun u hu hn => ?_, fun u hu hn => List.mem_map.2 ⟨u, hu, if_neg hn⟩⟩
  all_goals
    obtain ⟨t, ht, rfl⟩ := List.mem_map.1 hu
    by_cases hid : t.id = n
  · rw [if_pos hid]
  · rw [if_neg hid] at hn
    exact absurd hn hid
  · rw [if_pos hid] at hn
    exact absurd hid hn
  · rw [if_neg hid]
    exact ht

/-- A kill completes the launches of the session it names, with FAULT where they are not complete, and no other. -/
theorem killSession_launches (s : State) (n : Nat) :
    (∀ l ∈ s.launches, l.sess = n →
      { l with status := if l.status = 0 then 0x21 else l.status } ∈ (s.killSession n).launches) ∧
    (∀ l ∈ s.launches, l.sess ≠ n → l ∈ (s.killSession n).launches) := by
  obtain ⟨-, hlaunches, -, -⟩ := killSession_facts s n
  rw [hlaunches]
  refine ⟨fun l hl hn => List.mem_map.2 ⟨l, hl, ?_⟩, fun l hl hn => List.mem_map.2 ⟨l, hl, if_neg fun h => hn h.1⟩⟩
  by_cases h0 : l.status = 0
  · rw [if_pos ⟨hn, h0⟩, if_pos h0]
  · rw [if_neg fun h => h0 h.2, if_neg h0]

/-- A session without a strand loses none. -/
theorem killSession_strands {s : State} {n : Nat} (h : ∀ u ∈ s.strands, u.sess ≠ n) :
    (s.killSession n).strands = s.strands := by
  have hnone : s.strands.filter (·.sess == n) = [] := List.filter_eq_nil_iff.2 fun u hu => by simpa using h u hu
  refine (endStrands_facts _ n).1.trans ?_
  have hid : s.endedStrands n = s.strands.map id :=
    List.map_congr_left fun t _ => if_neg (by simp [hnone])
  exact hid.trans (List.map_id _)

/-- A trap that no handler can take ends the session of its strand. -/
theorem trapWith_kills {s : State} {t : Strand} (hs : s.InHand) (ht : s.curStrand = some t) (code sub : Nat) (eva : DWord)
    (hq : Quiet s.cur) (hno : s.cur.sys.tvec = 0 ∨ s.cur.hnd = true) : ∃ y : State, y.launches = s.launches ∧
      y.sessions = s.sessions ∧ s.trapWith code sub eva = (y.killSession t.sess).outcome .trapped := by
  refine ⟨s.modCur fun k => { k with wait := .none, wait2 := .none }, rfl, rfl, ?_⟩
  have hstrand : (s.modCur fun k => { k with wait := .none, wait2 := .none }).strandOf s.curCore s.curCtx = some t := by
    have hk : (s.modCur fun k => { k with wait := .none, wait2 := .none }).cur.strand = s.cur.strand := by rw [cur_modCur hs]
    exact (congrArg (·.bind s.strand?) hk).trans ht
  have hsess := congrArg (fun o => (o.map Strand.sess).getD 0) hstrand
  rw [trapWith_of_quiet code sub eva hq]
  refine congrArg (outcome · .trapped) ((if_pos hno).trans ?_)
  exact congrArg (killSession _) hsess

end State

theorem trapWithoutHandler_holds : TrapWithoutHandlerKillsSession := by
  intro s t code sub eva hs ht hacc hpend hno z
  obtain ⟨y, hl, hy, hz⟩ := State.trapWith_kills hs ht code sub eva ⟨hpend, hacc⟩ hno
  have hbytes : SameBytes s z := sameBytes_of_stored (by simp [z])
  obtain ⟨hdone, -, -, -⟩ := State.killSession_facts y t.sess
  obtain ⟨hmarked, hother, -⟩ := State.killSession_sessions y t.sess
  obtain ⟨hlaunches, -⟩ := State.killSession_launches y t.sess
  refine ⟨hbytes, ?_⟩
  simp only [z, hz, ← hl, ← hy]
  exact ⟨hdone, hlaunches, hmarked, hother⟩

theorem killEndsASession_holds : KillEndsASession := by
  intro s pn pk a hp hsys
  have hexec : exec (.mts pn pk 0 a 0x108) s = .next (s.killSession ((s.cur.rg a).toNat % 64)) := by
    refine (if_neg (by simp [sysPriv_eq_false fun _ => hsys])).trans ((scalar_of_pred hp _).trans ?_)
    rfl
  refine ⟨_, hexec, ?_⟩
  intro n
  obtain ⟨hdone, -, -, -⟩ := State.killSession_facts s n
  obtain ⟨hmarked, -, hkept⟩ := State.killSession_sessions s n
  obtain ⟨hended, hothers⟩ := State.killSession_launches s n
  exact ⟨sameBytes_of_stored (by simp), hdone, hended, hothers, hmarked, hkept, State.killSession_strands⟩

/-- Settles O8: both end by the kill of one session. -/
theorem sessionEnds : Obligations.SessionEnds := ⟨trapWithoutHandler_holds, killEndsASession_holds⟩

end Sys2Proof.Machine
end

section
/-! PROOFS. The bundle that follows: transfers and the loop buffer (06 R135, R148): O55. -/

namespace Sys2Proof.Machine

/-! ## The loop buffer (06 R148) -/

/-- The loop buffer's write of the counter of level `v`. -/
def counterWrite (c : Ctx) (now : Nat) (v : LoopLevel) : Pend :=
  { dest := .lc v.depth, data := (c.rlc v.depth - 1).setWidth 2048
    due := if c.fixed then .issue (c.issue + 1) else .cycle (now + 1)
    wall := now + 1, order := c.issue * 8 }

/-- The loop buffer changes no more of a context than its levels. -/
theorem loopBuffer_ctx (now n : Nat) (c : Ctx) (ps : List Pend) :
    ∃ ls, (loopBuffer now n c ps).2.1 = { c with loops := ls } := by
  induction n generalizing c ps with
  | zero => exact ⟨c.loops, rfl⟩
  | succ n ih =>
    rw [loopBuffer]
    split
    · exact ⟨c.loops, rfl⟩
    · dsimp only
      split
      · exact ⟨c.loops, rfl⟩
      · exact ih _ _

/-- No level ends here. -/
theorem loopBuffer_of_none {c : Ctx} (h : ∀ v ∈ c.loops, v.last ≠ c.pc) (now n : Nat) (ps : List Pend) :
    loopBuffer now n c ps = (c.pc + 32, c, ps) := by
  cases n with
  | zero => rfl
  | succ n =>
    have hfind : c.loops.reverse.find? (·.last == c.pc) = none :=
      List.find?_eq_none.2 fun v hv => by simpa using h v (List.mem_reverse.1 hv)
    rw [loopBuffer, hfind]

/-- The innermost level that ends here is `v`: it goes back, or it closes and the levels outside it decide. -/
theorem loopBuffer_of_level {c : Ctx} {outer inner : List LoopLevel} {v : LoopLevel} (hl : c.loops = outer ++ v :: inner)
    (hin : ∀ u ∈ inner, u.last ≠ c.pc) (hv : v.last = c.pc) (now n : Nat) (ps : List Pend) : loopBuffer now (n + 1) c ps =
      if c.rlc v.depth - 1 ≠ 0 then (v.start, c, ps ++ [counterWrite c now v])
      else loopBuffer now n { c with loops := outer ++ inner } (ps ++ [counterWrite c now v]) := by
  have hrev : c.loops.reverse = inner.reverse ++ v :: outer.reverse := by simp [hl]
  have hfind : c.loops.reverse.find? (·.last == c.pc) = some v := by
    rw [hrev, List.find?_append, List.find?_eq_none.2 fun u hu => by simpa using hin u (List.mem_reverse.1 hu)]
    simp [hv]
  have herase : (c.loops.reverse.erase v).reverse = outer ++ inner := by
    rw [hrev, List.erase_append_right _ fun hmem => hin v (List.mem_reverse.1 hmem) hv]
    simp
  rw [loopBuffer, hfind]
  dsimp only
  rw [herase]
  rfl

/-! ## The end of an issue -/

/-- The end of an issue counts the bundle, forgets its transfer, and changes no register. -/
theorem retire_keeps (t : Ctx) (now n : Nat) : let u := retire t now n
    u.issue = t.issue + 1 ∧ u.nextPc = none ∧ u.regs = t.regs ∧ u.sys = t.sys ∧ u.before = none := by
  unfold retire
  dsimp only
  split
  · exact ⟨rfl, rfl, rfl, rfl, rfl⟩
  · split
    · exact ⟨rfl, rfl, rfl, rfl, rfl⟩
    · obtain ⟨ls, h⟩ := loopBuffer_ctx now 4 t []
      rw [h]
      exact ⟨rfl, rfl, rfl, rfl, rfl⟩

theorem retire_of_transfer {t : Ctx} {a : DWord} (h : t.nextPc = some a) (now n : Nat) : let u := retire t now n
    u.pc = a ∧ u.loops = t.loops ∧ u.pend = t.pend := by
  unfold retire
  rw [h]
  exact ⟨rfl, rfl, rfl⟩

/-- Outside a handler the loop buffer gives the address, the levels and the counters' writes. -/
theorem retire_of_buffer {t : Ctx} (hnext : t.nextPc = none) (hhnd : t.hnd = false) (now n : Nat) : let u := retire t now n
    u.pc = (loopBuffer now 4 t []).1 ∧ u.loops = (loopBuffer now 4 t []).2.1.loops ∧
    u.pend = t.pend.take n ++ (loopBuffer now 4 t []).2.2 ++ t.pend.drop n := by
  obtain ⟨ls, h⟩ := loopBuffer_ctx now 4 t []
  unfold retire
  simp [hnext, hhnd, h]

theorem retire_of_no_level {t : Ctx} (hnext : t.nextPc = none) (hno : t.hnd = true ∨ ∀ v ∈ t.loops, v.last ≠ t.pc)
    (now n : Nat) : let u := retire t now n
    u.pc = t.pc + 32 ∧ u.loops = t.loops ∧ u.pend = t.pend := by
  cases hhnd : t.hnd with
  | true => simp [retire, hnext, hhnd]
  | false =>
    obtain ⟨hpc, hloops, hpend⟩ := retire_of_buffer hnext hhnd now n
    rw [loopBuffer_of_none (hno.resolve_left (by simp [hhnd]))] at hpc hloops hpend
    exact ⟨hpc, hloops, by simpa using hpend⟩

section
variable {t : Ctx} {outer inner : List LoopLevel} {v : LoopLevel} (hnext : t.nextPc = none) (hhnd : t.hnd = false)
  (hl : t.loops = outer ++ v :: inner) (hin : ∀ u ∈ inner, u.last ≠ t.pc) (hv : v.last = t.pc)
include hnext hhnd hl hin hv

/-- The innermost level that ends here goes back to its start. -/
theorem retire_of_level_again (hk : t.rlc v.depth - 1 ≠ 0) (now n : Nat) : let u := retire t now n
    u.pc = v.start ∧ u.loops = t.loops ∧ u.pend = t.pend.take n ++ counterWrite t now v :: t.pend.drop n := by
  obtain ⟨hpc, hloops, hpend⟩ := retire_of_buffer hnext hhnd now n
  rw [loopBuffer_of_level hl hin hv, if_pos hk] at hpc hloops hpend
  exact ⟨hpc, hloops, by simpa using hpend⟩

/-- The one level that ends here closes. -/
theorem retire_of_level_closed (hk : t.rlc v.depth - 1 = 0) (hout : ∀ u ∈ outer, u.last ≠ t.pc) (now n : Nat) :
    let u := retire t now n
    u.pc = t.pc + 32 ∧ u.loops = outer ++ inner ∧ u.pend = t.pend.take n ++ counterWrite t now v :: t.pend.drop n := by
  obtain ⟨hpc, hloops, hpend⟩ := retire_of_buffer hnext hhnd now n
  have hrest : ∀ u ∈ ({ t with loops := outer ++ inner } : Ctx).loops, u.last ≠ t.pc := fun u hu =>
    (List.mem_append.1 hu).elim (hout u) (hin u)
  rw [loopBuffer_of_level hl hin hv, if_neg (not_not_intro hk), loopBuffer_of_none hrest] at hpc hloops hpend
  exact ⟨hpc, hloops, by simpa using hpend⟩

end

theorem CurBecomes.of_eq {s z : State} {k l : Ctx} (h : CurBecomes s z k) (e : k = l) : CurBecomes s z l := e ▸ h

namespace State

/-- The context of a bundle whose slots have all performed, as its issue ends. -/
def issuing (s : State) (bar : Bool) : Ctx :=
  { s.cur with arrivedIn := if bar then none else s.cur.arrivedIn, out := .done }

theorem issueBundle_becomes {s : State} (hs : s.InHand) (hw : ∀ f, s.cur.wait ≠ .mode f) (n : Nat) (bar : Bool) :
    CurBecomes s (s.issueBundle n bar) (retire (s.issuing bar) s.now n) := by
  have hcrew : CurBecomes s (if s.cur.exits then s.leaveCrew s.curAge else s) s.cur := by
    split
    · exact ⟨rfl, fun _ _ _ => rfl, rfl, rfl, rfl, rfl⟩
    · exact (SameCtxs.refl s).curBecomes
  have hbar (b : Bool) {z : State} (hz : CurBecomes s z s.cur) :
      CurBecomes s (if b then z.modCur fun c => { c with arrivedIn := none } else z)
        { s.cur with arrivedIn := if b then none else s.cur.arrivedIn } := by
    cases b with
    | true => exact hz.modCur hs _
    | false => exact hz
  refine ((hbar bar hcrew).modCur hs _).of_eq ?_
  dsimp only
  split
  · next hmode => exact absurd hmode (hw _)
  · rw [(hbar bar hcrew).now]
    rfl

theorem issueBundle_crews (s : State) (n : Nat) (bar : Bool) :
    (s.issueBundle n bar).crews = (if s.cur.exits then s.leaveCrew s.curAge else s).crews := by
  unfold issueBundle
  cases bar <;> simp only [modCur_crews, if_true, Bool.false_eq_true, if_false]

end State

/-- Settles O55: a taken transfer, the loop buffer's levels from the innermost outwards, or the next in line. -/
theorem nextBundle : Obligations.NextBundle := by
  intro s n bar hs hw t
  have h := State.issueBundle_becomes hs hw n bar
  obtain ⟨hissue, hnext, hregs, hsys, hbefore⟩ := retire_keeps (s.issuing bar) s.now n
  have hcrews : t.crews = _ := State.issueBundle_crews s n bar
  rw [h.cur]
  refine ⟨hissue, hnext, hregs, hsys, sameBytes_of_stored (by simp [t]), fun he => ?_, hbefore, fun k hk he => ?_,
    fun a ha => ?_, fun ha hno => ?_,
    fun outer inner v ha hhnd hl hin hv => ?_⟩
  · simp [hcrews, he]
  · rw [hcrews, if_pos he] at hk
    exact State.not_mem_of_leaveCrew hk
  · exact retire_of_transfer (t := s.issuing bar) ha s.now n
  · exact retire_of_no_level (t := s.issuing bar) ha hno s.now n
  · intro k
    have hagain := retire_of_level_again (t := s.issuing bar) ha hhnd hl hin hv
    have hclosed := retire_of_level_closed (t := s.issuing bar) ha hhnd hl hin hv
    refine ⟨fun hor => ?_, fun hk => ?_, fun hk hout => ?_⟩
    · by_cases hk : k = 0
      · exact ⟨_, (hclosed hk (hor.resolve_left (not_not_intro hk)) s.now n).2.2, rfl, rfl, rfl⟩
      · exact ⟨_, (hagain hk s.now n).2.2, rfl, rfl, rfl⟩
    · obtain ⟨hpc, hloops, -⟩ := hagain hk s.now n
      exact ⟨hpc, hloops⟩
    · obtain ⟨hpc, hloops, -⟩ := hclosed hk hout s.now n
      exact ⟨hpc, hloops⟩

end Sys2Proof.Machine
end

section
/-! PROOFS. The landing of results: what a landing writes and leaves, and when it comes (06 R138, R142, R143, 17 R360): O13. -/

namespace Sys2Proof.Machine

/-! ## Registers of a file -/

section
variable {α : Type} {n : Nat} (v : Vector α n) {i j : Nat} (x d : α)

theorem getD_setIfInBounds_ne (h : i ≠ j) : (v.setIfInBounds i x)[j]?.getD d = v[j]?.getD d := by
  rw [Vector.getElem?_setIfInBounds_ne h]

theorem getD_setIfInBounds_self (h : i < n) : (v.setIfInBounds i x)[i]?.getD d = x := by
  rw [Vector.getElem?_setIfInBounds_self_of_lt h]
  rfl

end

/-! ## The bytes that a mask enables -/

theorem byteOf_toNat (x : Line) (j : Nat) : (byteOf x j).toNat = x.toNat / 256 ^ j % 256 := by
  rw [byteOf, BitVec.extractLsb'_toNat, Nat.shiftRight_eq_div_pow, Nat.pow_mul]

theorem mergeGo_lt (n o w k : Nat) : Ctx.mergeBytes.go n o w k < 256 ^ n := by
  induction n generalizing o w k with
  | zero => exact Nat.one_pos
  | succ n ih =>
    have hrest := ih (o / 256) (w / 256) (k / 2)
    have hlow : (if k % 2 = 1 then w % 256 else o % 256) < 256 := by split <;> omega
    rw [Ctx.mergeBytes.go, Nat.pow_succ]
    omega

/-- Byte `j` of the merge of the low `n` bytes. -/
theorem mergeGo_byte {n j : Nat} (hj : j < n) (o w k : Nat) : Ctx.mergeBytes.go n o w k / 256 ^ j % 256 =
    if k.testBit j then w / 256 ^ j % 256 else o / 256 ^ j % 256 := by
  induction n generalizing j o w k with
  | zero => exact absurd hj (Nat.not_lt_zero j)
  | succ n ih =>
    rw [Ctx.mergeBytes.go]
    cases j with
    | zero =>
      simp only [Nat.pow_zero, Nat.div_one, Nat.testBit_zero, decide_eq_true_eq]
      split <;> omega
    | succ j =>
      have hlow : (if k % 2 = 1 then w % 256 else o % 256) < 256 := by split <;> omega
      have hdiv (a : Nat) : a / 256 ^ (j + 1) = a / 256 / 256 ^ j := by rw [Nat.pow_succ', Nat.div_div_eq_div_mul]
      rw [hdiv, hdiv, hdiv, Nat.testBit_succ, ← ih (Nat.lt_of_succ_lt_succ hj), Nat.add_mul_div_left _ _ (by decide),
        Nat.div_eq_of_lt hlow, Nat.zero_add]

/-- A merge takes the bytes that the mask enables, and keeps the others (17 R360). -/
theorem byteOf_mergeBytes (old new : Line) (mask : QReg) {j : Nat} (hj : j < 256) :
    byteOf (Ctx.mergeBytes old new mask) j = if mask.getLsbD j then byteOf new j else byteOf old j := by
  unfold Ctx.mergeBytes
  split
  · next hall => rw [hall, BitVec.getLsbD_allOnes, if_pos (by simpa using hj)]
  · have hlt : Ctx.mergeBytes.go 256 old.toNat new.toNat mask.toNat < 2 ^ 2048 := by
      rw [Nat.pow_mul (a := 2) (m := 8) (n := 256)]
      exact mergeGo_lt 256 ..
    refine BitVec.eq_of_toNat_eq ?_
    rw [byteOf_toNat, BitVec.toNat_ofNat, Nat.mod_eq_of_lt hlt, mergeGo_byte hj, apply_ite BitVec.toNat,
      byteOf_toNat, byteOf_toNat]
    rfl

theorem getLsbD_one_shiftLeft (m : Nat) {n : Nat} (hn : n < 8) : (1#8 <<< m).getLsbD n = decide (m = n) := by
  rw [BitVec.getLsbD_shiftLeft, BitVec.getLsbD_one, Bool.eq_iff_iff]
  simp only [Bool.and_eq_true, Bool.not_eq_true', decide_eq_true_eq, decide_eq_false_iff_not]
  omega

namespace Ctx

/-! ## The landing of one result -/

/-- The registers of a context when a result other than a BLOCK increment has landed. -/
def landedRegs (c : Ctx) (p : Pend) : Regs :=
  let r := c.regs
  match p.dest with
  | .g n => { r with g := if n = 0 ∨ nothing p then r.g else r.g.setIfInBounds n (p.data.setWidth 64) }
  | .k n => { r with k := if n = 0 then r.k else if p.data.getLsbD 0 then r.k ||| (1#8 <<< n) else r.k &&& ~~~(1#8 <<< n) }
  | .q n => { r with q := if n = 0 then r.q else
      r.q.setIfInBounds n ((p.data.setWidth 256 &&& p.mask) ||| (r.q[n]?.getD 0 &&& ~~~p.mask)) }
  | .line n => { r with line := r.line.setIfInBounds n (mergeBytes (c.line n) p.data p.mask) }
  | .m n => { r with m := r.m.setIfInBounds n (p.data.setWidth 64) }
  | .fmt n => { r with fmt := r.fmt.setIfInBounds n (p.data.setWidth 64) }
  | .lc n => { r with lc := r.lc.setIfInBounds n (p.data.setWidth 32) }
  | .shp n =>
    let old := (c.rshp (n / 16)).toNat
    let lo := n % 16 * 64
    let new := old - bits old (lo + 63) lo * 2 ^ lo + (p.data.toNat % 2 ^ 64) * 2 ^ lo
    { r with shp := r.shp.setIfInBounds (n / 16) (BitVec.ofNat 1024 new) }
  | .sys _ => r

/-- The system registers when a result has landed: flags are ORed in, and MTS writes its own (16 R357). -/
def landedSys (c : Ctx) (p : Pend) : Sys :=
  match p.dest with
  | .sys n => mtsSys { c.sys with fpflags := c.sys.fpflags ||| p.flags.setWidth 64 } n (p.data.setWidth 64)
  | _ => { c.sys with fpflags := c.sys.fpflags ||| p.flags.setWidth 64 }

section
variable (c : Ctx) {p : Pend} (hb : p.bump = false)
include hb

theorem landOne_eq : c.landOne p = { c with regs := c.landedRegs p, sys := c.landedSys p } := by
  unfold landOne landedRegs landedSys
  cases hd : p.dest with
  | g n | k n | q n =>
    dsimp only
    split <;> rfl
  | m n => simp [hb]
  | line n | fmt n | lc n | shp n | sys n => rfl

/-! A register other than the result's own stands. -/

theorem landOne_rg_ne {n : BitVec 6} (h : p.dest ≠ .g n.toNat) : (c.landOne p).rg n = c.rg n := by
  rw [landOne_eq c hb]
  unfold rg landedRegs
  cases hd : p.dest with
  | g m =>
    have hne : m ≠ n.toNat := fun he => h (by rw [hd, he])
    dsimp only
    split
    · rfl
    · split
      · rfl
      · rw [getD_setIfInBounds_ne _ _ _ hne]
  | _ => rfl

theorem landOne_rk_ne {n : BitVec 3} (h : p.dest ≠ .k n.toNat) : (c.landOne p).rk n = c.rk n := by
  rw [landOne_eq c hb]
  unfold rk landedRegs
  cases hd : p.dest with
  | k m =>
    have hbit := getLsbD_one_shiftLeft m n.isLt
    have hne : m ≠ n.toNat := fun he => h (by rw [hd, he])
    rw [decide_eq_false hne] at hbit
    dsimp only
    split
    · rfl
    · split
      · simp [hbit]
      · rw [BitVec.getLsbD_and, BitVec.getLsbD_not, hbit]
        simp [n.isLt]
  | _ => rfl

theorem landOne_rq_ne {n : BitVec 3} (h : p.dest ≠ .q n.toNat) : (c.landOne p).rq n = c.rq n := by
  rw [landOne_eq c hb]
  unfold rq landedRegs
  cases hd : p.dest with
  | q m =>
    have hne : m ≠ n.toNat := fun he => h (by rw [hd, he])
    dsimp only
    split
    · rfl
    · split
      · rfl
      · rw [getD_setIfInBounds_ne _ _ _ hne]
  | _ => rfl

theorem landOne_line_ne {n : Nat} (h : p.dest ≠ .line n) : (c.landOne p).line n = c.line n := by
  rw [landOne_eq c hb]
  unfold line landedRegs
  cases hd : p.dest with
  | line m => exact getD_setIfInBounds_ne _ _ _ fun he => h (by rw [hd, he])
  | _ => rfl

theorem landOne_rm_ne {n : Nat} (h : p.dest ≠ .m n) : (c.landOne p).rm n = c.rm n := by
  rw [landOne_eq c hb]
  unfold rm landedRegs
  cases hd : p.dest with
  | m m => exact getD_setIfInBounds_ne _ _ _ fun he => h (by rw [hd, he])
  | _ => rfl

theorem landOne_rfmt_ne {n : Nat} (h : p.dest ≠ .fmt n) : (c.landOne p).rfmt n = c.rfmt n := by
  rw [landOne_eq c hb]
  unfold rfmt landedRegs
  cases hd : p.dest with
  | fmt m => exact getD_setIfInBounds_ne _ _ _ fun he => h (by rw [hd, he])
  | _ => rfl

theorem landOne_rlc_ne {n : Nat} (h : p.dest ≠ .lc n) : (c.landOne p).rlc n = c.rlc n := by
  rw [landOne_eq c hb]
  unfold rlc landedRegs
  cases hd : p.dest with
  | lc m => exact getD_setIfInBounds_ne _ _ _ fun he => h (by rw [hd, he])
  | _ => rfl

theorem landOne_rshp_ne {n : Nat} (h : ∀ k, k / 16 = n → p.dest ≠ .shp k) : (c.landOne p).rshp n = c.rshp n := by
  rw [landOne_eq c hb]
  unfold rshp landedRegs
  cases hd : p.dest with
  | shp m => exact getD_setIfInBounds_ne _ _ _ fun he => h m he hd
  | _ => rfl

theorem landOne_sys_ne (h : ∀ n, p.dest ≠ .sys n) :
    (c.landOne p).sys = { c.sys with fpflags := c.sys.fpflags ||| p.flags.setWidth 64 } := by
  rw [landOne_eq c hb]
  unfold landedSys
  cases hd : p.dest with
  | sys n => exact absurd hd (h n)
  | _ => rfl

/-! The result's own register takes it. -/

theorem landOne_rg_self {n : BitVec 6} (h : p.dest = .g n.toNat) (hn : n ≠ 0) (hl : p.byLane = false) :
    (c.landOne p).rg n = p.data.setWidth 64 := by
  have hwrites : ¬ (n.toNat = 0 ∨ nothing p = true) := by
    simpa [nothing, hl] using fun he => hn (BitVec.eq_of_toNat_eq he)
  rw [landOne_eq c hb, rg, if_neg hn]
  simp only [landedRegs, h, if_neg hwrites]
  exact getD_setIfInBounds_self _ _ _ n.isLt

theorem landOne_rk_self {n : BitVec 3} (h : p.dest = .k n.toNat) (hn : n ≠ 0) : (c.landOne p).rk n = p.data.getLsbD 0 := by
  have hnat : n.toNat ≠ 0 := fun he => hn (BitVec.eq_of_toNat_eq he)
  have hbit := getLsbD_one_shiftLeft n.toNat n.isLt
  rw [decide_eq_true rfl] at hbit
  rw [landOne_eq c hb, rk, beq_eq_false_iff_ne.2 hn]
  simp only [landedRegs, h, if_neg hnat, Bool.false_or]
  cases p.data.getLsbD 0 <;> simp [hbit]

theorem landOne_rq_self {n : BitVec 3} (h : p.dest = .q n.toNat) (hn : n ≠ 0) {j : Nat} (hj : j < 256) :
    ((c.landOne p).rq n).getLsbD j = if p.mask.getLsbD j then p.data.getLsbD j else (c.rq n).getLsbD j := by
  have hnat : n.toNat ≠ 0 := fun he => hn (BitVec.eq_of_toNat_eq he)
  rw [landOne_eq c hb, rq, rq, if_neg hn, if_neg hn]
  simp only [landedRegs, h, if_neg hnat]
  rw [getD_setIfInBounds_self _ _ _ n.isLt, BitVec.getLsbD_or, BitVec.getLsbD_and, BitVec.getLsbD_and, BitVec.getLsbD_not,
    BitVec.getLsbD_setWidth]
  cases p.mask.getLsbD j <;> simp [hj]

theorem landOne_line_self {n : Nat} (h : p.dest = .line n) (hn : n < 384) :
    (c.landOne p).line n = mergeBytes (c.line n) p.data p.mask := by
  rw [landOne_eq c hb]
  simp only [landedRegs, h]
  exact getD_setIfInBounds_self _ _ _ hn

theorem landOne_rlc_self {n : Nat} (h : p.dest = .lc n) (hn : n < 4) : (c.landOne p).rlc n = p.data.setWidth 32 := by
  rw [landOne_eq c hb]
  simp only [landedRegs, h]
  exact getD_setIfInBounds_self _ _ _ hn

end
end Ctx

theorem hardwiredRegisters_hold : HardwiredRegisters := by
  refine fun c p => ⟨rfl, rfl, rfl, fun h => ?_⟩
  rcases h with h | h | h <;> simp [Ctx.landOne, h]

theorem resultsLandInTheirRegister_hold : ResultsLandInTheirRegister := by
  intro c p hb t
  have heq : t = _ := c.landOne_eq hb
  have hacc : (c.landedRegs p).acc = c.regs.acc ∧ (c.landedRegs p).feed = c.regs.feed := by
    unfold Ctx.landedRegs
    split <;> exact ⟨rfl, rfl⟩
  refine ⟨by rw [heq], by rw [heq], by rw [heq], by rw [heq], by rw [heq, hacc.1], by rw [heq, hacc.2], c.landOne_sys_ne hb,
    fun _ => c.landOne_rg_ne hb, fun _ => c.landOne_rk_ne hb, fun _ => c.landOne_rq_ne hb, fun _ => c.landOne_line_ne hb,
    fun _ => c.landOne_rm_ne hb, fun _ => c.landOne_rfmt_ne hb, fun _ => c.landOne_rlc_ne hb, fun _ => c.landOne_rshp_ne hb,
    fun _ => c.landOne_rg_self hb, fun _ => c.landOne_rk_self hb, fun _ hd hn _ hj => c.landOne_rq_self hb hd hn hj,
    fun n hd hn j hj => ?_, fun _ => c.landOne_rlc_self hb⟩
  rw [c.landOne_line_self hb hd hn, byteOf_mergeBytes _ _ _ hj]

/-! ## The landing of what is due -/

theorem State.modCtx_sameRegs (s : State) (c x : Nat) (f : Ctx → Ctx) (hf : ∀ k, (f k).regs = k.regs ∧ (f k).sys = k.sys) :
    SameRegs s (s.modCtx c x f) := by
  intro d y
  by_cases hc : c = d
  · subst hc
    by_cases hx : x = y
    · subst hx
      rcases State.ctx_modCtx_cases s c x c x f with h | h
      · rw [h]
        exact ⟨rfl, rfl⟩
      · rw [h]
        exact hf _
    · have hkeep : (s.modCtx c x f).ctx c y = s.ctx c y := State.ctx_setCtx_ne s c x y _ hx
      rw [hkeep]
      exact ⟨rfl, rfl⟩
  · have hkeep : (s.modCtx c x f).ctx d y = s.ctx d y :=
      congrArg (fun k : Core => k.ctxs[y]?.getD {}) (State.core_setCtx_ne s c d x _ hc)
    rw [hkeep]
    exact ⟨rfl, rfl⟩

namespace Ctx

theorem landBump_true (c : Ctx) (n : Nat) : c.landBump n true = { c with
    regs := { c.regs with m := c.regs.m.setIfInBounds n (bumpM7 (c.rm n)) }
    sys := if (c.rm n).toNat % 65536 = 0x7FFF then { c.sys with status := c.sys.status ||| 0x10 } else c.sys } := by
  rw [landBump, if_pos rfl]
  by_cases hsat : (c.rm n).toNat % 65536 = 0x7FFF
  · rw [if_pos hsat, if_pos hsat]
    rfl
  · rw [if_neg hsat, if_neg hsat]

/-- What is pending, and the claims, have no part in a landing. -/
theorem landOne_waiting (c : Ctx) (p : Pend) (ps : List Pend) (ks : List MClaim) :
    { c with pend := ps, claims := ks }.landOne p = { c.landOne p with pend := ps, claims := ks } := by
  unfold landOne
  cases p.dest with
  | g n | k n | q n =>
    dsimp only
    split <;> rfl
  | m n =>
    cases p.bump with
    | false => rfl
    | true =>
      cases p.data.getLsbD 0 with
      | false => rfl
      | true =>
        dsimp only
        rw [if_pos rfl, if_pos rfl, landBump_true, landBump_true]
        rfl
  | line n | fmt n | lc n | shp n | sys n => rfl

theorem landOne_keeps (c : Ctx) (p : Pend) : (c.landOne p).pend = c.pend ∧ (c.landOne p).claims = c.claims := by
  have h := landOne_waiting c p c.pend c.claims
  exact ⟨(congrArg pend h :), (congrArg claims h :)⟩

theorem landAll_keeps (c : Ctx) (ps : List Pend) : (c.landAll ps).pend = c.pend ∧ (c.landAll ps).claims = c.claims := by
  have hfold (qs : List Pend) : (qs.foldl landOne c).pend = c.pend ∧ (qs.foldl landOne c).claims = c.claims :=
    Laws.Memory.foldl_keeps (fun k : Ctx => k.pend = c.pend ∧ k.claims = c.claims) _ (fun k p hk =>
      ⟨(landOne_keeps k p).1.trans hk.1, (landOne_keeps k p).2.trans hk.2⟩) qs ⟨rfl, rfl⟩
  rw [landAll_eq]
  dsimp only
  split <;> exact hfold _

theorem landAll_single (c : Ctx) (p : Pend) : c.landAll [p] = c.landOne p := by
  cases h : isSysDest p <;> simp [landAll_eq, anyCollision, h]

theorem landClaims_pend (c : Ctx) (f : MClaim → Bool) : (c.landClaims f).pend = c.pend := by
  refine Laws.Memory.foldl_keeps (fun z : Ctx => z.pend = c.pend) _ (fun z k hz => ?_) _ rfl
  show (List.foldl _ z k.tileData).pend = c.pend
  refine Laws.Memory.foldl_keeps (fun z : Ctx => z.pend = c.pend) _ ?_ k.tileData hz
  exact fun _ _ h => h

theorem landClaims_of_no_claims {c : Ctx} (h : c.claims = []) (f : MClaim → Bool) : c.landClaims f = c := by
  cases c
  subst h
  rfl

theorem landDue_pend (c : Ctx) (t : Nat) : (c.landDue t).pend = c.pend.filter (!c.pendDue t ·) :=
  (landClaims_pend _ _).trans (Laws.Memory.foldl_keeps (fun z : Ctx => z.pend = c.pend.filter (!c.pendDue t ·)) _
    (fun z _ hz => (landAll_keeps z _).1.trans hz) _ rfl)

/-- Where the context has no claim, the results that are due land, moment by moment. -/
theorem landDue_of_no_claims {c : Ctx} (h : c.claims = []) (t : Nat) : let due := c.pend.filter (c.pendDue t)
    c.landDue t = (sortedKeys (due.map fun p => Due.key p.due)).foldl
      (fun z k => z.landAll (due.filter fun p => Due.key p.due == k)) { c with pend := c.pend.filter (!c.pendDue t ·) } := by
  intro due
  have hclaims (f : MClaim → MClaim) : ({ c with pend := c.pend.filter (!c.pendDue t ·), claims := c.claims.map f } : Ctx) =
      { c with pend := c.pend.filter (!c.pendDue t ·) } := by simp only [h, List.map_nil]
  unfold landDue
  dsimp only
  rw [hclaims]
  refine landClaims_of_no_claims ?_ _
  exact Laws.Memory.foldl_keeps (fun z : Ctx => z.claims = []) _ (fun z _ hz => (landAll_keeps z _).2.trans hz) _ h

theorem pendDue_iff (c : Ctx) (t : Nat) (p : Pend) : c.pendDue t p = true ↔ Due.reached c.issue t p.due = true ∨
    (c.waiting = true ∧ p.wall ≤ t ∧ ∀ n, p.due ≠ .access n) := by
  cases hd : p.due <;> simp [pendDue, hd]

end Ctx

theorem resultsLandWhenDue_hold : ResultsLandWhenDue := by
  refine ⟨fun s p => ⟨State.modCtx_sameRegs _ _ _ _ fun _ => ⟨rfl, rfl⟩, sameBytes_of_stored (by simp), rfl, fun hs => ?_⟩,
    fun c t => ⟨c.landDue_pend t, c.pendDue_iff t, fun p hp hc hd => ?_, fun p q m n hpq hc hp hq hnm hmt => ?_,
      fun hno hc => ?_⟩⟩
  · rw [State.push, State.cur_modCur hs]
  · have hone : c.landDue t = ({ c with pend := [] } : Ctx).landOne p := by
      rw [Ctx.landDue_of_no_claims hc]
      simp [hp, hd, Ctx.sortedKeys, Ctx.insertKey, Ctx.landAll_single]
    rw [hone]
    have hland := c.landOne_waiting p [] c.claims
    exact ⟨(congrArg Ctx.regs hland :), (congrArg Ctx.sys hland :)⟩
  · have hpd : c.pendDue t p = true := (c.pendDue_iff t p).2 (.inl (by simpa [hp, Ctx.Due.reached] using hmt))
    have hqd : c.pendDue t q = true := (c.pendDue_iff t q).2 (.inl (by simpa [hq, Ctx.Due.reached] using by omega))
    have hmn : ¬ m < n := by omega
    have hne : m ≠ n := by omega
    have htwo : c.landDue t = (({ c with pend := [] } : Ctx).landOne q).landOne p := by
      rw [Ctx.landDue_of_no_claims hc]
      simp [hpq, hpd, hqd, Ctx.sortedKeys, Ctx.insertKey, Ctx.Due.key, hp, hq, hmn, hne, hne.symm, Ctx.landAll_single]
    rw [htwo]
  · have hdue : c.pend.filter (c.pendDue t) = [] := List.filter_eq_nil_iff.2 fun p hp => by simp [hno p hp]
    have hrest : c.pend.filter (!c.pendDue t ·) = c.pend := List.filter_eq_self.2 fun p hp => by simp [hno p hp]
    rw [Ctx.landDue_of_no_claims hc, hdue, hrest]
    rfl

/-- Settles O13: a landing writes one register, and the landings come moment by moment. -/
theorem resultsLand : Obligations.ResultsLand :=
  ⟨hardwiredRegisters_hold, resultsLandInTheirRegister_hold, resultsLandWhenDue_hold⟩

end Sys2Proof.Machine
end

section
/-! PROOFS. The traps of a bundle, and the bundles that are illegal (06 R143, R146, R149 to R151, 15 R309 to R328): O56. -/

namespace Sys2Proof.Machine
namespace State

/-! ## An attempt that traps (06 R149 to R151) -/

/-- The state in which an attempt looks at its bundle. -/
theorem modCur_poised (b : State) : (b.modCur fun c => { c.landDue b.now with
    out := .done, before := some { sys := (c.landDue b.now).sys, crew := (b.crewOf? b.curAge).map fun k => (k.id, k.episode) } }) =
    b.poised := rfl

section
variable {b z : State} {w : BitVec 256} {l : List Slot}

/-- The bundle cannot be fetched. -/
theorem attempt_of_bad {eva : DWord} (hf : b.poised.fetchBundle = (.bad eva, z)) :
    b.attempt = (z.trapWith 0x02 0 eva, .trapped) := by
  simp [attempt, modCur_poised, hf]

section
variable (hf : b.poised.fetchBundle = (.got w, z))
include hf

theorem attempt_of_illegal (hw : legal w = none) : b.attempt = (z.trapWith 0x01 0 0, .trapped) := by
  simp [attempt, modCur_poised, hf, hw]

/-- A privileged slot of a session without SYSTEM, in a bundle that the scoreboard does not hold. -/
theorem attempt_of_privilege (hw : legal w = some l) {eva : DWord} (hp : b.poised.privilege w l = some eva)
    (hgo : b.poised.cur.fixed = true ∨ (b.poised.schedule w l ≠ some 1 ∧ b.poised.schedule w l ≠ some 2)) :
    b.attempt = (z.trapWith 0x03 0 eva, .trapped) := by
  rcases hgo with hfix | ⟨h1, h2⟩
  · simp [attempt, modCur_poised, hf, hw, hp, hfix]
  · simp [attempt, modCur_poised, hf, hw, hp, h1, h2]

/-- A bundle of a fixed region that comes before what it reads is due. -/
theorem attempt_of_schedule (hw : legal w = some l) (hp : b.poised.privilege w l = none) (hfix : b.poised.cur.fixed = true)
    {k : Nat} (hs : b.poised.schedule w l = some k) : b.attempt = (z.trapWith 0x04 k 0, .trapped) := by
  simp [attempt, modCur_poised, hf, hw, hp, hfix, hs]

end
end

/-- Looking at an issuable context whose bundle traps is that trap. -/
theorem lookAt_of_trapped {a z : State} {c x : Nat} (ha : a.attemptable c x = true) (hst : (a.ctx c x).st = .issuable)
    (h : State.attempt { a with curCore := c, curCtx := x } = (z, .trapped)) : a.lookAt c x true = z := by
  have hcur : (State.cur { a with curCore := c, curCtx := x }).st = .issuable := hst
  simp only [lookAt, ha, h, hcur]
  rfl

end State

/-- A step of a core whose running context's bundle traps is that trap. -/
theorem step_of_trapped {s s1 z : State} {c : Nat} (h : LooksAt s s1 c)
    (hatt : ∀ b : State, b.poised = s1 → b.attempt = (z, .trapped)) : step s = .next z.after := by
  obtain ⟨r, ha, hidle, hsw, hable, hst, rfl⟩ := h
  refine step_of_turn ha (congrArg Host.Outcome.next ?_)
  have hwait : (State.ctx { s with agenda := r } c (State.core { s with agenda := r } c).running).wait = .none := by
    simp only [State.attemptable, Bool.and_eq_true, beq_iff_eq] at hable
    exact hable.1.1.1.2
  exact (State.issueCore_of_idle hsw hwait hidle).trans (State.lookAt_of_trapped hable hst (hatt _ rfl))

theorem trapsInOrder_hold : TrapsInOrder := by
  intro s s1 z c f h hf
  refine ⟨?_, ?_, ?_, ?_⟩
  · rintro eva rfl
    exact step_of_trapped h fun b hb => State.attempt_of_bad (hb ▸ hf)
  · rintro w rfl hw
    exact step_of_trapped h fun b hb => State.attempt_of_illegal (hb ▸ hf) hw
  · rintro w l eva rfl hw hgo hp
    exact step_of_trapped h fun b hb => State.attempt_of_privilege (hb ▸ hf) hw (hb ▸ hp) (hb ▸ hgo)
  · rintro w l k rfl hw hp hfix hs
    exact step_of_trapped h fun b hb => State.attempt_of_schedule (hb ▸ hf) hw (hb ▸ hp) (hb ▸ hfix) (hb ▸ hs)

/-! ## The slots of a bundle (15 R309) -/

/-- The slots of a bundle whose words are the instructions `op`. -/
def slotsOf (op : Nat → Instr) : List Slot := (List.range 8).map fun k => { idx := k, op := op k }

theorem mem_slotsOf (op : Nat → Instr) {k : Nat} (hk : k < 8) : { idx := k, op := op k } ∈ slotsOf op :=
  List.mem_map.2 ⟨k, List.mem_range.2 hk, rfl⟩

section
variable {α β : Type} {f : α → Option β} {l : List α}

theorem mapM_of_some {g : α → β} (h : ∀ a ∈ l, f a = some (g a)) : l.mapM f = some (l.map g) := by
  induction l with
  | nil => rfl
  | cons a l ih => rw [List.mapM_cons, h a (by simp), ih fun b hb => h b (by simp [hb])]; rfl

theorem mapM_of_none {a : α} (ha : a ∈ l) (h : f a = none) : l.mapM f = none := by
  induction l with
  | nil => exact absurd ha List.not_mem_nil
  | cons b l ih =>
    rw [List.mapM_cons]
    rcases List.mem_cons.1 ha with rfl | ha
    · rw [h]
      rfl
    · rw [ih ha]
      cases f b <;> rfl

end

section
variable {w : BitVec 256}

theorem legal_of_bad_word {k : Nat} (hk : k < 8) {e : DecodeError} (h : decodeSlot k (slotWord w k) = .error e) :
    legal w = none := by
  have hread : readSlots w = none := mapM_of_none (List.mem_range.2 hk) (by simp [h])
  rw [legal, hread]

variable {op : Nat → Instr} (hop : ∀ k < 8, decodeSlot k (slotWord w k) = .ok (op k))
include hop

theorem readSlots_eq : readSlots w = some (slotsOf op) :=
  mapM_of_some fun k hk => by simp [hop k (List.mem_range.1 hk)]

/-! ## The rules of a legal bundle (15 R312 to R328) -/

/-- A legal bundle keeps every rule. -/
theorem rules_of_legal (h : legal w ≠ none) : (∀ t ∈ slotsOf op, t.idx = 1 → firstOnly t.op = false) ∧ extRule (slotsOf op) = true ∧
    (slotsOf op).foldl (fun n t => n + readPorts t.op) 0 ≤ 6 ∧ orderRule (slotsOf op) = true ∧ modeRule (slotsOf op) = true := by
  rw [legal, readSlots_eq hop] at h
  dsimp only at h
  split at h
  · next hall =>
    simp only [Bool.and_eq_true, decide_eq_true_eq, List.all_eq_true, Bool.or_eq_true, bne_iff_ne, Bool.not_eq_true'] at hall
    obtain ⟨⟨⟨⟨hfirst, hext⟩, hports⟩, horder⟩, hmode⟩ := hall
    exact ⟨fun t ht h1 => (hfirst t ht).resolve_left (absurd h1), hext, hports, horder, hmode⟩
  · exact absurd rfl h

end

/-- The partner of an EXT takes it (15 R313). -/
theorem takesExt_of_extRule {op : Nat → Instr} (h : extRule (slotsOf op) = true) {k : Nat} (hk : k < 2) {x : BitVec 25}
    (hx : op k = .ext x) : takesExt (op (1 - k)) = true := by
  have hslot := List.all_eq_true.1 h _ (mem_slotsOf op (k := k) (by omega))
  have hfind : (slotsOf op).find? (fun u => u.idx == 1 - k) = some { idx := 1 - k, op := op (1 - k) } := by
    obtain rfl | rfl : k = 0 ∨ k = 1 := by omega
    · rfl
    · rfl
  simp only [hx, hfind] at hslot
  split at hslot
  · next heq => exact congrArg takesExt (congrArg Slot.op (Option.some.inj heq))
  · next _ heq => exact (congrArg takesExt (congrArg Slot.op (Option.some.inj heq))).trans hslot
  · exact absurd hslot Bool.false_ne_true

theorem readPorts_sum (op : Nat → Instr) : (slotsOf op).foldl (fun n t => n + readPorts t.op) 0 =
    ((List.range 8).map fun k => readPorts (op k)).sum := by
  rw [slotsOf, List.foldl_map, List.sum_eq_foldl, List.foldl_map]

/-- No later slot's write to a register lands before an earlier slot's (06 R143). -/
theorem orderRule_iff (l : List Slot) : orderRule l = true ↔ l.Pairwise fun t u => ∀ y ∈ writes 8 u.op, ∀ x ∈ writes 8 t.op,
    x.dest ≠ y.dest ∨ Ctx.Dest.hard x.dest = true ∨ x.lat ≤ y.lat := by
  induction l with
  | nil => simp [orderRule]
  | cons t r ih => simp [orderRule, ih, List.pairwise_cons, or_assoc]

theorem illegalBundles_hold : IllegalBundles := by
  refine fun w => ⟨fun ⟨k, hk, e, he⟩ => legal_of_bad_word hk he, fun op hop => ?_⟩
  have hrules := rules_of_legal hop
  refine ⟨fun h => ?_, fun k hk x hx h => ?_, fun h => ?_, fun j hj k hk hjk x hx y hy hxy hhard hlat => ?_,
    fun f hf k hk h0 hnop => ?_⟩
  all_goals
    by_contra hlegal
    obtain ⟨hfirst, hext, hports, horder, hmode⟩ := hrules hlegal
  · exact absurd (hfirst _ (mem_slotsOf op (k := 1) (by decide)) rfl) (by simp [h])
  · exact absurd (takesExt_of_extRule hext hk hx) (by simp [h])
  · rw [readPorts_sum] at hports
    omega
  · rw [orderRule_iff, slotsOf, List.pairwise_map, List.pairwise_iff_getElem] at horder
    have h := horder j k (by simpa using hj) (by simpa using hk) hjk y (by simpa using hy) x (by simpa using hx)
    rcases h with h | h | h
    · exact h hxy
    · simp [hhard] at h
    · omega
  · have hall := List.all_eq_true.1 hmode _ (mem_slotsOf op (k := 0) (by decide))
    simp only [hf] at hall
    have h := List.all_eq_true.1 hall _ (mem_slotsOf op hk)
    simp [h0, hnop] at h

/-- Settles O56: a step of a bundle that traps is that trap, and a legal bundle keeps every rule of 15. -/
theorem bundleTraps : Obligations.BundleTraps := ⟨trapsInOrder_hold, illegalBundles_hold⟩

end Sys2Proof.Machine
end

section
/-! PROOFS. What vector and table instructions leave unchanged (06 R138, R142, 17 R360): O57. -/

namespace Sys2Proof.Machine

/-! ## A computation of the context in hand -/

/-- A context that has computed: draws, results to come, entries of the table queue, and the slot's outcome. -/
def computed (k : Ctx) (a b : DWord) (ps : List Pend) (q : List TQEntry) (o : SlotOut) : Ctx :=
  { k with sys := { k.sys with rseed0 := a, rseed1 := b }, pend := k.pend ++ ps, tableQ := q, out := o }

/-- The context in hand has computed, and nothing else of the machine that a context, a strand or memory shows has changed. -/
structure Computes (s t : State) : Prop where
  becomes : ∃ a b ps q o, CurBecomes s t (computed s.cur a b ps q o)
  cyc : t.cyc = s.cyc
  strands : t.strands = s.strands
  bytes : SameBytes s t
  errors : t.errors = s.errors

namespace Computes

variable {s t : State}

theorem refl (s : State) : Computes s s :=
  ⟨⟨s.cur.sys.rseed0, s.cur.sys.rseed1, [], s.cur.tableQ, s.cur.out, (SameCtxs.refl s).curBecomes.of_eq (by simp [computed])⟩,
    rfl, rfl, fun _ => rfl, rfl⟩

/-- A change of the context in hand that is a computation of it. -/
theorem modCur (h : Computes s t) (hs : s.InHand) (f : Ctx → Ctx)
    (hf : ∀ a b ps q o, ∃ a' b' ps' q' o', f (computed s.cur a b ps q o) = computed s.cur a' b' ps' q' o') :
    Computes s (t.modCur f) := by
  obtain ⟨a, b, ps, q, o, hb⟩ := h.becomes
  obtain ⟨a', b', ps', q', o', hf⟩ := hf a b ps q o
  exact ⟨⟨a', b', ps', q', o', (hb.modCur hs f).of_eq hf⟩, h.cyc, h.strands, h.bytes, h.errors⟩

theorem push (h : Computes s t) (hs : s.InHand) (p : Pend) : Computes s (t.push p) :=
  h.modCur hs _ fun a b ps q o => ⟨a, b, ps ++ [{ p with wall := t.wallOf p.due, order := t.slotOrder }], q, o, by simp [computed]⟩

theorem outcome (h : Computes s t) (hs : s.InHand) (o : SlotOut) : Computes s (t.outcome o) :=
  h.modCur hs _ fun a b ps q _ => ⟨a, b, ps, q, o, rfl⟩

theorem seeds (h : Computes s t) (hs : s.InHand) (a b : DWord) :
    Computes s (t.modCur fun c => { c with sys := { c.sys with rseed0 := a, rseed1 := b } }) :=
  h.modCur hs _ fun _ _ ps q o => ⟨a, b, ps, q, o, rfl⟩

theorem drawsFor (h : Computes s t) (hs : s.InHand) (m : RMode) (n : Nat) : Computes s (t.drawsFor m n).2 := by
  unfold State.drawsFor
  split
  · exact h.seeds hs _ _
  · exact h

/-- A number that the device has given out is no part of the machine that a computation shows. -/
theorem nextSeq (h : Computes s t) : Computes s t.nextSeq.2 := by
  obtain ⟨a, b, ps, q, o, hb⟩ := h.becomes
  exact ⟨⟨a, b, ps, q, o, hb.trans ⟨hb.cur, fun _ _ _ => rfl, rfl, rfl, rfl, rfl⟩⟩, h.cyc, h.strands, h.bytes, h.errors⟩

/-- The results to come of a computation are marked as those of a table. -/
theorem ofTable (h : Computes s t) (hs : s.InHand) (g : Pend → Pend) : Computes s (t.modCur fun c =>
    { c with pend := c.pend.take s.cur.pend.length ++ (c.pend.drop s.cur.pend.length).map g }) :=
  h.modCur hs _ fun a b ps q o => ⟨a, b, ps.map g, q, o, by simp [computed]⟩

end Computes

/-! ## The errors that a read meets (03 R72) -/

/-- The results to come of the contexts have changed, at most, of all that a context or a strand shows. -/
structure PendsOnly (s t : State) : Prop where
  cyc : t.cyc = s.cyc
  strands : t.strands = s.strands
  curCore : t.curCore = s.curCore
  curCtx : t.curCtx = s.curCtx
  ctx : ∀ c x, ∃ ps, t.ctx c x = { s.ctx c x with pend := ps }

namespace PendsOnly

variable {s t u : State}

theorem of_sameCtxs (h : SameCtxs s t) (hcyc : t.cyc = s.cyc) (hstrands : t.strands = s.strands) : PendsOnly s t :=
  ⟨hcyc, hstrands, h.curCore, h.curCtx, fun c x => ⟨(s.ctx c x).pend, h.ctx c x⟩⟩

theorem refl (s : State) : PendsOnly s s := of_sameCtxs (.refl s) rfl rfl

theorem trans (h : PendsOnly s t) (g : PendsOnly t u) : PendsOnly s u := by
  refine ⟨g.cyc.trans h.cyc, g.strands.trans h.strands, g.curCore.trans h.curCore, g.curCtx.trans h.curCtx, fun c x => ?_⟩
  obtain ⟨ps, hp⟩ := h.ctx c x
  obtain ⟨qs, hq⟩ := g.ctx c x
  exact ⟨qs, by rw [hq, hp]⟩

theorem cur (h : PendsOnly s t) : ∃ ps, t.cur = { s.cur with pend := ps } := by
  rw [State.cur, h.curCore, h.curCtx]
  exact h.ctx s.curCore s.curCtx

end PendsOnly

namespace State

/-- The results to come of each context of a core have changed. -/
theorem getD_mapFinIdx_pend (v : Vector Ctx 4) (g : Ctx → List Pend) (y : Nat) :
    ∃ ps, (v.mapFinIdx fun _ t _ => { t with pend := g t })[y]?.getD {} = { v[y]?.getD {} with pend := ps } := by
  by_cases hy : y < 4
  · exact ⟨g v[y], by simp [hy]⟩
  · exact ⟨[], by simp [hy]⟩

/-- The retry of a table read delays results alone (03 R73). -/
theorem modCore_addRetry_pendsOnly (s : State) (c n : Nat) : PendsOnly s (s.modCore c (addRetry 3 n)) := by
  refine ⟨rfl, rfl, rfl, rfl, fun d y => ?_⟩
  by_cases hd : c = d
  · subst hd
    by_cases hc : c < 128
    · rw [ctx, modCore, core_setCore _ _ _ hc, ctx]
      exact getD_mapFinIdx_pend (s.core c).ctxs _ y
    · exact ⟨(s.ctx c y).pend, by simp [ctx, core, modCore, setCore, hc]⟩
  · exact ⟨(s.ctx d y).pend, by rw [ctx, modCore, core_setCore_ne _ _ _ _ hd]; rfl⟩

theorem meetError_pendsOnly (s : State) (a n : Nat) (e : Nat × Nat) : PendsOnly s (s.meetError a n e) := by
  have hcount (c : Nat) (f : Core → Core) (hf : ∀ k, (f k).ctxs = k.ctxs) : PendsOnly s (s.modCore c f) :=
    .of_sameCtxs (modCore_sameCtxs s c hf) rfl rfl
  have hlog (t : State) (u i p : Nat) (x : Nat) (h : PendsOnly s t) : PendsOnly s (t.logFault 0 u i p x) :=
    h.trans (.of_sameCtxs ⟨fun _ _ => rfl, rfl, rfl, rfl, rfl⟩ rfl rfl)
  unfold meetError
  dsimp only
  split
  · split
    · exact hcount _ _ fun _ => rfl
    · exact .of_sameCtxs ⟨fun _ _ => rfl, rfl, rfl, rfl, rfl⟩ rfl rfl
  · refine hlog _ _ _ _ _ ?_
    split
    · exact modCore_addRetry_pendsOnly ..
    · exact hcount _ _ fun _ => rfl
    · exact .refl s
  · exact .of_sameCtxs ⟨fun _ _ => rfl, rfl, rfl, rfl, rfl⟩ rfl rfl

theorem meet_pendsOnly (s : State) (a n : Nat) : PendsOnly s (s.meet a n) :=
  Laws.Memory.foldl_keeps (PendsOnly s) _ (fun t e h => h.trans (meetError_pendsOnly t a n e)) _
    (.of_sameCtxs ⟨fun _ _ => rfl, rfl, rfl, rfl, rfl⟩ rfl rfl)

/-! ## A trap -/

theorem endStrands_hand (s : State) (sess : Nat) :
    (s.endStrands sess).curCore = s.curCore ∧ (s.endStrands sess).curCtx = s.curCtx := by
  unfold endStrands
  dsimp only
  refine Laws.Memory.foldl_keeps (fun t : State => t.curCore = s.curCore ∧ t.curCtx = s.curCtx)
    (fun t a => (t.leaveCrew a).releaseFeed a none) (fun _ _ h => h) _ ?_
  exact ⟨rfl, rfl⟩

theorem killSession_inHand {s : State} (hs : s.InHand) (sess : Nat) : (s.killSession sess).InHand := by
  have hhand : (s.killSession sess).curCore = s.curCore ∧ (s.killSession sess).curCtx = s.curCtx := endStrands_hand _ sess
  rwa [InHand, hhand.1, hhand.2]

/-- A slot that traps is marked as trapped, whatever becomes of its session. -/
theorem trapWith_out {s : State} (hs : s.InHand) (code sub : Nat) (eva : DWord) : (s.trapWith code sub eva).cur.out = .trapped := by
  by_cases hq : Quiet s.cur
  · have hhand : (s.enterTrap s.curCore s.curCtx (causeOf code s.curSlot sub) eva).InHand := by
      unfold enterTrap
      dsimp only
      split
      · refine killSession_inHand ?_ _
        exact hs
      · exact hs
    rw [trapWith_of_quiet code sub eva hq, cur_outcome hhand]
  · rw [(trapWith_becomes_waiting code sub eva hs hq).cur]

end State

/-! ## The shapes of a vector instruction and of a table instruction -/

/-- The instruction traps, or computes and may read a table, whose errors it meets. -/
def Framed (s : State) (o : Out) : Prop :=
  ∃ t, o = .next t ∧ (t.cur.out = .trapped ∨ ∃ y, Computes s y ∧ (t = y ∨ ∃ a n, t = y.meet a n))

theorem Computes.framed {s t : State} (h : Computes s t) : Framed s (.next t) := ⟨t, rfl, .inr ⟨t, h, .inl rfl⟩⟩

section
variable {s : State} (hs : s.InHand)
include hs

theorem framed_trapWith (code sub : Nat) (eva : DWord) : Framed s (.next (s.trapWith code sub eva)) :=
  ⟨_, rfl, .inl (State.trapWith_out hs code sub eva)⟩

theorem framed_push (p : Pend) : Framed s (.next (s.push p)) := ((Computes.refl s).push hs p).framed

theorem framed_vecOp (q d lat x) : Framed s (vecOp q d lat x s) := framed_push hs _

theorem framed_vecInt1 (q e d a f) : Framed s (vecInt1 q e d a f s) := framed_push hs _

theorem framed_vecInt2 (q e d a b lat f) : Framed s (vecInt2 q e d a b lat f s) := framed_push hs _

theorem framed_vecFp (q e d a b fn lat g) : Framed s (vecFp q e d a b fn lat g s) :=
  (((Computes.refl s).drawsFor hs _ _).push hs _).framed

theorem framed_vecMinMax (q e d a b w) : Framed s (vecMinMax q e d a b w s) := framed_push hs _

theorem framed_vreduce (q d a w op) : Framed s (vreduce q d a w op s) := framed_push hs _

theorem framed_vcvt (q mode d a x y) : Framed s (vcvt q mode d a x y s) := by
  unfold vcvt
  split
  · next dst src _ _ =>
    have hd (n : Nat) : Computes s (if drawsPer src dst then s.drawsFor mode n else ([], s)).2 := by
      split
      · exact (Computes.refl s).drawsFor hs _ _
      · exact .refl s
    exact ((hd _).push hs _).framed
  · exact framed_trapWith hs ..

theorem framed_vcvtef (q mode d a x y) : Framed s (vcvtef q mode d a x y s) := by
  unfold vcvtef
  split
  · split
    · exact ((((Computes.refl s).drawsFor hs _ _).push hs _).push hs _).framed
    · exact framed_trapWith hs ..
  · exact framed_trapWith hs ..

theorem framed_execVrand (q d e) : Framed s (execVrand q d e s) := by
  unfold execVrand
  generalize rngSteps 32 s.cur.sys.rseed0 s.cur.sys.rseed1 = r
  exact (((Computes.refl s).seeds hs _ _).push hs _).framed

/-! ### Tables -/

theorem framed_tableWork (slot n : Nat) {f : State → State} (hf : Computes s (f s)) : Framed s (.next (s.tableWork slot n f)) :=
  ⟨_, rfl, .inr ⟨_, hf.ofTable hs _, .inr ⟨_, _, rfl⟩⟩⟩

theorem framed_tableUse (tb good) {f : State → BitVec 128 → State} (hf : ∀ d, Framed s (.next (f s d))) :
    Framed s (.next (s.tableUse tb good f)) := by
  unfold State.tableUse
  dsimp only
  split
  · exact ((Computes.refl s).outcome hs .held).framed
  · split
    · exact framed_trapWith hs ..
    · split
      · exact framed_trapWith hs ..
      · exact hf _

theorem framed_query (tb good) {f : State → BitVec 128 → State} (hf : ∀ d, Computes s (f s d)) :
    Framed s (.next (s.query tb good f)) :=
  framed_tableUse hs _ _ fun d => framed_tableWork hs _ _ (hf d)

theorem framed_execTload (a t) : Framed s (execTload a t s) := by
  unfold execTload
  dsimp only
  split
  · exact framed_trapWith hs ..
  · split
    · exact framed_trapWith hs ..
    · split
      · exact framed_trapWith hs ..
      · split
        · exact ((Computes.refl s).outcome hs .held).framed
        · refine ((Computes.refl s).nextSeq.modCur hs _ ?_).framed
          exact fun a b ps q o => ⟨a, b, ps, _, o, rfl⟩

/-! ### The dispatch -/

/-- Every instruction of the V and the X class computes or traps. -/
theorem framed_exec {i : Instr} (hi : i.slotKind = some .v ∨ i.slotKind = some .x) : Framed s (exec i s) := by
  have hkind : (i.slotKind == some .v || i.slotKind == some .x) = true := by simpa using hi
  cases i with
  | vadd | vsub | vadds | vsubs | vmul | vmulh | vmin | vmax | vshl | vshr | vsar =>
    dsimp only [exec]
    exact framed_vecInt2 hs ..
  | vabs | vneg | vpopc | vclz | vshli | vshri =>
    dsimp only [exec]
    exact framed_vecInt1 hs ..
  | vdot4 | vand | vor | vxor | vandn | vperm | vshuf | vslide | vbcast | vmovi | vmov | vtget | vrdacc =>
    dsimp only [exec]
    exact framed_vecOp hs ..
  | vfadd | vfsub | vfmul | vfma | vfnma =>
    dsimp only [exec]
    exact framed_vecFp hs ..
  | vfmin | vfmax =>
    dsimp only [exec]
    exact framed_vecMinMax hs ..
  | vcvt1 | vcvt2 =>
    dsimp only [exec]
    exact framed_vcvt hs ..
  | vcvtef1 | vcvtef2 =>
    dsimp only [exec]
    exact framed_vcvtef hs ..
  | vsum | vrmax | vrmin =>
    dsimp only [exec]
    exact framed_vreduce hs ..
  | vcmp | vsel | qop | qfromg | vfcmp | vscan | vextr | vtset | rcp | rsq | sinpi | cospi => exact framed_push hs _
  | tq | tqi => exact framed_query hs _ _ fun _ => (Computes.refl s).push hs _
  | tqp => exact framed_query hs _ _ fun _ => ((Computes.refl s).push hs _).push hs _
  | tinfo => exact framed_tableUse hs _ _ fun _ => framed_push hs _
  | exp2 | log2 => exact framed_tableWork hs _ _ ((Computes.refl s).push hs _)
  | tload => exact framed_execTload hs ..
  | vrand => exact framed_execVrand hs ..
  | _ => exact absurd hkind Bool.false_ne_true

end

/-- Settles O57: every form computes or traps, and what a computation's reads of a table meet delays results alone. -/
theorem vectorFrame : Obligations.VectorFrame := by
  intro s t i hs hi ht hout
  obtain ⟨z, hz, hcase⟩ := framed_exec hs hi
  obtain rfl : z = t := Host.Outcome.next.inj (hz.symm.trans ht)
  obtain ⟨y, hy, hmeet⟩ := hcase.resolve_left hout
  obtain ⟨a, b, ps, q, o, hb⟩ := hy.becomes
  have hpends : PendsOnly y z := by
    rcases hmeet with rfl | ⟨p, n, rfl⟩
    · exact .refl z
    · exact State.meet_pendsOnly y p n
  obtain ⟨qs, hcur⟩ := hpends.cur
  rw [hb.cur] at hcur
  rw [hcur]
  refine ⟨hpends.cyc.trans hy.cyc, hpends.strands.trans hy.strands, rfl, rfl, rfl, rfl, rfl, rfl, fun herr => ?_⟩
  obtain rfl : z = y := by
    rcases hmeet with rfl | ⟨p, n, rfl⟩
    · rfl
    · exact State.meet_of_no_errors (hy.errors.trans herr) p n
  refine ⟨hy.bytes, hb.others, ps, ?_⟩
  rw [hb.cur] at hcur
  exact (congrArg Ctx.pend hcur).symm

end Sys2Proof.Machine
end
